-- ==== Sys2Proof/Word.lean ====
section
/-! DEFINITION. The plain number types of the model: a byte, a byte string, and the widths the manual names. -/
namespace Sys2Proof

/-- One byte (R11). -/
abbrev Byte := BitVec 8

/-- A string of bytes, lowest offset first (R11). -/
abbrev Bytes := List Byte

/-- A partition index 0-7 (R334). -/
abbrev PartId := Fin 8

/-- A mailbox index 0-7 (R292). -/
abbrev BoxId := Fin 8

/-- A cell number 0-127, n = 64 d + 8 y + x (R6). -/
abbrev CellId := Fin 128

/-- A scratchpad region index 0-15 (R89). -/
abbrev RegionId := Fin 16

/-- An updraft engine of a cell, 0 or 1 (R98). -/
abbrev EngineId := Fin 2

/-- A lane group 0-7 of 32 lanes (the lane and its planes, chapter 02). -/
abbrev LaneGroup := Fin 8

/-- A tile index 0-63 (R38). -/
abbrev TileId := Fin 64

/-- A host port H0-H3 (R281). -/
abbrev HostPort := Fin 4

/-- A fabric port: 0 X0, 1 X1, 2 Y0, 3 Y1, 4 Z0, 5 Z1 (R283). -/
abbrev FabPort := Fin 6

/-- An HBM channel 0-191 (R251). -/
abbrev ChannelId := Fin 192

/-- A module-wide pseudo-channel 0-383 (R251). -/
abbrev PseudoChannel := Fin 384

/-- An HBM stack 0-11 (R7). -/
abbrev StackId := Fin 12

end Sys2Proof
end

