-- ==== Sys2Proof/Syntax.lean ====
section
/-! DEFINITION. The commands the block takes: one constructor per row of spec/opcode_table.json, with the operands the
spec gives the row. A mailbox command's operands beyond its partition and mailbox stand in the mailbox and the bulk
slots themselves (R337-R346), so the row carries none of them. An operand `t` is the timebase instant at which a
time-driven row happens (notes/assumptions/2.md). -/
namespace Sys2Proof

/-! ## Operands of the Ethernet rows -/

/-- The transport of a received InfiniBand packet (R289). -/
inductive Transport where
  | rc
  | uc
  | ud
  | xrc
  deriving DecidableEq, Repr

/-- The operation of a received RoCE packet (R289). -/
inductive RoceOp where
  | write          -- RDMA WRITE first, middle, last or only
  | read           -- RDMA READ request
  | send
  | writeImm       -- RDMA WRITE with immediate
  | atomic         -- atomics, Send with Invalidate, bind and invalidate operations
  | reserved       -- a reserved opcode
  deriving DecidableEq, Repr

/-- A received RoCE packet, as its headers give it (R289, R300). `va` is the window address of this packet's first
byte; `msgLen` is the RETH length of its message and `msgOff` the packet's offset in it. -/
structure RocePkt where
  port : HostPort
  icrcOk : Bool
  transport : Transport
  qp1 : Bool
  qpn : Nat
  srcGid : Nat
  psn : Nat
  op : RoceOp
  rkey : Nat
  va : Nat
  msgLen : Nat
  msgOff : Nat
  first : Bool
  last : Bool
  payload : Bytes
  ce : Bool
  deriving DecidableEq, Repr

/-- How the host answers a notice (R297): it acknowledges it, or it NAKs it receiver not ready, `last` where that uses up the
host's RNR retries. -/
inductive NoticeAck where
  | ack
  | rnr (last : Bool)
  deriving DecidableEq, Repr

/-- A host's answer to a notice, with the QP it reaches (R297). -/
structure NoticeIn where
  qp : Nat
  how : NoticeAck
  deriving DecidableEq, Repr

/-- A received LLDP frame's two identifying TLVs: subtype and value (R286). -/
structure LldpIn where
  chassisSub : Nat
  chassis : Bytes
  portSub : Nat
  portId : Bytes
  deriving DecidableEq, Repr

/-- A stream of the fabric transport seen from this module (R304): the job (0 for none), the peer's rank, or its index
for JOB 0, and the class. -/
structure StreamKey where
  job : Nat
  peer : Nat
  cls : Nat
  deriving DecidableEq, Repr

/-- An Ethernet port of the module: host or fabric (R281, R282). -/
inductive Port where
  | host (p : HostPort)
  | fabric (p : FabPort)
  deriving DecidableEq, Repr

/-! ## Operands of the record rows (R313-R316) -/

/-- A REDUCE record (R314) with the step number of its message header (R304) and the sending rank. -/
structure ReduceRec where
  rank : Nat
  step : Nat
  desc : Nat
  token : Nat
  block : Nat
  shift : Nat
  dir : Nat
  vals : List Int
  deriving DecidableEq, Repr

/-- A GATHER or TERM record (R315) with its message's step number and the sending rank. -/
structure GatherRec where
  rank : Nat
  step : Nat
  desc : Nat
  token : Nat
  first : Nat
  scaleWord : Nat
  wisp3 : Bool
  blocks : List Bytes
  deriving DecidableEq, Repr

/-- The body of a STATS message (R316): per sequence the statistics m and the block-trigger bits, both in the order of
R316, then CLAMPS and LNS_SAT per descriptor, then ACTIVE and MISSED per predicted descriptor. -/
structure StatsBody where
  ms : List (List Nat)
  trigs : List (List Bool)
  clamps : List Nat
  lnsSats : List Nat
  active : List Nat
  missed : List Nat
  deriving DecidableEq, Repr

/-- A received ship stream: manifest header, scale record and pages (R222). `readFault` marks a stream cut short. -/
structure ShipIn where
  manifest : Bytes
  scale : Bytes
  pages : Bytes
  cutShort : Bool
  deriving DecidableEq, Repr

/-! ## Operands of the cell rows -/

/-- Where a partial result stands in its accumulation group (R52); `pass` is the pass of a sparse chunk and `plane`
the plane of a ternary chunk or the 64-input group of a wide chunk. -/
structure PartialPos where
  window : Nat
  slot : Nat
  chunk : Nat
  pass : Nat
  plane : Nat
  deriving DecidableEq, Repr

/-- Bits found flipped in a stored scratchpad line since it was written (R260): masks by byte of the line; and masks of check
bits by 64-bit word, the eight of the SEC-DED code in a WEIGHT region, else the parity bits of the word's bytes. -/
structure Upset where
  data : List (Nat × Byte)
  check : List (Nat × Byte)
  deriving DecidableEq, Repr

/-- What an opening instruction of a stage program names (R78, R83): the descriptor, the expert and matrix of it, the output
block, the token tile, and the input blocks of each promotion window. All else that the tag fixes follows from the step. -/
structure OpenIn where
  desc : Nat
  expert : Nat
  matrix : Nat
  block : Nat                       -- output block of 256 rows
  tile : Nat                        -- token tile of the stage's work, from 0
  windows : List (List Nat)
  deriving DecidableEq, Repr

/-- One plane step of a lane group (R48): the tile whose group it belongs to, the partial's position, and where the chunk's
1,024 activations stand in plane form: a region and the line of it, counted from TAIL (R29). The upsets are those of the lines
it reads: of the weight block by line of the block, of the activations by line of the vector (R260). -/
structure PlaneIn where
  tile : TileId
  pos : PartialPos
  src : RegionId
  line : Nat
  weightUps : List (Nat × Upset)
  actUps : List (Nat × Upset)
  deriving DecidableEq, Repr

/-- Where the four outlier lists of a chunk stand that retire with it (R30, R57): two lines of a region, from the one named,
counted from TAIL; none for a chunk whose vector has no lists (R65, R66). -/
structure SideIn where
  lists : Option (RegionId × Nat)
  deriving DecidableEq, Repr

/-- Bits found flipped in an element of accumulator memory (R357): the element of the tile, and a mask over the 55 bits of its
code word. -/
structure AccUpset where
  element : Nat
  mask : BitVec 55
  deriving DecidableEq, Repr

/-- A tile of accumulator memory that a reader takes its words from, with the upset found in it, if any (R357). -/
structure AccRead where
  tile : TileId
  err : Option AccUpset
  deriving DecidableEq, Repr

/-- A transform of a fetch list entry (R99). -/
inductive FetchKind where
  | plain
  | wispExpand
  | pageWalk
  deriving DecidableEq, Repr

/-- Who writes a scratchpad region (R89). -/
inductive Producer where
  | none
  | updraft0
  | updraft1
  | mesh
  | seam
  | ownCell
  deriving DecidableEq, Repr

/-- One 64 × 64 step of the log engine (R58): the two lists of LNS16 operands, the alignment q, and whether the sums start
afresh. -/
structure LogIn where
  rows : List Nat
  cols : List Nat
  q : Nat
  first : Bool
  deriving DecidableEq, Repr

/-- What the vector unit does to one element per lane (R133): the operands are (y, token-scale word) for `entry`, and
LNS16 words or sums otherwise. An `exit` that rounds stochastically names the sequence id, position, layer and first output
index of its LFSR seeds (R64). -/
inductive VectorOp where
  | entry
  | product
  | quotient
  | alignSum (q : Nat)
  | ret (q : Nat)
  | fn (f : Nat)
  | exit (lsh outW tokWord : Nat) (seed : Option (Nat × Nat × Nat × Nat))
  deriving DecidableEq, Repr

/-! ## Operands of the memory rows -/

/-- Which agent of the module makes an HBM access (R265, R369); of the updraft engines, which. -/
inductive Agent where
  | cell
  | updraft (e : EngineId)
  | hubDma
  | controlCore
  | sequenceEngine
  | pageManager
  | roce
  deriving DecidableEq, Repr

/-- Disturbances found in the stored bits: data bytes to flip (address, mask) and side bits to flip (burst index, mask).
They stand for what happened to the cells of the memory since the word was last written. -/
structure Disturb where
  data : List (Nat × Byte)
  side : List (Nat × BitVec 32)
  deriving DecidableEq, Repr

/-- The element type of an add request (R266). -/
inductive AddType where
  | int32
  | int48
  | binary32
  | bfloat16
  deriving DecidableEq, Repr

/-! ## Operands of the board and power rows -/

/-- The fields of the power request block that a request latches (R402). -/
structure PowReq where
  atTime : Nat
  partition : Nat
  cell : Nat
  wakeOnFlip : Bool
  key : Nat
  reservedNonzero : Bool
  deriving DecidableEq, Repr

/-- What a boot meets that is not state: whether the PUF key is reconstructed and the sealed keys unseal (R378, R385),
the outcome of training and self-test (R276, R366), and whether READY is reached in time (R379). -/
structure BootIn where
  pufOk : Bool
  spares : List (Nat × Nat)        -- (channel, lanes replaced)
  failedChannels : List Nat
  selfTest : List Nat              -- SELFTEST bits set (R380)
  reachesReady : Bool
  readyTime : Nat
  deriving DecidableEq, Repr

/-- The measured fields of the module status block (R432). -/
structure Sensors where
  vin10mv : BitVec 16
  pinW : BitVec 16
  tjMax : BitVec 16
  hbmTmax : BitVec 16
  coolantIn : BitVec 16
  coolantOut : BitVec 16
  deriving DecidableEq, Repr

/-- The causes of a trip (R432, R436). -/
inductive TripCause where
  | junction
  | coolant
  | overvoltage
  | converter
  deriving DecidableEq, Repr

/-- The two targets on the sideband bus (R430). -/
inductive I3cTarget where
  | status
  | mctp
  deriving DecidableEq, Repr

/-- A message to the MCTP target (R433). -/
inductive MctpMsg where
  | setEndpointId (eid : Nat)
  | getEndpointId
  | pldmDiscovery
  | pldmSensor (index : Nat)
  | pldmFru
  | recovery (hdr : Bytes) (object : Bytes) (rsaOk slhOk : Bool)
  | other
  deriving DecidableEq, Repr

/-- Whether the two signatures over an object verify under the keys that R376 names (R375): the verdicts of the
security block on the object presented. -/
structure Sigs where
  rsaOk : Bool
  slhOk : Bool
  deriving DecidableEq, Repr

/-! ## The commands -/

/-- The commands of the block: one constructor per row of the table, in the table's order. -/
inductive Instr where
  -- mailbox commands (R343): the command that stands flipped in mailbox `m` of partition `p`
  | queryModule (p : PartId) (m : BoxId)
  | applyConfigSet (p : PartId) (m : BoxId)
  | loadGraph (p : PartId) (m : BoxId)
  | loadWeights (p : PartId) (m : BoxId)
  | placePreview (p : PartId) (m : BoxId)
  | placeRequest (p : PartId) (m : BoxId)
  | queryPlacement (p : PartId) (m : BoxId)
  | openJob (p : PartId) (m : BoxId)
  | closeJob (p : PartId) (m : BoxId)
  | switchJob (p : PartId) (m : BoxId)
  | runStep (p : PartId) (m : BoxId)
  | admitSequence (p : PartId) (m : BoxId)
  | cancelSequence (p : PartId) (m : BoxId)
  | pauseSequence (p : PartId) (m : BoxId)
  | resumeSequence (p : PartId) (m : BoxId)
  | shipKv (p : PartId) (m : BoxId)
  | acceptKv (p : PartId) (m : BoxId)
  | scheduleAt (p : PartId) (m : BoxId)
  | readCounters (p : PartId) (m : BoxId)
  | readEvents (p : PartId) (m : BoxId)
  | fwStageDelta (p : PartId) (m : BoxId) (sigs : Sigs)
  | fwActivateAt (p : PartId) (m : BoxId)
  | fwForward (p : PartId) (m : BoxId)
  | attest (p : PartId) (m : BoxId)
  | debugArmSnapshot (p : PartId) (m : BoxId)
  | debugReadSnapshot (p : PartId) (m : BoxId)
  | debugClearSelection (p : PartId) (m : BoxId)
  -- boundaries, instants and steps
  | stepBoundary (job : Nat) (t : Nat)
  | scheduledInstant (t : Nat)
  | fwMigrationTimeout (t : Nat)
  | stepComplete (job : Nat)
  -- records received over the fabric
  | controlStepDone (job rank step boundary : Nat)
  | controlKill (job rank step reason : Nat)
  | controlAbort (job rank : Nat)
  | statsMessage (job rank step : Nat) (down : Bool) (body : StatsBody)
  | reduceRecord (job : Nat) (rec : ReduceRec)
  | gatherRecord (job : Nat) (rec : GatherRec)
  | termRecord (job : Nat) (rec : GatherRec)
  | shipStream (shipId : Nat) (ship : ShipIn)
  | fwDeltaMessage (peer : Nat) (hdr : Bytes) (object : Bytes) (sigs : Sigs)
  | fwStagedReply (peer : Nat) (kind status : Nat)
  -- fabric transport
  | fabricDataFrame (port : FabPort) (src : BitVec 48) (frame : Bytes)
  | fabricAckFrame (port : FabPort) (src : BitVec 48) (frame : Bytes)
  | fabricNakFrame (port : FabPort) (src : BitVec 48) (frame : Bytes)
  | fabGapExpiry (key : StreamKey) (seq : Nat) (t : Nat)
  | fabRtoExpiry (key : StreamKey) (t : Nat)
  | fabricAckDelay (key : StreamKey) (t : Nat)
  | lldpTransmit (port : FabPort) (t : Nat)
  | lldpFrame (port : FabPort) (f : LldpIn)
  | lldpMiswireTimeout (port : FabPort) (t : Nat)
  | linkUp (port : Port) (t : Nat)
  | linkDown (port : Port)
  -- host ports
  | roceRdmaWrite (pkt : RocePkt)
  | roceRdmaRead (pkt : RocePkt)
  | roceRefusedPacket (pkt : RocePkt)
  | roceCnp (qp : Nat) (t : Nat)
  | roceRateIncrease (qp : Nat) (t : Nat)
  | noticeAcknowledge (x : NoticeIn)
  | noticeAckTimeout (qp : Nat) (t : Nat)
  | qpRestart (qp : Nat) (t : Nat)
  | pfcFrame (port : HostPort) (prio : Nat) (pauseTicks : Nat) (t : Nat)   -- `prio` 8 is an IEEE 802.3x PAUSE frame
  | pfcPauseExpiry (port : HostPort) (t : Nat)
  | pfcXon (port : HostPort)
  | arpRequest (port : HostPort) (addr : BitVec 32)
  | neighborSolicitation (port : HostPort) (addr : BitVec 128)
  -- cells
  | updraftListStart (cell : CellId) (e : EngineId)
  | updraftEntryIssue (cell : CellId) (e : EngineId)
  | regionLineWrite (cell : CellId) (r : RegionId) (by_ : Producer) (src : Option CellId) (line : Bytes)
  | heldWriteRelease (cell : CellId) (r : RegionId) (t : Nat)
  | regionLineConsume (cell : CellId) (r : RegionId) (u : Upset)
  | arrivalWaitDone (cell : CellId) (r : RegionId) (n : Nat) (t : Nat)
  | flowStall (cell : CellId) (r : RegionId) (t : Nat)
  | planeStep (cell : CellId) (g : LaneGroup) (x : PlaneIn)
  | partialRetire (cell : CellId) (g : LaneGroup) (tile : TileId) (side : SideIn) (err : Option AccUpset)
  | groupOpen (cell : CellId) (pass tb tc : Nat) (x : OpenIn)
  | groupRequantise (cell : CellId) (x : AccRead)
  | reductionContextStart (die : Fin 2) (stage : Nat) (tile : TileId) (cell : CellId) (x : AccRead)
  | microcodeTrap (cell : CellId) (offset syndrome : Nat) (t : Nat)
  | microcodeReloadDone (cell : CellId)
  | channelHalt (chan : Nat) (cell : CellId) (entry : Nat)
  | channelPatternDone (chan : Nat) (cell : CellId) (pass : Bool)
  -- memory
  | hbmRead (who : Agent) (addr len : Nat) (d : Disturb)
  | hbmWrite (who : Agent) (addr : Nat) (data : Bytes) (d : Disturb)
  | hbmNarrowAccess (who : Agent) (addr : Nat) (write : Option Bytes) (d : Disturb)
  | hbmAddRequest (addr : Nat) (ty : AddType) (mask : Nat) (operands : Bytes) (d : Disturb)
  | lineRebuild (stripe : Nat) (stack : StackId) (line : Nat)
  | blockRepairDone (gref desc entry : Nat)
  | scrubVisit (pc : PseudoChannel) (t : Nat) (d : Disturb)
  | generatorStart (c : ChannelId)
  | generatorStop (c : ChannelId)
  | generatorRunDone (c : ChannelId) (bursts errors : Nat) (firstFail : Nat) (dqFail : BitVec 64) (sideFail : BitVec 8)
  -- placement and shipping
  | replWindowEnd (job : Nat) (tops totals : List (Nat × Nat))   -- by stage, in ticks
  | replacementCopiesDone (job : Nat)
  | acceptKvOpenWaitExpiry (p : PartId) (m : BoxId) (t : Nat)
  -- timebase and coordinates
  | marker (t : Nat)
  | markerMissing (t : Nat)
  | refclkCheck (t : Nat) (swingMv ppm : Int)
  | seedCommit (v : Byte)
  | timeLatchRead
  | coordinateCommit (v : Byte)
  -- power states and resets
  | powerRequestActive (r : PowReq) (t : Nat)
  | powerRequestLull (r : PowReq) (t : Nat)
  | powerRequestCalm (r : PowReq) (t : Nat)
  | calmEntered
  | warmReset (r : PowReq) (t : Nat) (sigs : Sigs)
  | partitionReset (r : PowReq) (t : Nat)
  | cellReset (r : PowReq) (t : Nat)
  | streamingComplete (t : Nat)
  | powerSample (watts : Nat) (tjEighths : Int) (t : Nat)
  | sensorRefresh (v : Sensors) (t : Nat)
  -- board
  | vinRise
  | vinFall
  | auxPowerApplied
  | modResetNAssert
  | modResetNRelease (recovN : Bool) (sa : Fin 8) (b : BootIn)
  | bootWatchdogExpiry (b : BootIn)
  | trip (cause : TripCause)
  | tapReset
  | tapBypass (tdi : Bool)
  | tapIdcode
  | tapSamplePreload (captured loaded : List Bool)
  | tapExtest
  | tapClamp
  | tapHighz
  | i3cSetdasa (target : I3cTarget) (staticAddr : Nat) (dynAddr : Nat)
  | i3cEntdaa (target : I3cTarget) (dynAddr : Nat)
  | statusTargetWrite (offset : Nat) (data : Bytes)
  | mctpMessage (msg : MctpMsg)
  -- recovery mode
  | recoveryBeacon (t : Nat)
  | recoveryImage (serial : Nat) (manifest image : Bytes) (sigs : Sigs)
  | recoveryConfig (serial : Nat) (block : Bytes) (ownerNumber : Nat) (sigs : Sigs)
  | recoveryOwner (serial : Nat) (ownerNumber : Nat) (digest : BitVec 384) (sigs : Sigs)
  | recoveryFirst (serial : Nat) (manifest image : Bytes) (sigs : Sigs)
  | recoveryRestart (serial : Nat) (recovN : Bool) (sa : Fin 8) (b : BootIn)
  -- units of a cell
  | logEngineStep (cell : CellId) (x : LogIn)
  | vectorUnitStep (cell : CellId) (op : VectorOp) (a b : List Int)
  -- the rest of the table
  | auxPowerRemoved
  | mailboxProtocolViolation (p : PartId) (m : BoxId)
  | hbmRecalibrationDone
  | shipCommitAcknowledged (shipId : Nat)
  deriving DecidableEq, Repr

end Sys2Proof
end

