-- ==== Sys2Proof/Machine/Operands.lean ====
section
/-! DEFINITION. How numbers stand in byte strings: little-endian fields (R11), bit ranges, and the readers and
writers every structure map of the manual uses. -/
namespace Sys2Proof.Machine

/-- The number a little-endian byte string holds (R11). -/
def leNat : Bytes → Nat
  | [] => 0
  | b :: bs => b.toNat + 256 * leNat bs

/-- The low `n` bytes of a number, little-endian (R11). -/
def leBytes : Nat → Nat → Bytes
  | 0, _ => []
  | n + 1, x => BitVec.ofNat 8 x :: leBytes n (x / 256)

/-- The number a big-endian byte string holds (the fabric transport header, R303). -/
def beNat (bs : Bytes) : Nat := leNat bs.reverse

/-- The low `n` bytes of a number, big-endian (R303). -/
def beBytes (n x : Nat) : Bytes := (leBytes n x).reverse

/-- Byte `o` of a string; 0 past its end. -/
def u8 (bs : Bytes) (o : Nat) : Nat := (bs.getD o 0).toNat

/-- `n` bytes from offset `o`, fewer when the string ends first. -/
def sub (bs : Bytes) (o n : Nat) : Bytes := (bs.drop o).take n

/-- The 16-bit field at offset `o`. -/
def u16 (bs : Bytes) (o : Nat) : Nat := leNat (sub bs o 2)

/-- The 32-bit field at offset `o`. -/
def u32 (bs : Bytes) (o : Nat) : Nat := leNat (sub bs o 4)

/-- The 64-bit field at offset `o`. -/
def u64 (bs : Bytes) (o : Nat) : Nat := leNat (sub bs o 8)

/-- Bits `[lo + n - 1 : lo]` of a number. -/
def fld (x lo n : Nat) : Nat := x / 2 ^ lo % 2 ^ n

/-- Bit `i` of a number. -/
def bit (x i : Nat) : Bool := x.testBit i

/-- 1 for true, 0 for false. -/
def b2n (b : Bool) : Nat := if b then 1 else 0

/-- A string of exactly `n` bytes: cut, or padded with zero bytes. -/
def fitBytes (n : Nat) (bs : Bytes) : Bytes :=
  let t := bs.take n
  t ++ List.replicate (n - t.length) 0

/-- `n` zero bytes. -/
def zeros (n : Nat) : Bytes := List.replicate n 0

/-- Are all bytes from offset `o` for `n` bytes zero? -/
def zeroAt (bs : Bytes) (o n : Nat) : Bool := (sub bs o n).all (· == 0)

/-- `bs` with `new` written over it at offset `o` (the length of `bs` is kept). -/
def patch (bs : Bytes) (o : Nat) (new : Bytes) : Bytes :=
  bs.take o ++ (new.take (bs.length - o)) ++ bs.drop (o + new.length)

/-- Read a signed number of `w` bits in two's complement. -/
def toSigned (w x : Nat) : Int :=
  let y := x % 2 ^ w
  if 2 * y < 2 ^ w then (y : Int) else (y : Int) - 2 ^ w

/-- A signed number written as `w` bits of two's complement. -/
def ofSigned (w : Nat) (x : Int) : Nat := (x % (2 ^ w : Int)).toNat

/-- An integer brought into the `w`-bit two's-complement range, modulo 2^w (R37). -/
def wrapS (w : Nat) (x : Int) : Int := toSigned w (ofSigned w x)

/-- ceil(a / b). -/
def ceilDiv (a b : Nat) : Nat := (a + b - 1) / b

/-- floor(log2 x) + 1, 0 for 0 (R105). -/
def bitlen (x : Nat) : Nat := if x = 0 then 0 else Nat.log2 x + 1

/-- An integer limited to `lo … hi`. -/
def clampI (lo hi x : Int) : Int := if x < lo then lo else if hi < x then hi else x

/-- The sum of a list of integers. -/
def sumI (xs : List Int) : Int := xs.foldl (· + ·) 0

/-- The sum of a list of numbers. -/
def sumN (xs : List Nat) : Nat := xs.foldl (· + ·) 0

/-- The largest of a list of numbers, 0 for none. -/
def maxN (xs : List Nat) : Nat := xs.foldl Nat.max 0

/-- The magnitude of an integer. -/
def absN (x : Int) : Nat := x.natAbs

/-- Look a key up in a list of pairs. -/
def lookupD {α β : Type} [BEq α] (d : β) (k : α) (xs : List (α × β)) : β :=
  match xs.find? (fun e => e.1 == k) with
  | some e => e.2
  | none => d

/-- Put a pair into a list of pairs, replacing the key's earlier pair in its place, else at the end. -/
def assocSet {α β : Type} [BEq α] (k : α) (v : β) : List (α × β) → List (α × β)
  | [] => [(k, v)]
  | e :: es => if e.1 == k then (k, v) :: es else e :: assocSet k v es

/-- Change the element at an index, where the list has one. -/
def modAt {α : Type} (xs : List α) (i : Nat) (f : α → α) : List α := xs.modify i f

/-- Change every element that satisfies a test. -/
def updIf {α : Type} (p : α → Bool) (f : α → α) (xs : List α) : List α :=
  xs.map (fun x => if p x then f x else x)

/-- Put an element into an ordered list, before the first that it may precede. -/
def insertBy {α : Type} (le : α → α → Bool) (x : α) : List α → List α
  | [] => [x]
  | y :: ys => if le x y then x :: y :: ys else y :: insertBy le x ys

/-- A list in the order of `le`; elements that compare equal keep their order. -/
def sortBy {α : Type} (le : α → α → Bool) (xs : List α) : List α := xs.foldr (insertBy le) []

/-- The first `k` elements of a list in the order of `le`. -/
def firstBy {α : Type} (le : α → α → Bool) (k : Nat) (xs : List α) : List α :=
  xs.foldr (fun x ys => (insertBy le x ys).take k) []

end Sys2Proof.Machine
end

