-- ==== Sys2Proof/Machine/Real.lean ====
section
/-! DEFINITION. Exact rounding of real functions. The manual defines every table entry as the correctly rounded
encoding of an exact real value (R32, R133, R210) and publishes no table, so the entries are computed here: the base-2
logarithm of a rational exactly, and e^x, the normal distribution function, the cosine and powers in fixed point with
320 fraction bits (notes/assumptions/12.md). -/
namespace Sys2Proof.Machine

/-- Fraction bits of the fixed-point reals of this file. -/
def fxBits : Nat := 320

/-- 1 in fixed point. -/
def fxOne : Nat := 2 ^ fxBits

/-- The circle constant in fixed point. -/
def fxPi : Nat :=
  6710401180212168915155840974220003240804194089427148950727106424351713218671805380099500388914039

/-- The natural logarithm of 2 in fixed point. -/
def fxLn2 : Nat :=
  1480553391661173448385607439722553250922680800745876974795605978609098082859138712941075737848984

/-- The square root of 2 over the circle constant, in fixed point. -/
def fxSqrt2OverPi : Nat :=
  1704271078036369527640793026491347494927463643304879350637741155034799905963359738391626168040302

/-- Σ x^k / k! by Horner's rule, `n` terms, for a fixed-point `x` in 0 … 1. -/
def fxExpTaylor (x : Nat) : Nat → Nat → Nat
  | 0, acc => acc
  | k + 1, acc => fxExpTaylor x k (fxOne + acc * x / fxOne / (k + 1))

/-- e^x in fixed point for a fixed-point integer `x` of either sign. -/
def fxExp (x : Int) : Nat :=
  let k := x / (fxLn2 : Int)
  let r := (x - k * fxLn2).toNat
  let t := fxExpTaylor r 100 fxOne
  if 0 ≤ k then t * 2 ^ k.toNat else t / 2 ^ (-k).toNat

/-- Σ z^(2k) / (2k + 1) over `n` terms, Horner: the series of atanh divided by its argument. -/
def fxAtanhSeries (z2 : Nat) : Nat → Nat → Nat
  | 0, acc => acc
  | k + 1, acc => fxAtanhSeries z2 k (fxOne / (2 * k + 1) + acc * z2 / fxOne)

/-- ln b in fixed point for a number b ≥ 1. -/
def fxLn (b : Nat) : Nat :=
  let k := Nat.log2 b
  let z := (b - 2 ^ k) * fxOne / (b + 2 ^ k)
  k * fxLn2 + 2 * (z * fxAtanhSeries (z * z / fxOne) 110 0 / fxOne)

/-- The alternating series of the error function in x²/2: Σ (-1)^k (x²/2)^k / (k! (2k + 1)). -/
def fxErfSeries (h : Nat) : Nat → Nat → Int → Int → Int
  | 0, _, _, acc => acc
  | fuel + 1, k, term, acc =>
    fxErfSeries h fuel (k + 1) (-(term * h / (fxOne : Int)) / (k + 1 : Int)) (acc + term / (2 * k + 1 : Int))

/-- The standard normal distribution function Φ(v) in fixed point, for a fixed-point v with |v| ≤ 9 (R133). -/
def fxPhi (v : Int) : Int :=
  let h := (v * v / (2 * (fxOne : Int))).toNat
  let series := fxErfSeries h 260 0 (fxOne : Int) 0
  ((fxOne : Int) + (v * series / (fxOne : Int)) * (fxSqrt2OverPi : Int) / (fxOne : Int)) / 2

/-- The series of the cosine in t = x²: Σ (-1)^k t^k / (2k)!. -/
def fxCosSeries (t : Nat) : Nat → Nat → Int → Int → Int
  | 0, _, _, acc => acc
  | fuel + 1, k, term, acc =>
    fxCosSeries t fuel (k + 1) (-(term * t / (fxOne : Int)) / ((2 * k + 1) * (2 * k + 2) : Int)) (acc + term)

/-- cos(2π u / 65,536) in fixed point for u = 0 … 16,384. -/
def fxCosQuarter (u : Nat) : Int :=
  let x := fxPi * u / 32768
  fxCosSeries (x * x / fxOne) 60 0 (fxOne : Int) 0

/-- floor(1024 · log2(num / den)) for positive num and den, exactly: the 1024th power is compared with powers of two. -/
def log2Floor1024 (num den : Nat) : Int :=
  let a := num ^ 1024
  let b := den ^ 1024
  let g : Int := (Nat.log2 a : Int) - (Nat.log2 b : Int)
  -- a / b lies in (2^(g-1), 2^(g+1))
  if 0 ≤ g then (if b * 2 ^ g.toNat ≤ a then g else g - 1)
  else (if b ≤ a * 2 ^ (-g).toNat then g else g - 1)

/-- round(512 · log2(num / den)), exactly; no tie can arise, since no rational power of two with an odd numerator
over 1024 is rational (R32). -/
def log512 (num den : Nat) : Int := (log2Floor1024 num den + 1) / 2

end Sys2Proof.Machine
end

