-- ==== Sys2Proof/Machine/Formats.lean ====
section
/-! DEFINITION. The number formats, bit by bit (chapter 01): weight blocks, activation planes, outlier lists, LNS16,
scales, and the Wisp formats. -/
namespace Sys2Proof.Machine

/-! ## Weight block formats (R14-R27) -/

/-- The weight block format code (R14). -/
inductive WFmt where
  | trit5
  | sparse
  | wide2
  | wide4
  deriving DecidableEq, Repr

/-- The 3-bit code of a format; codes 4-7 are reserved (R14). -/
def wfmtOfCode : Nat → Option WFmt
  | 0 => some .trit5
  | 1 => some .sparse
  | 2 => some .wide2
  | 3 => some .wide4
  | _ => none

/-- The bytes a dense format's block has (R14). -/
def WFmt.bytes : WFmt → Nat
  | .trit5 => 52480
  | .sparse => 52032
  | .wide2 => 69632
  | .wide4 => 135168

/-- The five trits of a byte; none for the invalid codes 243-255 (R16). -/
def tritsOf (v : Nat) : Option (List Int) :=
  if v < 243 then
    some ((List.range 5).map (fun i => ((v / 3 ^ i % 3 : Nat) : Int) - 1))
  else none

/-- The trits of a byte as the decoder uses them: an invalid code gives none of its weights (R19). -/
def tritsOrZero (v : Nat) : List Int := (tritsOf v).getD [0, 0, 0, 0, 0]

/-- The 1,024 weights of a Trit5 row of 205 bytes (R17). -/
def trit5Row (row : Bytes) : List Int := ((row.flatMap (fun b => tritsOrZero b.toNat)).take 1024)

/-- Does a Trit5 row of 205 bytes hold valid codes only, with padding trit 0 (R17, R18)? -/
def trit5RowOk (row : Bytes) : Bool :=
  row.all (fun b => decide (b.toNat < 243)) && decide (81 ≤ u8 row 204 ∧ u8 row 204 ≤ 161)

/-- Row `r` of a Trit5 block starts at byte 205 r (R17). -/
def trit5Ok (blk : Bytes) : Bool := (List.range 256).all (fun r => trit5RowOk (sub blk (205 * r) 205))

/-- One lane record of a sparse block: the row it feeds and its entries (position, weight) (R20, R21). -/
structure LaneRec where
  row : Nat
  count : Nat
  entries : List (Nat × Int)
  deriving DecidableEq, Repr

/-- The bit stream of a byte string, little-endian, as a number (R21). -/
def streamNum (bs : Bytes) : Nat := leNat bs

/-- Entry k of the entry stream: bits [11k+10 : 11k] are the position and the sign (R21). -/
def sparseEntry (stream : Nat) (k : Nat) : Nat × Int :=
  let e := fld stream (11 * k) 11
  (e % 1024, if e / 1024 = 1 then -1 else 1)

/-- Read lane records one after another, each taking its entries from the stream. -/
def readLanes (blk : Bytes) (stream : Nat) : Nat → Nat → Nat → List LaneRec
  | 0, _, _ => []
  | n + 1, i, k =>
    let w := u16 blk (0x10 + 2 * i)
    let c := fld w 8 7
    ⟨w % 256, c, (List.range c).map (fun j => sparseEntry stream (k + j))⟩
      :: readLanes blk stream n (i + 1) (k + c)

/-- PASSES of a sparse block's header (R20). -/
def sparsePasses (blk : Bytes) : Nat := u8 blk 1

/-- NNZ of a sparse block's header (R20). -/
def sparseNnz (blk : Bytes) : Nat := u16 blk 4

/-- The lane records of a sparse block, in pass order and then lane order (R21). -/
def sparseLanes (blk : Bytes) : List LaneRec :=
  let p := sparsePasses blk
  let off := 0x10 + 512 * p
  readLanes blk (streamNum (blk.drop off)) (256 * p) 0 0

/-- Strictly increasing numbers (R21, R30). -/
def increasing : List Nat → Bool
  | [] => true
  | [_] => true
  | a :: b :: xs => decide (a < b) && increasing (b :: xs)

/-- Bytes of a sparse block of `p` passes and `n` entries, padded to a line (R14, R20). -/
def sparseBytes (p n : Nat) : Nat := ceilDiv (16 + 512 * p + ceilDiv (11 * n) 8) 64 * 64

/-- No number occurs twice. -/
def noRepeats (xs : List Nat) : Bool := xs.eraseDups.length == xs.length

/-- The checks of R22 on a sparse block of exactly its own length. -/
def sparseOk (blk : Bytes) : Bool :=
  let p := sparsePasses blk
  let lanes := sparseLanes blk
  let nnz := sparseNnz blk
  decide (u8 blk 0 = 1) && decide (1 ≤ p ∧ p ≤ 3)
    && zeroAt blk 2 2 && zeroAt blk 6 2 && zeroAt blk 8 8
    && (List.range (256 * p)).all (fun i => !bit (u16 blk (0x10 + 2 * i)) 15)
    && decide (sumN (lanes.map (·.count)) = nnz) && decide (nnz ≤ 36700)
    && lanes.all (fun l => decide (l.count ≤ 64))
    && lanes.all (fun l => increasing (l.entries.map (·.1)))
    && (List.range 256).all (fun r => noRepeats ((lanes.filter (fun l => l.row == r)).flatMap (fun l => l.entries.map (·.1))))
    && decide (streamNum (blk.drop (0x10 + 512 * p)) < 2 ^ (11 * nnz))
    && decide (blk.length = sparseBytes p nnz)

/-- The weights of output row `r` of a sparse block with these lane records: every record that names the row adds (R23). -/
def sparseRow (lanes : List LaneRec) (r : Nat) : List Int :=
  let es := (lanes.filter (fun l => l.count != 0 && l.row == r)).flatMap (·.entries)
  (List.range 1024).map (fun i => sumI ((es.filter (fun e => e.1 == i)).map (·.2)))

/-- The 16 group scales of row `r` of a wide block, each over its 64 inputs (R26). -/
def wideScales (blk : Bytes) (r : Nat) : List Int :=
  (sub blk (16 * r) 16).flatMap (fun g => List.replicate 64 (g.toNat : Int))

/-- The codes of row `r` of a Wide-2 block (R24, R26). -/
def wide2Codes (blk : Bytes) (r : Nat) : List Int :=
  (sub blk (0x1000 + 256 * r) 256).flatMap (fun b => (List.range 4).map (fun k => toSigned 2 (fld b.toNat (2 * k) 2)))

/-- The codes of row `r` of a Wide-4 block (R24, R26). -/
def wide4Codes (blk : Bytes) (r : Nat) : List Int :=
  (sub blk (0x1000 + 512 * r) 512).flatMap (fun b => (List.range 2).map (fun k => toSigned 4 (fld b.toNat (4 * k) 4)))

/-- The raw codes of row `r`: trits, or the codes of a wide row (R16, R24). -/
def rawRow (f : WFmt) (blk : Bytes) (r : Nat) : List Int :=
  match f with
  | .trit5 => trit5Row (sub blk (205 * r) 205)
  | .sparse => sparseRow (sparseLanes blk) r
  | .wide2 => wide2Codes blk r
  | .wide4 => wide4Codes blk r

/-- The exact integer weights of the 256 rows of a block, each over its 1,024 inputs: a trit, or code × group scale
(R16, R23, R25). -/
def blockRows (f : WFmt) (blk : Bytes) : List (List Int) :=
  match f with
  | .trit5 => (List.range 256).map (fun r => trit5Row (sub blk (205 * r) 205))
  | .sparse => let lanes := sparseLanes blk; (List.range 256).map (sparseRow lanes)
  | .wide2 => (List.range 256).map (fun r => List.zipWith (· * ·) (wideScales blk r) (wide2Codes blk r))
  | .wide4 => (List.range 256).map (fun r => List.zipWith (· * ·) (wideScales blk r) (wide4Codes blk r))

/-- Does a block hold only encodings that its format defines (R18, R22, R47)? -/
def blockOk (f : WFmt) (blk : Bytes) : Bool :=
  match f with
  | .trit5 => decide (blk.length = 52480) && trit5Ok blk
  | .sparse => sparseOk blk
  | .wide2 => decide (blk.length = 69632)
  | .wide4 => decide (blk.length = 135168)

/-- Padding rows and columns of a block hold raw code 0; sparse blocks carry no entry there (R122). -/
def paddingOk (f : WFmt) (blk : Bytes) (rows cols : Nat) : Bool :=
  match f with
  | .sparse => (sparseLanes blk).all (fun l => l.entries.all (fun e => decide (l.row < rows ∧ e.1 < cols)))
  | _ => (List.range 256).all (fun r => ((rawRow f blk r).drop (if r < rows then cols else 0)).all (· == 0))

/-! ### Canonical form of a sparse block (R173) -/

/-- Cut a row's entries into `k` runs whose sizes differ by at most one, larger runs first (R173). -/
def splitRuns {α : Type} (xs : List α) (k : Nat) : Nat → List (List α)
  | 0 => []
  | n + 1 =>
    -- run number k - (n + 1)
    let j := k - (n + 1)
    let size := xs.length / k + (if j < xs.length % k then 1 else 0)
    let start := j * (xs.length / k) + Nat.min j (xs.length % k)
    ((xs.drop start).take size) :: splitRuns xs k n

/-- The runs of every row in ascending order: (row, entries) (R173). -/
def canonicalRuns (blk : Bytes) : List (Nat × List (Nat × Int)) :=
  let lanes := sparseLanes blk
  (List.range 256).flatMap (fun r =>
    let es := (lanes.filter (fun l => l.row == r)).flatMap (·.entries)
    let sorted := sortBy (fun a b => decide (a.1 ≤ b.1)) es
    let k := ceilDiv sorted.length 64
    (splitRuns sorted k k).map (fun run => (r, run)))

/-- Write 11-bit entries as one little-endian number (R21). -/
def packEntries : List (Nat × Int) → Nat
  | [] => 0
  | e :: es => (e.1 + (if e.2 < 0 then 1024 else 0)) + 2048 * packEntries es

/-- The canonical form of a checked sparse block (R173). -/
def canonicalSparse (blk : Bytes) : Bytes :=
  let runs := canonicalRuns blk
  let total := runs.length
  let p := if total ≤ 256 then 1 else if total ≤ 512 then 2 else 3
  let nnz := sumN (runs.map (fun x => x.2.length))
  let header := leBytes 1 1 ++ leBytes 1 p ++ leBytes 2 0 ++ leBytes 2 nnz ++ zeros 10
  let map := runs.flatMap (fun x => leBytes 2 (x.1 + 256 * x.2.length)) ++ zeros (2 * (256 * p - total))
  let stream := packEntries (runs.flatMap (·.2))
  let size := sparseBytes p nnz
  header ++ map ++ leBytes (size - 16 - 512 * p) stream

/-! ## Activations (R28-R30, R50) -/

/-- The value of an activation code of width `w`: two's complement, or ±1 at width 1 (R28). -/
def actValue (w code : Nat) : Int := if w = 1 then 2 * ((code % 2 : Nat) : Int) - 1 else toSigned w code

/-- The code of an activation value at width `w` (R28). -/
def actCode (w : Nat) (a : Int) : Nat := if w = 1 then (if 0 ≤ a then 1 else 0) else ofSigned w a

/-- Plane `p` of a vector of codes: bit p over the inputs, input i at bit i (R28, R29). -/
def plane (codes : List Nat) (p : Nat) : Nat :=
  (codes.zipIdx.filter (fun e => e.1.testBit p)).foldl (fun acc e => acc + 2 ^ e.2) 0

/-- The plane form of up to 1,024 activations at width `w`: w planes of 128 bytes, plane 0 first (R29). -/
def planeForm (w : Nat) (as : List Int) : Bytes :=
  (List.range w).flatMap (fun p => leBytes 128 (plane (as.map (actCode w)) p))

/-- The input stage's replacement of the code -2^(w-1) at widths 2-8 by -(2^(w-1) - 1) (R50). -/
def inputStage (w : Nat) (code : Nat) : Nat :=
  if 2 ≤ w ∧ code % 2 ^ w = 2 ^ (w - 1) then 2 ^ (w - 1) + 1 else code % 2 ^ w

/-- How many codes of a vector the input stage replaces (R50). -/
def inputClamps (w : Nat) (codes : List Nat) : Nat :=
  (codes.filter (fun c => decide (2 ≤ w ∧ c % 2 ^ w = 2 ^ (w - 1)))).length

/-- The outlier list of a 256-element activation block: (index, value) records and the clamp count (R30). -/
structure Outliers where
  recs : List (Nat × Int)
  clamped : Nat
  deriving DecidableEq, Repr

/-- An outlier list as its 32 bytes (R30). -/
def Outliers.bytes (o : Outliers) : Bytes :=
  fitBytes 32 (leBytes 1 o.recs.length ++ leBytes 1 (Nat.min 255 o.clamped) ++ zeros 6
    ++ o.recs.flatMap (fun r => leBytes 1 r.1 ++ leBytes 2 (ofSigned 16 r.2)))

/-- Read an outlier list; none is a state error: COUNT above 8 or indices not increasing (R30). -/
def outliersOf (bs : Bytes) : Option Outliers :=
  let c := u8 bs 0
  let recs := (List.range c).map (fun k => (u8 bs (8 + 3 * k), toSigned 16 (u16 bs (9 + 3 * k))))
  if c ≤ 8 ∧ increasing (recs.map (·.1)) then some ⟨recs, u8 bs 1⟩ else none

/-! ## LNS16 (R31-R33) -/

/-- The word of LNS16 zero (R31). -/
def lnsZero : Nat := 0x4000

/-- Does a word read as zero? 0x4000, and 0xC000 which the module never writes (R31, R47). -/
def lnsIsZero (w : Nat) : Bool := w % 32768 == 0x4000

/-- The sign bit of an LNS16 word (R31). -/
def lnsNeg (w : Nat) : Bool := w / 32768 % 2 == 1

/-- The log field of an LNS16 word, Q6.9 (R31). -/
def lnsLog (w : Nat) : Int := toSigned 15 (w % 32768)

/-- The word of a sign and a log (R31). -/
def lnsWord (neg : Bool) (l : Int) : Nat := (if neg then 32768 else 0) + ofSigned 15 l

/-- An LNS16 word with the number of LNS saturations that formed it (R32, R133). -/
abbrev Lns := Nat × Nat

/-- A log limited as R32 and R133 limit it: below -16,383 gives zero, above 16,383 counts a saturation. -/
def lnsMake (neg : Bool) (l : Int) : Lns :=
  if l < -16383 then (lnsZero, 0)
  else if 16383 < l then (lnsWord neg 16383, 1)
  else (lnsWord neg l, 0)

/-- The LNS16 encoding of the rational num / den, den > 0 (R32). -/
def lnsEnc (num : Int) (den : Nat) : Lns :=
  if num = 0 then (lnsZero, 0) else lnsMake (decide (num < 0)) (log512 num.natAbs den)

/-- The product of two LNS16 operands as the primitive of R133 forms it. -/
def lnsMul (a b : Nat) : Lns :=
  if lnsIsZero a || lnsIsZero b then (lnsZero, 0) else lnsMake (lnsNeg a != lnsNeg b) (lnsLog a + lnsLog b)

/-- The quotient of two LNS16 operands; a zero operand or a zero divisor gives zero (R133). -/
def lnsDiv (a b : Nat) : Lns :=
  if lnsIsZero a || lnsIsZero b then (lnsZero, 0) else lnsMake (lnsNeg a != lnsNeg b) (lnsLog a - lnsLog b)

/-- Find the largest n below 2^k (added to `n`) with (2n - 1)^512 at most a bound. -/
def rootSearch (bound : Nat) : Nat → Nat → Nat
  | 0, n => n
  | k + 1, n => rootSearch bound k (if (2 * (n + 2 ^ k) - 1) ^ 512 ≤ bound then n + 2 ^ k else n)

/-- The fraction table: the integer nearest to 2^(23 + f/512) (R33). -/
def fracT (f : Nat) : Nat := rootSearch (2 ^ (512 * 24 + f)) 25 0

/-- A signed linear value of log `p` (Q.9) aligned at alignment `q`: T[f] shifted by I - 23 + q, bits shifted out
discarded (R58). -/
def alignLog (neg : Bool) (p : Int) (q : Nat) : Int :=
  let h := p / 512 - 23 + (q : Int)
  let t := fracT (p % 512).toNat
  let mag : Int := if 0 ≤ h then (t * 2 ^ h.toNat : Nat) else (t / 2 ^ (-h).toNat : Nat)
  if neg then -mag else mag

/-- 48-bit accumulation: modulo 2^48, no flag (R37, R58). -/
def wrap48 (x : Int) : Int := wrapS 48 x

/-- align(v, q) of R133: an LNS16 word aligned under R58, as the 48-bit accumulators hold it (notes/assumptions/80.md). -/
def lnsAlign (w q : Nat) : Int := if lnsIsZero w then 0 else wrap48 (alignLog (lnsNeg w) (lnsLog w) q)

/-- ret(s, q) of R133: the encoding of s · 2^(-q). -/
def lnsRet (s : Int) (q : Nat) : Lns := lnsEnc s (2 ^ q)

/-! ### Function tables (R133) -/

/-- The functions the vector unit takes from tables (R132, R133). -/
inductive FnCode where
  | identity
  | silu
  | gelu
  | relu
  | sigmoid
  | exp
  deriving DecidableEq, Repr

/-- FN of an ACT descriptor and ACT_FN of an EXPERT_FFN; 6 and 7 are invalid (R132). -/
def fnOfCode : Nat → Option FnCode
  | 0 => some .identity
  | 1 => some .silu
  | 2 => some .gelu
  | 3 => some .relu
  | 4 => some .sigmoid
  | 5 => some .exp
  | _ => none

/-- The exact value of a non-zero LNS16 word in fixed point (R31). -/
def fxOfLns (w : Nat) : Int :=
  let m : Int := fxExp (lnsLog w * fxLn2 / 512)
  if lnsNeg w then -m else m

/-- The log of e^v for a fixed-point v: round(512 v / ln 2) (R133). -/
def expLog (v : Int) : Int := (1024 * v + fxLn2) / (2 * fxLn2)

/-- Entry `w` of the e^x table, unlimited log (R133). -/
def fnExpW (w : Nat) : Lns := if lnsIsZero w then (0, 0) else lnsMake false (expLog (fxOfLns w))

/-- 1 + e^(-v) in fixed point, for v above -26 (R133). -/
def onePlusExpNeg (v : Int) : Nat := fxOne + fxExp (-v)

/-- Is a fixed-point value at or below -26, where the sigmoid and SiLU lie below the smallest magnitude? -/
def belowRange (v : Int) : Bool := decide (v ≤ -(26 * (fxOne : Int)))

/-- Is a fixed-point value at or above 64, where 1 + e^(-v) rounds to 1 in every encoding? -/
def aboveRange (v : Int) : Bool := decide (64 * (fxOne : Int) ≤ v)

/-- Entry `w` of the sigmoid table (R133). -/
def fnSigmoidW (w : Nat) : Lns :=
  if lnsIsZero w then lnsMake false (-512)
  else
    let v := fxOfLns w
    if belowRange v then (lnsZero, 0)
    else if aboveRange v then (0, 0)
    else lnsEnc (fxOne : Int) (onePlusExpNeg v)

/-- Entry `w` of the SiLU table, x ÷ (1 + e^(-x)) (R132, R133). -/
def fnSiluW (w : Nat) : Lns :=
  if lnsIsZero w then (lnsZero, 0)
  else
    let v := fxOfLns w
    if belowRange v then (lnsZero, 0)
    else if aboveRange v then lnsMake (lnsNeg w) (lnsLog w)
    else lnsEnc v (onePlusExpNeg v)

/-- Entry `w` of the GELU table, x · Φ(x) (R132, R133). -/
def fnGeluW (w : Nat) : Lns :=
  if lnsIsZero w then (lnsZero, 0)
  else
    let v := fxOfLns w
    if v ≤ -(8 * (fxOne : Int)) then (lnsZero, 0)
    else if 8 * (fxOne : Int) ≤ v then lnsMake (lnsNeg w) (lnsLog w)
    else lnsEnc (v * fxPhi v / (fxOne : Int)) fxOne

/-- fn(x) of R133: entry `w` of the function's table, with its saturation. -/
def fnTable (f : FnCode) (w : Nat) : Lns :=
  match f with
  | .identity => (if lnsIsZero w then lnsZero else w, 0)
  | .relu => (if lnsIsZero w || lnsNeg w then lnsZero else w, 0)
  | .exp => fnExpW w
  | .sigmoid => fnSigmoidW w
  | .silu => fnSiluW w
  | .gelu => fnGeluW w

/-- COS[u], the encoding of cos(2π u / 65,536) (R210). -/
def cosWord (u : Nat) : Nat :=
  let v := u % 65536
  let k := if v ≤ 32768 then v else 65536 - v
  if k = 16384 then lnsZero
  else if k < 16384 then (lnsEnc (fxCosQuarter k) fxOne).1
  else (lnsEnc (-(fxCosQuarter (32768 - k))) fxOne).1

/-- The frequency word ω_i: the integer nearest to 2^32 · base^(-2i / head_dim) / (2π) (R210). -/
def ropeOmega (base headDim i : Nat) : Nat :=
  let e := fxExp (-((2 * i * fxLn base / headDim : Nat) : Int))
  (2 ^ 32 * e + fxPi) / (2 * fxPi)

/-! ## Scales (R34-R36) -/

/-- The non-adjacent form of a number: (position, negative) digits in increasing position. -/
def nafDigits : Nat → Nat → Nat → List (Nat × Bool)
  | 0, _, _ => []
  | fuel + 1, x, p =>
    if x = 0 then []
    else if x % 2 = 0 then nafDigits fuel (x / 2) (p + 1)
    else if x % 4 = 3 then (p, true) :: nafDigits fuel ((x + 1) / 2) (p + 1)
    else (p, false) :: nafDigits fuel ((x - 1) / 2) (p + 1)

/-- The non-adjacent form of a number below 2^33. -/
def naf (x : Nat) : List (Nat × Bool) := nafDigits 36 x 0

/-- The eight digit records of a multiplier M (R36). -/
def digitRecords (m : Nat) : List Nat :=
  let ds := (naf m).map (fun d => d.1 + (if d.2 then 64 else 0) + 128)
  ds ++ List.replicate (8 - ds.length) 0

/-- The number a digit record stands for: ±2^p when valid (R36). -/
def digitValue (r : Nat) : Int :=
  if bit r 7 then (if bit r 6 then -(2 ^ fld r 0 6 : Int) else (2 ^ fld r 0 6 : Int)) else 0

/-- z as the requantiser forms it: Σ ±(acc << p) over the digit records, in record order (R61). -/
def digitProduct (acc : Int) (recs : List Nat) : Int := sumI (recs.map (fun r => acc * digitValue r))

/-- A token-scale word: T in bits [15:0], s_t in bits [21:16] (R35). -/
def tokenWord (t st : Nat) : Nat := t + 65536 * st

/-- T of a token-scale word (R35). -/
def tokT (w : Nat) : Nat := w % 65536

/-- s_t of a token-scale word (R35). -/
def tokS (w : Nat) : Nat := fld w 16 6

/-- The token-scale word of T = 1 and s_t = 0 (R126, R315). -/
def tokOne : Nat := tokenWord 1 0

/-- entry(x) of R133: the encoding of y · 2^(s_t) ÷ T. -/
def entryWord (y : Int) (tw : Nat) : Lns := lnsEnc (y * 2 ^ tokS tw) (Nat.max 1 (tokT tw))

/-! ## Wisp-5 and Wisp-3 (R39-R44) -/

/-- A Wisp format (R41). -/
inductive Wisp where
  | five
  | three
  deriving DecidableEq, Repr

/-- Bytes of a block (R39). -/
def Wisp.bytes : Wisp → Nat
  | .five => 40
  | .three => 24

/-- The magnitudes that the index selects (R41). -/
def Wisp.table : Wisp → List Nat
  | .five => [0, 1, 2, 3, 4, 6, 8, 12]
  | .three => [1, 3]

/-- The unit u(j) is 2^(E - bias - o(j)) (R41). -/
def Wisp.bias : Wisp → Nat
  | .five => 127
  | .three => 128

/-- The largest code magnitude in units (R41). -/
def Wisp.top : Wisp → Nat
  | .five => 12
  | .three => 3

/-- Every decoded value and every value encoded is a whole multiple of 2^(-wispBase): values are carried as integers in
that unit, so that they stay exact (R42). The smallest unit is 2^(1 - 131) or 2^(1 - 128 - 3). -/
def wispBase : Nat := 134

/-- A decoded value m · 2^k for an exponent k of at least -134, in units of 2^(-134). -/
def scaled (m : Int) (k : Int) : Int := m * 2 ^ (k + (wispBase : Int)).toNat

/-- Code i of a block: (sign, index) (R39, R41). -/
def wispCode (f : Wisp) (b : Bytes) (i : Nat) : Bool × Nat :=
  match f with
  | .five => let c := fld (u8 b (3 + i / 2)) (4 * (i % 2)) 4; (bit c 3, c % 8)
  | .three => let c := fld (u8 b (3 + i / 4)) (2 * (i % 4)) 2; (bit c 1, c % 2)

/-- Outlier slot 0 or 1 of a block, 20 bits (R39). -/
def wispSlot (f : Wisp) (b : Bytes) (n : Nat) : Nat :=
  let o := match f with | .five => 0x23 | .three => 0x13
  fld (leNat (sub b o 5)) (20 * n) 20

/-- The index a slot names and its value, none when it is empty (R40). -/
def slotValue (e slot : Nat) : Option (Nat × Int) :=
  let v := slot / 64
  if v = 0x2000 then none
  else
    let mag := scaled (fld v 0 8 : Nat) ((e : Int) - 131 + (fld v 8 5 : Nat))
    some (slot % 64, if bit v 13 then -mag else mag)

/-- Decode one Wisp block into 64 values in units of 2^(-134) (R42). -/
def wispDecode (f : Wisp) (b : Bytes) : List Int :=
  let e := u8 b 0
  if e = 0 then List.replicate 64 0
  else
    let off := u16 b 1
    let base := (List.range 64).map (fun i =>
      let c := wispCode f b i
      let o := fld off (2 * (i / 8)) 2
      let m : Int := (f.table.getD c.2 0 : Nat)
      let v := scaled m ((e : Int) - f.bias - o)
      if c.1 then -v else v)
    let put (xs : List Int) (s : Nat) : List Int :=
      match slotValue e s with
      | some (i, v) => xs.set i v
      | none => xs
    put (put base (wispSlot f b 0)) (wispSlot f b 1)

/-- round-half-even of n / d for d > 0. -/
def rheDiv (n : Int) (d : Nat) : Int :=
  let q := n / (d : Int)
  let r := n % (d : Int)
  if 2 * r < d then q else if (d : Int) < 2 * r then q + 1 else if q % 2 = 0 then q else q + 1

/-- The table entry nearest to v units of `unit`, ties to the lower index (R43). -/
def nearestIndex (f : Wisp) (mag unit : Nat) : Nat :=
  let cost (i : Nat) : Nat := ((f.table.getD i 0 * unit : Int) - mag).natAbs
  (List.range f.table.length).foldl (fun best i => if cost i < cost best then i else best) 0

/-- The smallest number from `lo` for `n` tries that satisfies a test. -/
def firstFrom (p : Nat → Bool) : Nat → Nat → Option Nat
  | 0, _ => none
  | n + 1, lo => if p lo then some lo else firstFrom p n (lo + 1)

/-- Encode 64 exact values, in units of 2^(-134), as a Wisp block (R43). -/
def wispEncode (f : Wisp) (xs : List Int) : Bytes :=
  let empty := 0x2000 * 64
  let codeBytes := f.bytes - 8
  if xs.all (· == 0) then
    zeros (3 + codeBytes) ++ leBytes 5 (empty + empty * 2 ^ 20)
  else
    let x (i : Nat) : Int := xs.getD i 0
    let mag (i : Nat) : Nat := (x i).natAbs
    let cand := sortBy (fun a b => decide (mag b < mag a) || (decide (mag b = mag a) && decide (a ≤ b)))
      ((List.range 64).filter (fun i => mag i != 0))
    let slots := cand.take 2
    let rest := (List.range 64).filter (fun i => !slots.contains i)
    let amaxR := maxN (rest.map mag)
    let amax := if amaxR = 0 then maxN (slots.map mag) else amaxR
    let top (e o : Nat) : Nat := (scaled (f.top : Int) ((e : Int) - f.bias - o)).natAbs
    let e := (firstFrom (fun e => decide (amax ≤ top e 0)) 255 1).getD 255
    let o (j : Nat) : Nat :=
      let smax := maxN ((rest.filter (fun i => i / 8 == j)).map mag)
      if smax ≤ top e 3 then 3 else if smax ≤ top e 2 then 2 else if smax ≤ top e 1 then 1 else 0
    let offs := (List.range 8).foldl (fun acc j => acc + o j * 4 ^ j) 0
    let width := match f with | .five => 4 | .three => 2
    let code (i : Nat) : Nat :=
      if slots.contains i then 0
      else
        let unit := (scaled 1 ((e : Int) - f.bias - o (i / 8))).natAbs
        let idx := nearestIndex f (mag i) unit
        idx + (if x i < 0 ∧ f.table.getD idx 0 ≠ 0 then 2 ^ (width - 1) else 0)
    let codes := (List.range 64).foldl (fun acc i => acc + code i * 2 ^ (width * i)) 0
    let slotWord (i : Nat) : Nat :=
      let unit (k : Nat) : Nat := (scaled 1 ((e : Int) - 131 + k)).natAbs
      let k := (firstFrom (fun k => decide (mag i ≤ 255 * unit k)) 32 0).getD 31
      let f8 := Nat.min 255 (rheDiv (mag i) (unit k)).toNat
      i + 64 * (f8 + 256 * k + (if x i < 0 ∧ f8 ≠ 0 then 0x2000 else 0))
    let s0 := (slots[0]?).elim empty slotWord
    let s1 := (slots[1]?).elim empty slotWord
    leBytes 1 e ++ leBytes 2 offs ++ leBytes codeBytes codes ++ leBytes 5 (s0 + s1 * 2 ^ 20)

/-- An integer in the unit of `wispEncode`. -/
def wispUnit (y : Int) : Int := y * 2 ^ wispBase

/-- A decoded value rounded half-to-even to an integer (R67). -/
def wispRound (v : Int) : Int := rheDiv v (2 ^ wispBase)

/-- Cut a vector into runs of `n`, the last padded with zeros. -/
def chunksOf (n : Nat) : Nat → List Int → List (List Int)
  | 0, _ => []
  | k + 1, xs => (xs.take n ++ List.replicate (n - (xs.take n).length) 0) :: chunksOf n k (xs.drop n)

/-- Encode a vector of integers as Wisp blocks of 64 (R67, R198). -/
def wispBlocks (f : Wisp) (ys : List Int) : List Bytes :=
  (chunksOf 64 (ceilDiv ys.length 64) (ys.map wispUnit)).map (wispEncode f)

/-- Encode a vector and decode it again to rounded integers, as every receiver does (R67, R154). -/
def wispRoundtrip (f : Wisp) (ys : List Int) : List Int :=
  (((wispBlocks f ys).flatMap (wispDecode f)).map wispRound).take ys.length

end Sys2Proof.Machine
end

