-- ==== Sys2Proof/Machine/Float.lean ====
section
/-! DEFINITION. The two float formats of the memory-side adders (R266, R268): binary32 and bfloat16, their exact values
and the add. -/
namespace Sys2Proof.Machine

/-- A float format of R266. -/
inductive FloatFmt where
  | binary32
  | bfloat16
  deriving DecidableEq, Repr

/-- Fraction bits of a format; both have eight exponent bits. -/
def FloatFmt.frac : FloatFmt → Nat
  | .binary32 => 23
  | .bfloat16 => 7

/-- Every finite value of a format is a whole multiple of 2 to the minus this number. -/
def FloatFmt.unit (f : FloatFmt) : Nat := 126 + f.frac

/-- The sign bit of a word. -/
def FloatFmt.neg (f : FloatFmt) (w : Nat) : Bool := bit w (f.frac + 8)

/-- The exponent field of a word. -/
def FloatFmt.exp (f : FloatFmt) (w : Nat) : Nat := fld w f.frac 8

/-- The fraction field of a word. -/
def FloatFmt.man (f : FloatFmt) (w : Nat) : Nat := w % 2 ^ f.frac

/-- Is a word a NaN? -/
def FloatFmt.isNan (f : FloatFmt) (w : Nat) : Bool := f.exp w == 255 && f.man w != 0

/-- Is a word an infinity? -/
def FloatFmt.isInf (f : FloatFmt) (w : Nat) : Bool := f.exp w == 255 && f.man w == 0

/-- The exact value of a finite word, in units of 2^(-unit). -/
def FloatFmt.value (f : FloatFmt) (w : Nat) : Int :=
  let m := if f.exp w = 0 then f.man w else (2 ^ f.frac + f.man w) * 2 ^ (f.exp w - 1)
  if f.neg w then -(m : Int) else m

/-- A word of a sign and the fields below it. -/
def FloatFmt.word (f : FloatFmt) (neg : Bool) (body : Nat) : Nat := (if neg then 2 ^ (f.frac + 8) else 0) + body

/-- The quiet NaN the module stores (R268). -/
def FloatFmt.qnan (f : FloatFmt) : Nat := 0x1FF * 2 ^ (f.frac - 1)

/-- An exact value in units of 2^(-unit), rounded once to nearest even, and whether it overflowed to an infinity
(R268). -/
def FloatFmt.encode (f : FloatFmt) (x : Int) : Nat × Bool :=
  let n := x.natAbs
  let neg := decide (x < 0)
  if n < 2 ^ f.frac then (f.word neg n, false)
  else
    let sh := Nat.log2 n - f.frac
    let body := sh * 2 ^ f.frac + (rheDiv (n : Int) (2 ^ sh)).toNat
    if 255 * 2 ^ f.frac ≤ body then (f.word neg (255 * 2 ^ f.frac), true) else (f.word neg body, false)

/-- The result of a float add: the stored word, and whether it counts as an overflow or as invalid (R268). -/
structure FloatSum where
  word : Nat
  overflow : Bool
  invalid : Bool
  deriving DecidableEq, Repr

/-- The float add of R268. -/
def FloatFmt.add (f : FloatFmt) (a b : Nat) : FloatSum :=
  if f.isNan a || f.isNan b || (f.isInf a && f.isInf b && f.neg a != f.neg b) then ⟨f.qnan, false, true⟩
  else if f.isInf a then ⟨a, false, false⟩
  else if f.isInf b then ⟨b, false, false⟩
  else
    let s := f.value a + f.value b
    if s = 0 then ⟨f.word (f.value a == 0 && f.value b == 0 && f.neg a && f.neg b) 0, false, false⟩
    else let r := f.encode s; ⟨r.1, r.2, false⟩

/-- An integer in units of 2^(-16) as a word of the format (R195). -/
def FloatFmt.ofTerm (f : FloatFmt) (t : Int) : Nat := (f.encode (t * 2 ^ (f.unit - 16))).1

/-- The accumulator that a float sum gives: round-half-even(sum × 2^16), saturated to ±(2^47 - 1) (R195). -/
def FloatFmt.toAcc (f : FloatFmt) (w : Nat) : Int :=
  if f.exp w = 255 then (if f.neg w then -(2 ^ 47 - 1) else 2 ^ 47 - 1)
  else clampI (-(2 ^ 47 - 1)) (2 ^ 47 - 1) (rheDiv (f.value w) (2 ^ (f.unit - 16)))

end Sys2Proof.Machine
end

