-- ==== Sys2Proof/Config.lean ====
section
/-! DEFINITION. The values the manual leaves open: uninterpreted constants. Nothing in Lean can evaluate one or prove a
value of it, so a statement about the model holds for every value. Each is applied to the counter `State.draws`, which
the step reads and advances, or to the operands it depends on. -/
namespace Sys2Proof.Config

/-- The byte an RDMA READ returns of a slot the module owns, whose contents are unspecified (R295). -/
opaque ownedSlotByte : Nat → Byte

/-- The byte a page ships in a position slot that was never written (R200, R222). -/
opaque unwrittenPageByte : Nat → Byte

/-- SIG_RSA over a report: the security block's RSA-3072 PSS signature (R386). -/
opaque identityRsa : Nat → Bytes → BitVec 3072

/-- SIG_SLH over a report: the security block's SLH-DSA-SHA2-192s signature (R386). -/
opaque identitySlh : Nat → Bytes → BitVec 129792

/-- The SHA-384 digest of a byte string (R375, R386, R387); the manual names the function and does not define it. -/
opaque sha384 : Bytes → BitVec 384

/-- SHA-384 of the ROM's version record (R386): the ROM is Parodric's. -/
opaque romDigest : BitVec 384

/-- The owner number that an owner key record carries (R376): the record's layout is not published. -/
opaque ownerNumberOf : Bytes → Nat

/-- The word of the identity record that the MCTP target's PLDM answers carry beyond the fields the manual names
(R433): the DMTF encodings are outside the manual. -/
opaque pldmEncoding : Nat → Bytes

/-- An element after a float add and an integer add have both targeted it (R280): the result is undefined. -/
opaque mixedAddByte : Nat → Byte

/-- The place in the order of arrival that term `k` of token `t` takes at a float combine (R195): the order is the
controller's, which the manual does not fix. -/
opaque termArrival : Nat → Nat → Nat → Nat

/-- The verdicts of the two signatures over an object that an enclosed command presents (R375): whether each verifies. -/
opaque sigVerdict : Bytes → Bool × Bool

/-- Does the receive buffer of a host port stand above its high mark after a packet (R299)? The manual gives neither the
buffer's size nor its marks. -/
opaque rxHigh : Nat → Bool

/-- A word of the region plan of a stage program, by stage kind and region (R81, R89): the program is firmware, and the
manual does not publish it. -/
opaque regionPlan : Nat → Nat → BitVec 40

/-- EXPECT of a region in a step, from the stage program's plan (R91): stage kind, cell, region, step number. -/
opaque stepExpect : Nat → Nat → Nat → Nat → BitVec 32

/-- The HBM address that a state error in an outlier list is posted under (R30, R357): the module knows where the list was
read from; the row does not say. -/
opaque outlierListAddr : Nat → BitVec 48

/-- What the decoder of a (72,64) SEC-DED word makes of an error of three bits or more, by the flipped data bits and check bits
(R260): uncorrectable, or the data bits that it flips and whether it counts a correction. The manual names the code, not its
matrix. -/
opaque secDed : Nat → Nat → Option (Nat × Bool)

/-- The same of a (55,48) word of accumulator memory, by the flipped bits (R357). -/
opaque accSecDed : Nat → Option (Nat × Bool)

/-- A byte of the PRBS31 pattern of a seed, by address (R279): the polynomial is stated, the order of its bits is not. -/
opaque prbsByte : Nat → Nat → Byte

/-- The region into which an engine's list brings its lines, by stage kind and engine (R98, R99): the stage program's. -/
opaque fetchRegion : Nat → Nat → BitVec 4

/-- The spread of a stage none of whose cells had any load in a window (R164): nothing divided by nothing. -/
opaque idleSpread : Nat → BitVec 32

end Sys2Proof.Config
end

