-- ==== Sys2Proof/Machine/Arith.lean ====
section
/-! DEFINITION. The requantiser, the lane LFSR, token scales (chapter 02) and the reduction trees (R105-R110). -/
namespace Sys2Proof.Machine

/-! ## Planes (R48-R51) -/

/-- popcount(pos ∧ b) - popcount(neg ∧ b) of a lane's 1,024 weights and a plane mask (R48). -/
def planeSum (ws : List Int) (mask : Nat) : Int :=
  (ws.zipIdx).foldl (fun acc e => if mask.testBit e.2 then acc + e.1 else acc) 0

/-- What plane `p` of width `w` adds to the narrow accumulator: s(p) << p, subtracted for the sign plane; at width 1
(s(0) << 1) - W(r) (R48, R49). -/
def planeContribution (w p : Nat) (s wsum : Int) : Int :=
  if w = 1 then 2 * s - wsum
  else if p + 1 = w then -(s * 2 ^ p) else s * 2 ^ p

/-- Is plane `p` skipped by a lane group: its set bits fall on zero weights of every lane (R51)? -/
def planeSkipped (lanes : List (List Int)) (mask : Nat) : Bool :=
  lanes.all (fun ws => (ws.zipIdx).all (fun e => e.1 == 0 || !mask.testBit e.2))

/-- A chunk's promotion cost by its width: 4 at width 8, 2 at 7, 1 at 1-6; wide chunks cost 0 (R54, R56). -/
def promotionCost (w : Nat) : Nat := if w = 8 then 4 else if w = 7 then 2 else 1

/-- The promotion limit of R54. -/
def promotionLimit : Nat := 16

/-! ## The requantiser (R60-R66) -/

/-- floor((z + r) / 2^S) with r = floor(u · 2^S / 2^16): stochastic rounding (R63). -/
def roundStochastic (z : Int) (s u : Nat) : Int := (z + (u * 2 ^ s / 2 ^ 16 : Nat)) / (2 ^ s : Int)

/-- y0 of R60: z rounded half-to-even, or stochastically with the lane's LFSR value. -/
def roundShift (z : Int) (s : Nat) (u : Option Nat) : Int :=
  if s = 0 then z
  else match u with
    | none => rheDiv z (2 ^ s)
    | some v => roundStochastic z s v

/-- rotl16 of R64. -/
def rotl16 (x n : Nat) : Nat := (x * 2 ^ n + x / 2 ^ (16 - n)) % 65536

/-- The LFSR value of a sequence id, position, layer and lane (R64). -/
def lfsrValue (seqId pos layer lane : Nat) : Nat :=
  let lo (x : Nat) := x % 65536
  let hi (x : Nat) := x / 65536 % 65536
  let x := lo seqId ^^^ hi seqId
  let x := x ^^^ rotl16 (lo pos ^^^ hi pos) 5
  let x := x ^^^ rotl16 (lo layer) 10
  let x := x ^^^ rotl16 (lo lane) 13
  let x := if x = 0 then 0xACE1 else x
  if x % 2 = 1 then (x / 2) ^^^ 0xB400 else x / 2

/-- 2^(w-1) - 1, the largest magnitude written at widths 2-8 (R65). -/
def widthMax (w : Nat) : Nat := 2 ^ (w - 1) - 1

/-- One 256-element output block after requantisation: plane-form elements, outlier records with their CLAMPED, and the
clamps before CLAMPED stops at 255 (R65, R372). -/
structure OutBlock where
  ys : List Int
  outliers : Outliers
  clamps : Nat
  deriving DecidableEq, Repr

/-- Saturate to the 16-bit symmetric range (R65, R66). -/
def sat16 (y : Int) : Int := clampI (-32767) 32767 y

/-- The treatment of a 256-element output block at width 2-8 (R65), and at width 1 (R66). -/
def formBlock (w : Nat) (y0s : List Int) : OutBlock :=
  if w = 1 then ⟨y0s.map (fun y => if 0 ≤ y then 1 else -1), ⟨[], 0⟩, 0⟩
  else
    let tw := widthMax w
    let big := sortBy
      (fun a b => decide (b.1.natAbs < a.1.natAbs) || (decide (a.1.natAbs = b.1.natAbs) && decide (a.2 ≤ b.2)))
      ((y0s.zipIdx).filter (fun e => decide (tw < e.1.natAbs)))
    let chosen := (big.take 8).map (·.2)
    let ys := (y0s.zipIdx).map (fun e => if chosen.contains e.2 then 0 else clampI (-tw) tw e.1)
    let recs := (sortBy (fun a b => decide (a ≤ b)) chosen).map (fun i => (i, sat16 (y0s.getD i 0)))
    let satd := (chosen.filter (fun i => decide (32767 < (y0s.getD i 0).natAbs))).length
    let n := big.length - chosen.length + satd
    ⟨ys, ⟨recs, Nat.min 255 n⟩, n⟩

/-- The elements of a block with its outliers restored to their VALUE (R67, R133). -/
def OutBlock.full (b : OutBlock) : List Int := b.outliers.recs.foldl (fun xs r => xs.set r.1 r.2) b.ys

/-- Every element of a value at width 16, with its clamp count (R66). -/
def formWide16 (y0s : List Int) : List Int × Nat :=
  (y0s.map sat16, (y0s.filter (fun y => decide (32767 < y.natAbs))).length)

/-- Every element bound for a Wisp encoder, with its clamp count (R66). -/
def formWisp31 (y0s : List Int) : List Int × Nat :=
  (y0s.map (clampI (-(2 ^ 31 - 1)) (2 ^ 31 - 1)), (y0s.filter (fun y => decide (2 ^ 31 - 1 < y.natAbs))).length)

/-! ## Token scales (R68-R71) -/

/-- The numbers of at most two non-zero NAF digits up to 65,535: 2^a and 2^a ± 2^b (R35). -/
def twoDigitNumbers : List Nat :=
  ((List.range 17).flatMap (fun a => 2 ^ a :: (List.range a).flatMap (fun b => [2 ^ a - 2 ^ b, 2 ^ a + 2 ^ b]))).filter
    (fun x => decide (0 < x ∧ x ≤ 65535))

/-- The largest such number at most `m`, 0 for none (R71). -/
def largestTwoDigit (m : Nat) : Nat := maxN (twoDigitNumbers.filter (fun x => decide (x ≤ m)))

/-- h of R71: the running maximum with 1/8 headroom. -/
def headroom (r : Nat) : Nat := Nat.max 1 (r + r / 8)

/-- t of R71 for a nominal output width. -/
def scaleTarget (w : Nat) : Nat := if w = 1 then 1 else if w = 16 then 32767 else 2 ^ (w - 1) - 1

/-- The loop of R71 over s_t: keep the pair of the largest ratio, ties to the smaller s_t. -/
def deriveLoop (t h : Nat) : Nat → Nat → Option (Nat × Nat) → Option (Nat × Nat)
  | 0, _, best => best
  | fuel + 1, st, best =>
    let tt := largestTwoDigit (Nat.min 65535 (t * 2 ^ st / h))
    let better : Bool := match best with
      | none => true
      | some (bt, bs) => decide (bt * 2 ^ st < tt * 2 ^ bs)
    deriveLoop t h fuel (st + 1) (if 1 ≤ tt ∧ better = true then some (tt, st) else best)

/-- The token-scale word derived from the running maximum R and the nominal width (R71). -/
def deriveScale (r w : Nat) : Nat :=
  match deriveLoop (scaleTarget w) (headroom r) 64 0 none with
  | some (t, st) => tokenWord t st
  | none => tokenWord 1 63

/-- The statistic of one output: |acc × C| >> Lsh, saturated to 2^32 - 1 (R68). -/
def statOf (accC : Int) (lsh : Nat) : Nat := Nat.min (2 ^ 32 - 1) (accC.natAbs / 2 ^ lsh)

/-- Shift a step's statistic into a window, dropping the oldest entry (R69). -/
def windowShift (win : List Nat) (m : Nat) : List Nat := win.drop 1 ++ [m]

/-! ## Reduction trees (R105-R110) -/

/-- The base shift e of a block (R105); `cmin` is none when every channel scale of the block is zero. -/
def baseShift (h lsh : Nat) (cmin : Option Nat) : Nat :=
  match cmin with
  | none => 0
  | some c => Nat.min 32 (bitlen (h * 2 ^ lsh / c + 1) - 12)

/-- The smallest non-zero scale of a list (R105). -/
def cminOf (cs : List Nat) : Option Nat := (cs.filter (· != 0)).foldl
  (fun b c => match b with | none => some c | some x => some (Nat.min x c)) none

/-- A value rounded and saturated to 16 bits with its saturation flag: v of R106, v′ and F of R109, R110. -/
def sat16Flag (x : Int) : Int × Nat := (sat16 x, if 32767 < x.natAbs then 1 else 0)

/-- The 16-bit partial of an accumulator under shift e (R106). -/
def partialOf (acc : Int) (e : Nat) : Int × Nat := sat16Flag (rheDiv acc (2 ^ e))

/-- c = bitlen(L - 1) for L leaves (R109). -/
def leafBits (leaves : Nat) : Nat := bitlen (leaves - 1)

/-- The value a subtree of `leaves` partials sends, with its shift and saturations (R109). -/
def sendPartial (ssub : Int) (leaves e : Nat) : Int × Nat × Nat :=
  let sh := Nat.min 32 (e + leafBits leaves)
  let v := sat16Flag (rheDiv ssub (2 ^ (sh - e)))
  (v.1, sh, v.2)

/-- The ranks of a reduction combine level by level: rank j with j mod 2^(l+1) = 2^l sends to j - 2^l (R109). Each entry
is (subtree sum in units of 2^e, leaves, saturations). -/
def reduceLevel (e : Nat) : List (Int × Nat × Nat) → List (Int × Nat × Nat)
  | a :: b :: rest =>
    let s := sendPartial b.1 b.2.1 e
    (a.1 + s.1 * 2 ^ (s.2.1 - e), a.2.1 + b.2.1, a.2.2 + b.2.2 + s.2.2) :: reduceLevel e rest
  | xs => xs

/-- The levels of R109 until one entry is left. -/
def reduceRanks (e : Nat) : Nat → List (Int × Nat × Nat) → List (Int × Nat × Nat)
  | 0, xs => xs
  | k + 1, xs => if xs.length ≤ 1 then xs else reduceRanks e k (reduceLevel e xs)

/-- acc of a reduction over ranks: S × 2^e on one rank, else F × 2^(e + c) (R109, R110), with the saturations. -/
def reduceAcc (e : Nat) (ranks : List (Int × Nat × Nat)) : Int × Nat :=
  match ranks with
  | [one] => (one.1 * 2 ^ e, one.2.2)
  | _ =>
    match reduceRanks e 7 ranks with
    | root :: _ =>
      let f := sendPartial root.1 root.2.1 e
      (f.1 * 2 ^ f.2.1, root.2.2 + f.2.2)
    | [] => (0, 0)

/-- The lower and upper halves of a die's fixed binary tree added in order (R107): a list of 64 partials. -/
def treeSum : Nat → List Int → Int
  | 0, xs => xs.headD 0
  | k + 1, xs => treeSum k (xs.take (2 ^ k)) + treeSum k (xs.drop (2 ^ k))

end Sys2Proof.Machine
end

