-- ==== Sys2Proof/Machine/Flags.lean ====
section
/-! DEFINITION. Checks and wrapping counts: saturating counters (R370), serial-number comparison (R331), and the
cyclic codes CRC-8 (R202), CRC-16 (R257) and CRC-32 (R116). -/
namespace Sys2Proof.Machine

/-- A 32-bit unsigned saturating counter (R370). -/
abbrev Counter := BitVec 32

/-- A counter raised by `n`, saturating at 2^32 - 1 (R370). -/
def satAdd (c : Counter) (n : Nat) : Counter :=
  BitVec.ofNat 32 (Nat.min (c.toNat + n) 0xFFFFFFFF)

/-- A counter raised by one (R370). -/
def satInc (c : Counter) : Counter := satAdd c 1

/-- A number raised by one, stopping at a limit. -/
def satTo (limit x : Nat) : Nat := Nat.min limit (x + 1)

/-- How two wrapping counts compare (R331). -/
inductive Serial where
  | equal
  | earlier
  | later
  | notComparable
  deriving DecidableEq, Repr

/-- Compare `a` with `b`, both of `n` bits, by serial-number arithmetic (R331). -/
def serialCmp (n a b : Nat) : Serial :=
  let d := (b + 2 ^ n - a % 2 ^ n) % 2 ^ n
  if d = 0 then .equal
  else if d < 2 ^ (n - 1) then .earlier
  else if 2 ^ (n - 1) < d then .later
  else .notComparable

/-- One byte through a reflected CRC register of 32 bits. -/
def crc32Bits : Nat → Nat → Nat
  | 0, c => c
  | k + 1, c => crc32Bits k (if c % 2 = 1 then (c / 2) ^^^ 0xEDB88320 else c / 2)

/-- The CRC-32 of R116: IEEE 802.3, reflected, initial value and final XOR 0xFFFF_FFFF. -/
def crc32 (bs : Bytes) : Nat :=
  (bs.foldl (fun c b => crc32Bits 8 (c ^^^ b.toNat)) 0xFFFFFFFF) ^^^ 0xFFFFFFFF

/-- One byte through a non-reflected CRC register of `w` bits with polynomial `poly`. -/
def crcBits (w poly : Nat) : Nat → Nat → Nat
  | 0, c => c
  | k + 1, c =>
    crcBits w poly k (if c.testBit (w - 1) then (c * 2) % 2 ^ w ^^^ poly else (c * 2) % 2 ^ w)

/-- The CRC-8 of a page-table entry: x^8 + x^2 + x + 1, initial value 0 (R202). -/
def crc8 (bs : Bytes) : Nat := bs.foldl (fun c b => crcBits 8 0x07 8 (c ^^^ b.toNat)) 0

/-- The CRC-16 of class A: x^16 + x^12 + x^5 + 1, initial value 0xFFFF (R257). -/
def crc16 (bs : Bytes) : Nat :=
  bs.foldl (fun c b => crcBits 16 0x1021 8 (c ^^^ (b.toNat * 256))) 0xFFFF

end Sys2Proof.Machine
end

