-- ==== Sys2Proof/Machine/State.lean ====
section
/-! DEFINITION. The state of the block: every register, table, queue, buffer and mode the manual gives the module, as
plain data, and the state after reset. -/
namespace Sys2Proof.Machine

/-- Sparse bytes in canonical form: addresses strictly rising, no byte 0 listed; an unlisted address reads 0. -/
abbrev Mem := List Host.Cell

/-! ## Identity, flash and the protection plan -/

/-- A module's place: RACK, SLOT and SITE (R283, member form of R344). -/
structure Member where
  rack : Nat
  slot : Nat
  site : Nat
  deriving DecidableEq, Repr

/-- A partition record of the protection plan (R334). -/
structure PartRec where
  enabled : Bool
  debug : Bool
  moduleCfg : Bool
  sharedWriter : Bool
  priority : Nat
  maxJobs : Nat
  ctrlKey : BitVec 32
  bulkKey : BitVec 32
  slotLog2 : Nat
  slotsM1 : Nat
  hbmQuota : Nat
  deriving DecidableEq, Repr

/-- An entry of a configuration set or of the signed block: FIELD, INDEX, VALUE (R348). -/
structure CfgEntry where
  field : Nat
  index : Nat
  value : Nat
  deriving DecidableEq, Repr

/-- The signed configuration block (R381), with its owner and the verdicts on its two signatures (R375). -/
structure ConfigBlock where
  version : Nat
  minFw : Nat
  serial : Nat
  powerCap : Nat
  parts : List PartRec
  fields : List CfgEntry
  qps : List Bytes
  wellFormed : Bool           -- MAGIC, FORMAT and every reserved field as R381 asks
  ownerNumber : Nat
  sigs : Sigs
  digest : BitVec 384
  deriving DecidableEq, Repr

/-- The fields of an image manifest (R387) with the verdicts on its signatures. -/
structure Manifest where
  full : Bool
  firstStage : Bool
  version : Nat
  baseVersion : Nat
  targetBytes : Nat
  deltaBytes : Nat
  tableFormat : Nat
  migrateFrom : Nat
  planVersion : Nat
  chain : List Member
  baseDigest : BitVec 384
  targetDigest : BitVec 384
  sigs : Sigs
  deriving DecidableEq, Repr

/-- A stored runtime image: its manifest and bytes (R377, R388). -/
structure Image where
  manifest : Manifest
  bytes : Bytes
  deriving DecidableEq, Repr

/-- The owner key record (R376): the owner number it carries, and the verdicts on it. -/
structure OwnerRec where
  number : Nat
  digest : BitVec 384
  sigs : Sigs
  deriving DecidableEq, Repr

/-- The boot flash (R377): everything a unit keeps without power. -/
structure Flash where
  serial : BitVec 64                 -- IDENTITY
  grade : Nat                        -- IDENTITY: 20 or 16 (R4)
  certRsa : Bytes                    -- IDENTITY
  certSlh : Bytes                    -- IDENTITY
  rootOk : Bool                      -- the root key record's digest equals the ROM's (R376)
  firstA : Image
  firstB : Image
  owner : OwnerRec
  config : ConfigBlock
  slotB : Bool                       -- STATE: the current image slot, IMAGE_B when set
  failedBoots : Nat                  -- STATE: failed-boot count
  imageA : Option Image
  imageB : Option Image
  trips : Counter                    -- TRIPS of R432
  deriving DecidableEq, Repr

/-! ## Mailboxes, bulk windows and events -/

/-- The hub's record of one mailbox: who owns it, its flip time and the QP that flipped it (R293, R297), and whether a
command of it is in progress. -/
structure Box where
  owned : Bool
  flipTime : Nat
  flipQp : Option Nat
  taken : Bool
  deriving DecidableEq, Repr

/-- An event record (R368). -/
structure Event where
  evSeq : BitVec 32
  code : Nat
  isModule : Bool
  part : Nat
  job : Nat
  step : Nat
  time : Nat
  cell : Nat
  loc : Nat
  arg0 : Nat
  arg1 : Nat
  arg2 : Nat
  arg3 : Nat
  deriving DecidableEq, Repr

/-- The debug snapshot selection: a job's step and (cell, region) pairs (R113, R346). -/
structure SnapSel where
  job : Nat
  step : Nat
  pairs : List (Nat × Nat)
  deriving DecidableEq, Repr

/-- A snapshot taken and not yet read: its bytes and the tiles of the named cells (R113). -/
structure Snap where
  job : Nat
  bytes : Bytes
  tiles : List (Nat × List (Nat × Bytes))
  deriving DecidableEq, Repr

/-- One partition: its control window, mailboxes and event queue (R292, R334, R367). -/
structure Part where
  ctrl : Mem
  boxes : Vector Box 8
  events : List Event
  evSeq : BitVec 32
  evLost : Counter
  evLostSince : Nat
  evEmptied : Bool
  snapSel : Option SnapSel
  snap : Option Snap
  deriving DecidableEq, Repr

/-! ## Graphs and weights -/

/-- The parameters of a descriptor by its operator (R129-R132). -/
inductive Params where
  | none
  | attend (nq nkv headDim scoreQ valueQ scoreScale ropeBase span : Nat)
  | route (nExperts topk scoreFn : Nat) (renorm : Bool) (combine cf expertDesc combineLsh : Nat)
  | expert (nExperts : Nat) (routed predict : Bool) (actFn innerW inner predHidden : Nat) (margin : Int)
      (missLimit innerLsh : Nat)
  | norm (eps q : Nat)
  | act (fn : Nat)
  | select (topk invTemp : Nat)
  deriving DecidableEq, Repr

/-- A layer descriptor (R124) with the arrays of the data section it names (R127, R128). -/
structure Desc where
  opcode : Nat
  round : Nat
  wisp3 : Bool
  tscale : Bool
  inW : Nat
  outW : Nat
  lsh : Nat
  window : Nat
  blockNo : Nat
  inDim : Nat
  outDim : Nat
  initMax : Nat
  srcA : Nat
  srcB : Nat
  dst : Nat
  scales : Option (List Nat)
  ovr : Option (List Nat)
  par : Params
  deriving DecidableEq, Repr

/-- A graph a partition holds, or a shared graph (R115, R116, R336). `gref` is the model's own key. -/
structure Graph where
  gref : Nat
  owner : Nat
  shared : Bool
  id : Nat
  role : Nat
  hidden : Nat
  vocab : Nat
  maxCtx : Nat
  draftOf : Nat
  descs : List Desc
  deriving DecidableEq, Repr

/-- How far the repair of a poisoned block or structure has come (R272, R363, R364). -/
inductive Poison where
  | clean
  | rebuilding
  | refetch
  deriving DecidableEq, Repr

/-- A loaded weight block: its block-table entry and its place in HBM (R137, R138, R159). -/
structure Block where
  gref : Nat
  desc : Nat
  entry : Nat
  fmt : WFmt
  lines : Nat
  addr : Nat
  poison : Poison
  deriving DecidableEq, Repr

/-! ## KV state -/

/-- A page-table entry (R202). -/
structure Pte where
  frame : Nat
  valid : Bool
  tentative : Bool
  sharedPfx : Bool
  pinned : Bool
  epoch : Bool
  gen : Nat
  desc : Nat
  page : Nat
  check : Nat
  deriving DecidableEq, Repr

/-- A sequence's token-scale windows and fall-back countdowns in one graph, by descriptor index (R69, R74), and the
largest m of a prompt under way (R70). -/
structure NumState where
  wins : List (Nat × List Nat)
  cds : List (Nat × List Nat)
  pmax : List (Nat × Nat)
  deriving DecidableEq, Repr

/-- A sequence's state in one graph: committed length, page table, windows and countdowns (R205). -/
structure KvState where
  len : Nat
  pt : List Pte
  num : NumState
  deriving DecidableEq, Repr

/-- A direct-mode sequence record, or accepted KV state (R205, R229). -/
structure DSeq where
  id : Nat
  accepted : Bool
  main : KvState
  draft : KvState
  deriving DecidableEq, Repr

/-- STATE of a sequence-table entry (R232); a FREE slot has no entry. -/
inductive SeqState where
  | waiting
  | prefill
  | decode
  | paused
  | draining
  deriving DecidableEq, Repr

/-- The fields of a sequence-table entry that the admission sets (R231). -/
structure AdmitReq where
  id : Nat
  specOk : Bool
  accepted : Bool
  draftK : Nat
  topk : Nat
  promptLen : Nat
  maxNew : Nat
  invTemp : Nat
  ttft : Nat
  tbt : Nat
  stop0 : Nat
  stop1 : Nat
  parent : Nat
  pfxLen : Nat
  outRing : Nat
  outSlots : Nat
  deriving DecidableEq, Repr

/-- The timing and acceptance fields of a sequence-table entry (R231, R236, R247). -/
structure SeqTimes where
  admitTime : Nat
  lastEmit : Nat
  firstEmit : Nat
  pauseTime : Nat
  cooldown : Nat
  age : Nat
  accAvg : Nat
  drafted : Nat
  acceptedN : Nat
  lastStep : Nat
  deriving DecidableEq, Repr

/-- A sequence-table entry (R231), with the stored prompt, its first position P0 (R233) and its pages. -/
structure SeqEntry where
  slot : Nat
  req : AdmitReq
  state : SeqState
  resume : Option SeqState
  cancel : Bool
  emitted : Nat
  nextToken : Nat
  outNext : Nat
  directory : Nat
  promptRow : Nat
  prompt : List Nat
  p0 : Nat
  times : SeqTimes
  main : KvState
  draft : KvState
  deriving DecidableEq, Repr

/-- A KV frame pool of a job on one stack: block count B, base address and frame count (R201). -/
structure Pool where
  stack : Nat
  b : Nat
  base : Nat
  count : Nat
  deriving DecidableEq, Repr

/-- The hub's record of a frame that is in use or has been freed: stack and index, B, the 17-bit generation, and the
pins that ships hold (R203, R225). A frame without a record is free at generation 0. `filled` is the model's own: how many
position slots have been written since the frame was taken; what the others hold is undefined (R200). -/
structure Frame where
  frame : Nat
  b : Nat
  gen17 : Nat
  inUse : Bool
  staged : Bool
  pins : Nat
  filled : Nat
  deriving DecidableEq, Repr

/-! ## Outputs -/

/-- The headers of a RoCE v2 frame that the module sends (R288-R290, R298): the 802.1Q tag (VLAN identifier and PCP), the
MAC addresses, the GIDs, the DSCP and ECN of its IP header, the UDP destination port and the destination QP. -/
structure RoceHdr where
  tag : Option (Nat × Nat)
  dstMac : BitVec 48
  srcMac : BitVec 48
  srcGid : Nat
  dstGid : Nat
  dscp : Nat
  ecn : Nat
  udpPort : Nat
  destQp : Nat
  deriving DecidableEq, Repr

/-- A RoCE packet that the module sends (R289, R297, R298, R300): acknowledgements, NAKs, the data of a READ, a notice (as a
SEND, or with the key and address of a WRITE with immediate), a CNP. -/
inductive RoceOut where
  | ack (psn : BitVec 24)
  | nakSeq (psn : BitVec 24)
  | nakInv (psn : BitVec 24)
  | nakAccess (psn : BitVec 24)
  | readData (psn : BitVec 24) (data : Bytes)
  | notice (psn : BitVec 24) (word : BitVec 32) (write : Option (BitVec 32 × BitVec 64))
  | cnp
  deriving DecidableEq, Repr

/-- What leaves the module on its wires: the model's own record of its outputs, oldest first. -/
inductive Out where
  | roce (qp : Nat) (hdr : RoceHdr) (pkt : RoceOut)
  | pfcXoff (port : HostPort) (prio : Nat)
  | pfcXon (port : HostPort) (prio : Nat)
  | arpReply (port : HostPort) (addr : BitVec 32) (mac : BitVec 48)
  | neighborAdvert (port : HostPort) (addr : BitVec 128) (mac : BitVec 48)
  | lldp (port : FabPort) (chassis mac : BitVec 48)
  | fabData (port : FabPort) (key : StreamKey) (seq : BitVec 32) (bytes : Bytes)
  | fabAck (port : FabPort) (key : StreamKey) (ack : BitVec 32) (bytes : Bytes)
  | fabNak (port : FabPort) (key : StreamKey) (seq : BitVec 32) (reason : Nat) (bytes : Bytes)
  | deliver (key : StreamKey) (seq : BitVec 32) (payload : Bytes)
  | control (job toRank kind rank reason step boundary : Nat)
  | stats (job toRank step : Nat) (down : Bool) (body : StatsBody)
  | reduce (job toRank : Nat) (rec : ReduceRec)
  | gather (job toRank : Nat) (rec : GatherRec)
  | term (job toRank : Nat) (rec : GatherRec)
  | shipOffer (shipId : Nat)
  | shipStream (shipId : Nat) (manifest scale pages : Bytes)
  | shipAck (shipId : Nat)
  | fwMessage (peer : Member) (kind status : Nat) (object : Bytes)
  | fwReply (peer kind status : Nat)
  | hbmData (addr : Nat) (data : Bytes) (marked : Bool)
  | mctpReply (data : Bytes)
  | recoveryReply (kind status : Nat)
  | beacon (report : Bytes)
  | tdo (bits : List Bool)
  deriving DecidableEq, Repr

/-! ## Steps -/

/-- A token of a step's work list (R140, R238). -/
structure Tok where
  seq : Nat
  pos : Nat
  token : Nat
  emit : Bool
  fin : Bool
  topk : Nat
  invTemp : Nat
  deriving DecidableEq, Repr

/-- A length-table record (R206). -/
structure LenRec where
  seq : Nat
  first : Nat
  count : Nat
  base : Nat
  spec : Nat
  discard : Bool
  deriving DecidableEq, Repr

/-- What a step is (R229, R245, R246): a RUN_STEP of a mailbox, the one step of an unpaired round, or the draft or the
verification step of a paired round. -/
inductive StepKind where
  | direct (p : PartId) (m : BoxId) (outSlot : Nat)
  | round
  | draft
  | verify
  deriving DecidableEq, Repr

/-- The numbers a step's evaluation counts for one descriptor (R372). -/
structure DescTally where
  clamps : Nat
  lnsSat : Nat
  dropped : Nat
  noChoice : Nat
  active : Nat
  missed : Nat
  deriving DecidableEq, Repr

/-- The staged results of a step (R144): selections by work-list index, per-sequence statistics and trigger bits by
descriptor, per-descriptor counts, the KV blocks to publish (descriptor, sequence, position, bytes), the drafts of
a draft step (sequence, drafts), and the routing records (descriptor, work-list index, record) (R186). -/
structure Results where
  selected : List (Nat × Nat)
  stats : List (Nat × List (Nat × Nat))
  trigs : List (Nat × List (Nat × List Bool))
  tally : List (Nat × DescTally)
  kv : List (Nat × Nat × Nat × Bytes)
  drafts : List (Nat × List Nat)
  routing : List (Nat × Nat × Bytes)
  deriving DecidableEq, Repr

/-- Where a step stands: running, completed on this rank at a time, or killed and waiting for its re-run. -/
inductive StepPhase where
  | running
  | complete (t : Nat)
  | killed
  deriving DecidableEq, Repr

/-- What a step runs against, as it stood after item 4 of its launch boundary (R146): weights (descriptor, entry,
format, bytes), per-sequence numeric state and committed KV blocks (descriptor, sequence, position, bytes), Meff
by descriptor. -/
structure StepEnv where
  graph : Graph
  blocks : List (Nat × Nat × WFmt × Bytes)
  nums : List (Nat × NumState)
  kv : List (Nat × Nat × Nat × Bytes)
  meff : List (Nat × Int)
  deriving DecidableEq, Repr

/-- A step of a job, launched and not yet committed (R147, R148). -/
structure Step where
  number : BitVec 32
  kind : StepKind
  isDraft : Bool                       -- does it run the draft graph?
  toks : List Tok
  lens : List LenRec
  prefill : List Nat                   -- sequences in WAITING or PREFILL at launch that feed prompt tokens (R70)
  launched : Nat
  phase : StepPhase
  kills : Nat
  cause : Nat
  noRerun : Bool                       -- killed under R227: not re-run
  countless : Bool                     -- the last kill does not count (R358)
  rerun : Bool                         -- this run is a re-run, in credit mode (R95)
  stagedPages : List (Nat × Pte)
  kept : List DSeq                     -- KV state of sequences that left the table while the step carries them (R249)
  env : StepEnv
  reduces : List ReduceRec
  gathers : List GatherRec
  terms : List GatherRec
  results : Option Results
  ready : Bool                         -- its cells have finished; only other ranks' records are waited for (R147)
  sent : List Out                      -- records this rank has sent
  statsIn : List (Nat × StatsBody)     -- STATS messages received up the tree, by rank
  merged : Option Nat                  -- when the merged STATS message came to be held (R316)
  doneFrom : List Nat                  -- ranks whose STEP_DONE rank 0 holds, with times in doneTimes
  doneTimes : List Nat
  b0 : Option Nat                      -- the B0 of rank 0's STEP_DONE (R326)
  deriving DecidableEq, Repr

/-- A sequence of a built round: token count, draft length, and AGE before the build (R237, R249). -/
structure RoundItem where
  seq : Nat
  n : Nat
  k : Nat
  age : Nat
  deriving DecidableEq, Repr

/-! ## Jobs -/

/-- The job-scope fields of the configuration set (R349). -/
structure JobCfg where
  replMode : Nat
  replWindow : Nat
  replRatio : Nat
  replShare : Nat
  predWiden : Nat
  stepBudget : Nat
  chunkMax : Nat
  agingTicks : Nat
  tEstInit : Nat
  specMin : Nat
  specCooldown : Nat
  deriving DecidableEq, Repr

/-- The counters and audit state of one descriptor of a job (R181, R372). -/
structure DescState where
  draft : Bool
  desc : Nat
  clamps : Counter
  lnsSat : Counter
  blockTrig : Counter
  layerTrig : Counter
  dropped : Counter
  noChoice : Counter
  audits : Counter
  auditActive : Counter
  auditMissed : Counter
  missRate : Nat
  meff : Int
  widenings : Nat
  results : List (Nat × Nat)
  deriving DecidableEq, Repr

/-- A stage of the layout on this rank (R157, R169). -/
structure Stage where
  number : Nat
  kind : Nat
  cells : List Nat
  spread : Nat
  hot : Bool                           -- its spread exceeded REPL_RATIO in the last window (R164)
  deriving DecidableEq, Repr

/-- A pending re-placement: the mailboxes of the PLACEs that started it or merged with it, whether PLACE started it, whether
its copies have finished, the stages it plans, the blocks it moves (as they stand and as they are copied), and the pages it
moves (B, old frame, new frame) (R164-R166). -/
structure Repl where
  places : List (PartId × BoxId)
  byPlace : Bool
  copied : Bool
  stages : List Stage
  blocks : List (Block × Block)
  pages : List (Nat × Nat × Nat)
  deriving DecidableEq, Repr

/-- Steps committed, tokens they held and cached positions that those read, over a window (R158, R164). -/
structure ReplWindow where
  steps : Nat
  toks : Nat
  pos : Nat
  deriving DecidableEq, Repr

/-- The layout of a job on this rank and its counters (R168). -/
structure Layout where
  stages : List Stage
  epoch : BitVec 32
  replDone : Counter
  replAbandoned : Counter
  pending : Option Repl
  placeWaiting : List (PartId × BoxId)      -- PLACE requests waiting for the next window end
  sinceInstall : Nat                        -- window ends since the last install
  flowStalled : Bool
  window : ReplWindow                           -- the window under way
  past : ReplWindow                             -- the last full one
  report : Bytes                            -- the placement report, as item 4 of the last boundary left it (R168)
  deriving DecidableEq, Repr

/-- How far a job's stage programs have come into the cells (R81, R353). -/
inductive Prog where
  | none
  | streaming
  | streamed
  | installed
  deriving DecidableEq, Repr

/-- The serving state of a job: rounds and round times (R235-R239). -/
structure Serving where
  built : Option (List RoundItem)
  drafts : List (Nat × List Nat)       -- drafts staged by a committed draft step (R245)
  current : List RoundItem             -- the round whose steps are running
  roundStart : Option Nat              -- boundary that launched the committed run of its first step
  times : List Nat                     -- durations of the last committed rounds, newest last, at most 16
  draftCount : Nat                     -- running number for directory and prompt rows
  spec : Nat × Nat                     -- SPEC_MIN and SPEC_COOLDOWN as the last build found them (R235)
  deriving DecidableEq, Repr

/-- An open job (R351, R352). -/
structure Job where
  handle : Nat
  part : PartId
  gref : Nat
  dref : Option Nat
  nRanks : Nat
  rank : Nat
  period : Nat
  phase : Nat
  openTime : Nat
  members : List Member
  kvTokens : Nat
  planVersion : Nat
  planCrc : Nat
  cfg : JobCfg
  seqs : List SeqEntry
  direct : List DSeq
  pools : List Pool
  frames : List Frame
  descs : List DescState
  nextStep : BitVec 32
  lastCommitted : Option (BitVec 32)
  step : Option Step
  serving : Serving
  layout : Layout
  prog : Prog
  credit : Bool                        -- its cells are in credit mode (R95)
  lost : Bool                          -- JOB_LOST (R327)
  seqLost : List (Nat × Nat × Nat × Nat)   -- sequences to remove at the next boundary: id, frame, desc, page (R227)
  lastBoundary : Option Nat
  deriving DecidableEq, Repr

/-- A command the module has accepted and not yet answered (R338, R340): staged for a boundary, waiting for an instant,
or waiting for another module. It carries the slots it named (R341) and what it staged: weight blocks, a work list, or
bytes it read. -/
structure Cmd where
  p : PartId
  m : BoxId
  code : Nat
  job : Nat
  tag : Nat
  flip : Nat
  body : Bytes
  sched : Bool                         -- it is an enclosed command whose T has not been reached (R328)
  slots : List Nat
  blocks : List Block
  toks : List Tok
  data : Bytes
  deriving DecidableEq, Repr

/-- A ship this module sends (R225). -/
structure ShipOut where
  shipId : Nat
  p : PartId
  m : BoxId
  job : Nat
  seq : Nat
  destJob : Nat
  dest : Member
  length : Nat
  fin : Bool
  frames : List (Nat × Nat)            -- pinned frames: B and frame number
  acked : Bool
  deriving DecidableEq, Repr

/-- A receive this module has open (R223, R224). -/
structure ShipRecv where
  shipId : Nat
  p : PartId
  m : BoxId
  job : Nat
  seq : Nat
  srcJob : Nat
  openTime : Nat
  wait : Nat
  arrived : Bool
  length : Nat
  scale : Bytes
  frames : List (Nat × Nat)            -- reserved frames: B and frame number
  ptes : List Pte                      -- staged entries
  deriving DecidableEq, Repr

/-! ## Cells -/

/-- The form of one chunk of a group (R54-R56). -/
inductive ChunkKind where
  | trit5
  | sparse (passes : Nat)
  | wide
  deriving DecidableEq, Repr

/-- One chunk of a group (R78): its form, its input block, the block-table entry its weights come from, and its width for each
token slot after override and fall-back. -/
structure ChunkTag where
  kind : ChunkKind
  input : Nat
  entry : Nat
  widths : List Nat
  deriving DecidableEq, Repr

/-- Which work a group does: the descriptor, expert and matrix, the output block of 256 rows and the token tile. -/
structure GroupKey where
  layer : Nat
  expert : Nat
  matrix : Nat
  block : Nat
  toks : Nat
  deriving DecidableEq, Repr

/-- What the tag of an accumulation group fixes at its opening (R78). A list by token slot has one item for each token held. -/
structure GroupTag where
  key : GroupKey
  leaf : Nat                        -- which leaf of the output block the group forms, of `leaves` on this rank (R153)
  leaves : Nat
  tree : Bool                       -- its sum goes through the reduction trees, and through those of several ranks (R105-R110, R153)
  across : Bool
  windows : List (List ChunkTag)    -- the chunks of each promotion window
  outWs : List Nat                  -- output width by token slot after fall-back; 16, or 31 for an output bound for a Wisp encoder (R66)
  tscale : Bool                     -- token scaling: the statistic of R68 is kept
  lsh : Nat
  scales : List Nat                 -- channel scales of the block's outputs
  tokWords : List Nat               -- token-scale word by token slot (R71)
  shifts : List Nat                 -- base shift e by token slot (R105)
  index : List Nat                  -- work-list index by token slot (R83)
  seqIds : List Nat                 -- sequence id by token slot (R64)
  positions : List Nat              -- position by token slot (R64)
  stochastic : Bool
  more : Bool                       -- later experts of a shared bank still add to these outputs (R135)
  rows : List (Option (List Nat))   -- by token slot, the rows that retire; none for all (R176)
  deriving DecidableEq, Repr

/-- A line of a scratchpad region: its bytes, the HBM address an updraft engine fetched it from, and the step it is for
(R90, R102). -/
structure RLine where
  data : Bytes
  src : Option Nat
  step : BitVec 32
  deriving DecidableEq, Repr

/-- What a checker of a cell makes of a stored word (R260, R357). -/
inductive CellErr where
  | clean
  | corrected
  | uncorrectable
  deriving DecidableEq, Repr

/-- A write that a full region holds on its handshake: the line, since when, and the cell whose output it is (R93, R112). -/
structure HeldLine where
  line : Bytes
  since : Nat
  src : Option CellId
  deriving DecidableEq, Repr

/-- A scratchpad region (R89) with the lines it holds. -/
structure Region where
  base : BitVec 16
  sizeM1 : BitVec 16
  kind : Nat
  producer : Producer
  credit : Bool
  held : Option HeldLine               -- a write held on its handshake (R93)
  head : BitVec 32
  tail : BitVec 32
  arrived : Counter
  expect : Counter
  credits : Counter
  reserved : Nat                       -- lines an updraft engine has reserved (R101)
  waited : Option Nat                  -- the largest count that an arrival wait of the step has completed at (R92)
  lines : List RLine                   -- the occupied lines, from TAIL to HEAD
  deriving DecidableEq, Repr

/-- A partial result waiting in a reorder slot: its position, the lanes' values, and the rows they feed when sparse
(R52, R55). -/
structure Partial where
  pos : PartialPos
  vals : List Int
  rows : List Nat
  deriving DecidableEq, Repr

/-- An open accumulation group: its tile, tag, wide accumulators (element 256 slot + output), reorder slots by lane
group, the partial that waits for a full slot to drain, and the next position to retire (R52, R78, R86). -/
structure Group where
  tile : TileId
  pass : Nat
  tag : GroupTag
  wide : List (Nat × Int)
  reorder : Vector (List Partial) 8
  waiting : Vector (Option Partial) 8
  next : Vector (Option PartialPos) 8
  clamped : List ((Nat × Nat × Nat) × List Nat)   -- what the input stage adds to CLAMPED of a chunk's four outlier lists,
                                       -- by window, token slot and chunk (R50)
  deriving DecidableEq, Repr

/-- A lane group: narrow accumulators, promotion cost since the last promotion, the tile and token slot they belong to, and
the rows they promote into: their own, or those of a sparse chunk's records (R54, R55, R79). -/
structure LaneGrp where
  narrow : List Int
  cost : Nat
  owner : Option (TileId × Nat)
  rows : List Nat
  deriving DecidableEq, Repr

/-- What an entry waits for: the token list or the predictor pass of an expert of a bank, where a row-selective fetch names the
output block and the format (R178, R190); or the routing records of a ROUTE (R186). -/
inductive Gate where
  | expert (desc e : Nat) (rows : Option (Nat × WFmt))
  | route (desc : Nat)
  deriving DecidableEq, Repr

/-- A fetch list entry (R99). -/
structure FetchEntry where
  addr : Nat
  lines : Nat
  region : RegionId
  kind : FetchKind
  gate : Option Gate
  deriving DecidableEq, Repr

/-- The lines of an issued entry that have still to reach their region, in address order (R99, R101). -/
structure Flight where
  addr : Nat
  lines : Nat
  region : RegionId
  kind : FetchKind
  step : BitVec 32
  deriving DecidableEq, Repr

/-- An updraft engine (R98-R101). -/
structure Updraft where
  cur : List FetchEntry
  curStep : BitVec 32
  next : Option (List FetchEntry)
  pos : Nat
  ahead : Bool
  waitSpace : Bool
  halted : Option Nat                  -- halted under R360, at this list entry
  flight : List Flight                 -- issued entries that have not completed, in list order
  deriving DecidableEq, Repr

/-- What a cell is doing, apart from the conditions of R112 that come and go. -/
inductive CellBase where
  | off
  | idle
  | loading
  | waitBoundary
  | running
  | parked
  deriving DecidableEq, Repr

/-- A cell (R81, R89, R111). -/
structure Cell where
  base : CellBase
  job : Option Nat
  stage : Option Nat
  pass : Option Nat
  step : BitVec 32
  boundary : BitVec 32
  trapped : Bool
  heldOut : Bool
  waitOpen : Option (Nat × TileId × GroupTag)   -- the opening that waits for a tile: pass, tile, tag (R80)
  waitRegion : Option RegionId
  waitSince : Nat
  stateTime : Nat
  credit : Bool
  planeSteps : Counter
  planesSkipped : Counter
  waitTicks : Counter
  stallTicks : Counter
  stallSince : Option Nat              -- since when some write into the cell has been held (R93, R111)
  passK : List (Nat × Nat)
  groups : List Group                  -- unreleased groups, oldest first
  opened : List (List Nat × Nat)       -- token tiles opened in the step: by descriptor, expert, matrix, block
                                       -- and first input block (R83)
  passed : List ((Nat × Nat) × Nat)    -- token tiles of the step that a block has served, by descriptor and entry (R84)
  clamps : List ((Nat × Nat × Nat × Nat) × Nat)   -- what its input stage has clamped in the step: by the descriptor that wrote
                                       -- the vector, sequence, work-list index, and 256-element block (R50)
  zs : List (GroupKey × List (List Int))    -- z of a shared bank up to an expert, by its work, for each token slot (R135)
  tiles : List (Nat × List (Nat × Int))    -- what released tiles still hold, by tile index (R38, R87)
  lanes : Vector LaneGrp 8
  regions : Vector Region 16
  upd : Vector Updraft 2
  traps : List Nat                     -- trap times within the window of R361
  outs : List (OutBlock × List Bytes)  -- what the requantiser wrote last, by token slot; Wisp blocks for a KV output (R65-R67)
  maxima : List ((Nat × Nat) × Nat)    -- the largest statistic of the step, by sequence id and layer (R68)
  logSums : List Int                   -- the log engine's 48-bit sums (R58)
  vec : List Int                       -- the vector unit's last results (R133)
  lnsSats : Counter                    -- LNS saturations of its vector unit in the step (R133)
  deriving DecidableEq, Repr

/-- What the cells of a die give one reduction: its stage and tile, the work it is of, the leaves that are in it, the sums by
256 · slot + output, the saturations of R106 by slot, and the largest statistics of those cells (R68, R106-R108). -/
structure Reduction where
  stage : Nat
  tile : TileId
  key : GroupKey
  leaves : List Nat
  sums : List Int
  sats : List Nat
  maxima : List ((Nat × Nat) × Nat)
  deriving DecidableEq, Repr

/-! ## HBM -/

/-- The class of a 64 KiB unit (R252). -/
inductive UnitClass where
  | w
  | s
  | a
  | free
  deriving DecidableEq, Repr

/-- Where units stand between classes: given to a job but not yet of its class, of its class, or given back by it; a change takes
effect after item 4 of a boundary of the active job (R252). -/
inductive UnitUse where
  | coming
  | live
  | leaving
  deriving DecidableEq, Repr

/-- Units of one stack given to class S or A: first unit, count, and the partition and job they serve (R252, R334). -/
structure URange where
  stack : Nat
  first : Nat
  count : Nat
  cls : UnitClass
  part : Nat
  job : Nat
  use : UnitUse
  deriving DecidableEq, Repr

/-- The fields that a generator's run was started with (R278, R279). -/
structure GenRun where
  pattern : Nat
  op : Nat
  pcMask : BitVec 2
  loops : Nat
  first : Nat
  last : Nat
  seed : Nat
  deriving DecidableEq, Repr

/-- A channel's generator block (R279): the fields software writes, and the results. -/
structure Gen where
  pattern : BitVec 3
  op : BitVec 2
  pcMask : BitVec 2
  loops : BitVec 16
  first : BitVec 32
  last : BitVec 32
  seed : BitVec 32
  errors : Counter
  bursts : Counter
  firstFail : BitVec 48
  dqFail : BitVec 64
  sideFail : BitVec 8
  status : BitVec 3
  stopping : Bool                      -- a stop has been written and the run has not ended
  run : Option GenRun                  -- what the run under way was started with; none before the first start
  deriving DecidableEq, Repr

/-- The memory system (chapter 09). `side` holds, by burst index, the difference of the stored side bits from the
valid encoding of the stored data (notes/assumptions/7.md); `mixed` the add types that have targeted an element since
its last write (R280). -/
structure Hbm where
  mem : Mem
  side : List (Nat × BitVec 32)
  mixed : List (Nat × Bool)
  wStripes : Nat
  ranges : List URange
  scrub : List (Nat × Nat)
  scrubAt : List (Nat × Nat)
  gens : List (Nat × Gen)
  failed : List Nat
  spares : List (Nat × Nat)
  degraded : Bool
  trained : Bool
  selfRefresh : Bool
  deriving DecidableEq, Repr

/-! ## Ethernet -/

/-- The counters of a host port (R373). -/
structure HostCounters where
  icrcErr : Counter
  badQp : Counter
  wrongPath : Counter
  badTransport : Counter
  psnSeq : Counter
  dup : Counter
  invReq : Counter
  access : Counter
  owned : Counter
  flagKept : Counter
  pauseIgnored : Counter
  cnpSent : Counter
  cnpReceived : Counter
  fecUncorrected : Counter
  linkDown : Counter
  deriving DecidableEq, Repr

/-- A host port (R281, R299); `xoff` is set while the port has its neighbour stopped. -/
structure HPort where
  up : Bool
  xoff : Bool
  counters : HostCounters
  pausedUntil : Option Nat
  paused : List Out                    -- frames that wait for the pause to end
  deriving DecidableEq, Repr

/-- A fabric port (R282, R286): link, when it came up, whether its neighbour matched, and whether it is miswired. -/
structure FPort where
  up : Bool
  upAt : Nat
  matched : Bool
  miswired : Bool
  lldpAt : Nat
  deriving DecidableEq, Repr

/-- The counters of the fabric block (R373). -/
structure FabCounters where
  notOpen : Counter
  wrongRank : Counter
  badSource : Counter
  badFlags : Counter
  badClass : Counter
  badLength : Counter
  badOffset : Counter
  outOfWindow : Counter
  badRecord : Counter
  crc : Counter
  resends : Counter
  duplicates : Counter
  quarantines : Counter
  fecUncorrected : Counter
  deriving DecidableEq, Repr

/-- A transmit rate in Gb/s, num / 2^exp: halving is exact (R298). -/
structure Rate where
  num : Nat
  exp : Nat
  deriving DecidableEq, Repr

/-- A notice that waits for its acknowledgement: its PSN and word, the retries left, and when it was sent last (R297). -/
structure Notice where
  psn : BitVec 24
  word : BitVec 32
  retries : Nat
  sent : Nat
  deriving DecidableEq, Repr

/-- A queue pair (R290): its record, sequence numbers, state, rate and the message being placed. -/
structure Qp where
  index : Nat
  part : PartId
  port : HostPort
  notice : Nat
  pmtu : Nat
  sgid : Nat
  remoteQpn : Nat
  initSend : BitVec 24
  initRecv : BitVec 24
  remoteGid : Nat
  remoteMac : BitVec 48
  timeout : Nat
  retryCnt : Nat
  maxRd : Nat
  noticeRkey : BitVec 32
  noticeVa : BitVec 64
  sendPsn : BitVec 24
  recvPsn : BitVec 24
  inError : Option Nat                 -- the time it entered the error state (R301)
  nakSent : Bool                       -- a PSN Sequence Error NAK is outstanding (R300)
  rate : Rate                          -- transmit rate (R298)
  cnpSentAt : Option Nat
  cnpRecvAt : Option Nat
  rateAt : Nat
  notices : List Notice                -- unacknowledged notices, oldest first
  flips : List (PartId × BoxId)            -- mailboxes that the message under way has placed OWN = 1 in
  lastEvents : List (Nat × Nat)            -- counter offset and time of its last ROCE_VIOLATION events
  deriving DecidableEq, Repr

/-- A DATA frame a sender holds until it is acknowledged (R306): where it stands in its stream and message, its payload, its
resends, and the port it last went out on, none before it has been sent. -/
structure TxFrame where
  seq : BitVec 32
  offset : Nat
  first : Bool
  last : Bool
  sync : Bool
  ranks : Nat × Nat                    -- SRC_RANK and DST_RANK (R303)
  payload : Bytes
  resends : Nat
  sentOn : Option FabPort
  deriving DecidableEq, Repr

/-- The sending side of a stream (R306, R308, R309). -/
structure TxStream where
  key : StreamKey
  nextSeq : BitVec 32
  unacked : List TxFrame               -- frames not acknowledged, oldest first; those past the 1,024th wait
  progressAt : Nat
  lastPort : Nat                       -- index in the rotation of the last port used
  deriving DecidableEq, Repr

/-- A frame accepted ahead of a gap (R306). -/
structure RxFrame where
  seq : BitVec 32
  offset : Nat
  length : Nat
  last : Bool
  deriving DecidableEq, Repr

/-- The receiving side of a stream (R306, R308, R311). -/
structure RxStream where
  key : StreamKey
  expected : BitVec 32
  held : List RxFrame                  -- accepted ahead of a gap
  missing : List (BitVec 32 × Nat)     -- missing while later frames arrived, and since when or last NAKed
  ackDue : Option Nat                  -- time of the first unacknowledged accepted frame
  unackedCount : Nat
  nextOffset : Nat                     -- OFFSET the next frame of the message must carry; 0 before a FIRST
  port : FabPort                       -- the port the last frame arrived on
  rank : Nat                           -- SRC_RANK of the last frame (R304)
  synced : Option (BitVec 32 × Nat)    -- SEQ and CRC of the frame with SYNC that the stream began with (R306)
  deriving DecidableEq, Repr

/-- The module-scope fields of the configuration set (R349). -/
structure ModCfg where
  stallLimit : Nat
  scrubInterval : Nat
  gids : List (Nat × Nat)              -- 4 · port + i, GID value
  hostVlan : Nat
  pfcPrio : Nat
  rdmaDscp : Nat
  cnpDscp : Nat
  cnpInterval : Nat
  qpRestart : Nat
  fabVlan : Nat
  fabPcp : Nat
  fabRto : Nat
  fabGap : Nat
  fabRetries : Nat
  fabViolLimit : Nat
  fabViolWindow : Nat
  deriving DecidableEq, Repr

/-- The Ethernet side of the module (chapter 10). -/
structure Net where
  host : Vector HPort 4
  fab : Vector FPort 6
  fabCounters : FabCounters
  qps : List Qp
  tx : List TxStream
  rx : List RxStream
  peerPorts : List (Nat × BitVec 6)    -- PORTS_UP last received from a module, by its code (R309)
  viols : List (Nat × Nat × Nat)       -- job, peer (a rank, a module or an address) and time of each violation in the window
  quarantined : List (Nat × Nat)       -- job, peer rank
  deriving DecidableEq, Repr

/-! ## Timebase, power, board -/

/-- TB_STATE (R318). -/
inductive TbState where
  | unseeded
  | armed
  | synced
  | holdover
  | lost
  deriving DecidableEq, Repr

/-- The timebase block (R318). -/
structure Timebase where
  time : Nat                           -- TIME, below 2^64
  running : Bool                       -- MOD_RESET_N has been released (R426)
  seed : BitVec 64
  state : TbState
  refPresent : Bool
  markerPresent : Bool
  seedStatus : BitVec 3
  markers : BitVec 8
  slips : BitVec 16
  missing : BitVec 16
  lastSlip : BitVec 16
  hold : Nat                           -- ticks for which the count still holds (R320)
  latched : BitVec 64                  -- TIME as the last read of byte 0 latched it
  lastMarker : Option Nat              -- the count at the last marker
  deriving DecidableEq, Repr

/-- The coordinate block (R283): staged and live copies as 32 bytes, and COMMIT_STATUS. -/
structure Coord where
  staged : BitVec 256
  live : BitVec 256
  status : BitVec 2
  committed : Bool
  deriving DecidableEq, Repr

/-- POWER_STATE (R401); `off` has no code. -/
inductive PowerState where
  | active
  | lull
  | calm
  | off
  deriving DecidableEq, Repr

/-- A pending request of the power request block (R402, R404). -/
inductive PowKind where
  | active
  | lull
  | calm
  | warm
  | part (p : Nat)
  | cell (c : Nat)
  deriving DecidableEq, Repr

/-- The power controller and the power request block (R402, R409, R410). -/
structure Power where
  state : PowerState
  reqLow : BitVec 128                  -- bytes 0x00-0x0F as software last wrote them, GO excluded
  go : Bool                            -- GO reads 1: a request that software submitted is pending
  pending : Option (PowKind × Nat)     -- the request pending and its AT
  entering : Bool                      -- Calm has begun and self-refresh is not reached (R406)
  waking : Bool                        -- leaving Calm under R408, its launch not yet reached
  wakeOnFlip : Bool
  wakeAsked : Bool                     -- a flip asked for ACTIVE before Calm took effect (R416)
  result : BitVec 3
  capUnmet : Bool
  coreMv : BitVec 16                   -- CORE_MV: the core voltage now set
  activeMv : BitVec 16                 -- the voltage that Active returns to from Lull
  doneTime : BitVec 64
  samples : List Nat                   -- the last eight input-power samples, newest last
  thermLimit : Bool
  cap : Nat                            -- POWER_CAP in force, clamped (R4)
  deriving DecidableEq, Repr

/-- The TAP's instruction (R434). -/
inductive TapIr where
  | reset
  | bypass
  | idcode
  | sample
  | extest
  | clamp
  | highz
  deriving DecidableEq, Repr

/-- The test access port: instruction, bypass register, boundary cells as captured and as loaded (R434). -/
structure Tap where
  ir : TapIr
  bypassBit : Bool
  captured : List Bool
  loaded : List Bool
  deriving DecidableEq, Repr

/-- Supplies, straps, trips, the module status block and the sideband targets (chapter 16). -/
structure Board where
  aux : Bool                           -- 3V3_AUX present
  vin : Bool                           -- VIN above the lock-out (MAIN_PRESENT)
  pgood : Bool
  resetLow : Bool                      -- MOD_RESET_N is low
  tripped : Bool                       -- latched off (R436)
  thermTripLow : Bool                  -- THERM_TRIP_N driven low
  lastTrip : BitVec 3
  bootStage : BitVec 3
  bootCause : BitVec 2                 -- CAUSE that the next boot, or the one under way, writes (R380)
  recovLevel : Bool                    -- RECOV_N as last sampled
  sa : Fin 8                           -- SA2-SA0 as last sampled
  sensors : Sensors
  statusOffset : Nat                   -- offset last written to the status target (R431)
  i3cStatus : Option Nat               -- dynamic address of the status target
  i3cMctp : Option Nat                 -- dynamic address of the MCTP target
  eid : Nat                            -- MCTP endpoint ID
  tap : Tap
  deriving DecidableEq, Repr

/-- The boot report (R380) with the boot measurements of R386. -/
structure BootReport where
  fwVersion : Nat
  configVersion : Nat
  cause : BitVec 2
  slotB : Bool
  fallback : Bool
  hbmDegraded : Bool
  pufFailed : Bool
  failedBoots : BitVec 2
  readyTime : Nat
  sparesTotal : Nat
  failedChannels : List Nat
  selfTest : List Nat
  spares : List (Nat × Nat)
  deriving DecidableEq, Repr

/-- Firmware: the running image, measurements, activations, forwarding (R386-R396), and the recovery session. -/
structure Fw where
  running : Option Image
  mRom : BitVec 384
  mFirst : BitVec 384
  mImage : BitVec 384
  mConfig : BitVec 384
  mOwner : BitVec 384
  mRunning : BitVec 384
  activations : BitVec 32
  staged : Bool                        -- the slot that is not current holds a staged image
  stagedObj : Bytes                    -- its manifest and delta as they came, which FW_FORWARD sends on (R391)
  forward : Option (PartId × BoxId × Member)
  recovery : Bool
  recoveryCfgValid : Bool              -- a verified block is in CONFIG in this recovery session
  tableFormat : Nat                    -- generation of the stored tables
  deriving DecidableEq, Repr

/-- The module counters of R371 kept outside the partitions, and the fenced units. -/
structure ModCounters where
  wCorrected : Counter
  wUncorrectable : Counter
  sCorrected : Counter
  sUncorrectable : Counter
  aDetected : Counter
  cellCorrected : Counter
  cellUncorrectable : Counter
  weightErrors : Counter
  stateErrors : Counter
  microcodeTraps : Counter
  channelHalts : Counter
  addressFaults : Counter
  flowStalls : Counter
  blocksRebuilt : Counter
  blocksRefetched : Counter
  linesRebuilt : Counter
  floatOverflow : Counter
  floatInvalid : Counter
  kills : Counter
  commandsFailed : Counter
  scrubPasses : Counter
  deriving DecidableEq, Repr

/-- The state of the block. -/
structure State where
  flash : Flash
  plan : List PartRec                  -- the locked protection plan (R335); empty before boot
  planLocked : Bool
  board : Board
  tb : Timebase
  coord : Coord
  power : Power
  fw : Fw
  report : BootReport
  cfg : ModCfg
  parts : Vector Part 8
  graphs : List Graph
  nextGref : Nat
  blocks : List Block
  jobs : List Job
  active : Option Nat
  cmds : List Cmd
  shipsOut : List ShipOut
  shipsIn : List ShipRecv
  cells : Vector Cell 128
  fenced : List Nat
  fencedDma : List Nat
  haltedDma : List (Nat × Nat)         -- hub DMA channels halted under R360, with the list entry
  contexts : Vector (List Reduction) 2 -- reductions in each die's tree, at most four (R108)
  waitingReds : Vector (List Reduction) 2
  moduleSums : List Reduction          -- module sums S that the hub has formed of both dies (R107)
  hbm : Hbm
  net : Net
  counters : ModCounters
  draws : Nat                          -- the model's own count of free values drawn
  out : List Out                       -- the model's own record of outputs
  pending : List Instr                 -- commands waiting, first in, first out
  deriving DecidableEq, Repr

/-- Why a step could stop the machine. No meaning of this model stops with a fault: every command the manual describes
has an effect, or is answered on its own wires. Raised by nobody; safe. -/
inductive Fault where
  | none
  deriving DecidableEq, Repr

/-- Why a command has no meaning. `notModelled` is raised by an arm of `exec` that has no meaning yet (safe: nothing is
provable of such a command). -/
inductive Refusal where
  | notModelled (mnemonic : String)
  deriving DecidableEq, Repr

/-! ## The state after reset

The module as it stands when its supplies have come up and before MOD_RESET_N is released for the first time (R426,
stage 2): every register at its value "After power-on", nothing booted, TIME at 0. The flash is that of one
manufactured module (notes/assumptions/1.md). -/

def Member.uncommitted : Member := ⟨0xFFF, 0xFF, 0⟩

def PartRec.empty : PartRec := ⟨false, false, false, false, 0, 1, 0, 0, 12, 0, 1⟩

/-- Partition 0 of the manufactured configuration block (DESIGN CHOICE, notes/assumptions/1.md). -/
def PartRec.first : PartRec := ⟨true, true, true, true, 0, 16, 0x1000, 0x2000, 12, 255, 73728⟩

def ConfigBlock.manufactured : ConfigBlock :=
  ⟨1, 0, 0, 0, PartRec.first :: List.replicate 7 PartRec.empty, [], [], true, 0, ⟨true, true⟩, 0⟩

/-- The 64-byte header of an image (R388), its fields those of its manifest. -/
def imageHeader (version tableFormat migrateFrom planVersion : Nat) : Bytes :=
  leBytes 4 0x474D4952 ++ leBytes 4 version ++ leBytes 2 tableFormat ++ leBytes 2 migrateFrom
    ++ leBytes 2 planVersion ++ zeros 50

def Image.manufactured (firstStage : Bool) : Image :=
  ⟨⟨true, firstStage, 0x01000000, 0, 64, 0, 1, 1, 1, [], 0, 0, ⟨true, true⟩⟩, imageHeader 0x01000000 1 1 1⟩

def Flash.manufactured : Flash where
  serial := 1
  grade := 20
  certRsa := []
  certSlh := []
  rootOk := true
  firstA := Image.manufactured true
  firstB := Image.manufactured true
  owner := ⟨0, 0, ⟨true, true⟩⟩
  config := ConfigBlock.manufactured
  slotB := false
  failedBoots := 0
  imageA := some (Image.manufactured false)
  imageB := none
  trips := 0

def Box.reset : Box := ⟨false, 0, none, false⟩

/-- A partition after power-on: mailboxes owned by the host (R292, R415), no event, EVSEQ 0 (R367). -/
def Part.reset : Part where
  ctrl := []
  boxes := Vector.replicate 8 Box.reset
  events := []
  evSeq := 0
  evLost := 0
  evLostSince := 0
  evEmptied := true
  snapSel := none
  snap := none

def Region.reset : Region where
  base := 0
  sizeM1 := 0
  kind := 0
  producer := .none
  credit := false
  held := none
  head := 0
  tail := 0
  arrived := 0
  expect := 0
  credits := 0
  reserved := 0
  waited := none
  lines := []

def LaneGrp.reset : LaneGrp := ⟨List.replicate 32 0, 0, none, []⟩

def Updraft.reset : Updraft := ⟨[], 0, none, 0, false, false, none, []⟩

/-- A cell after power-on: its units clear, OFF until a boot powers it (R111, R112). -/
def Cell.reset : Cell where
  base := .off
  job := none
  stage := none
  pass := none
  step := 0
  boundary := 0
  trapped := false
  heldOut := false
  waitOpen := none
  waitRegion := none
  waitSince := 0
  stateTime := 0
  credit := false
  planeSteps := 0
  planesSkipped := 0
  waitTicks := 0
  stallTicks := 0
  stallSince := none
  passK := []
  groups := []
  opened := []
  passed := []
  clamps := []
  zs := []
  tiles := []
  lanes := Vector.replicate 8 LaneGrp.reset
  regions := Vector.replicate 16 Region.reset
  upd := Vector.replicate 2 Updraft.reset
  traps := []
  outs := []
  maxima := []
  logSums := []
  vec := []
  lnsSats := 0

/-- A generator block after power-on (R279). -/
def Gen.reset : Gen := ⟨0, 0, 3, 1, 0, 0, 1, 0, 0, 0, 0, 0, 0, false, none⟩

def Hbm.reset : Hbm where
  mem := []
  side := []
  mixed := []
  wStripes := 0
  ranges := []
  scrub := []
  scrubAt := []
  gens := []
  failed := []
  spares := []
  degraded := false
  trained := false
  selfRefresh := false

def HostCounters.reset : HostCounters := ⟨0, 0, 0, 0, 0, 0, 0, 0, 0, 0, 0, 0, 0, 0, 0⟩

def FabCounters.reset : FabCounters := ⟨0, 0, 0, 0, 0, 0, 0, 0, 0, 0, 0, 0, 0, 0⟩

def Net.reset : Net where
  host := Vector.replicate 4 ⟨false, false, HostCounters.reset, none, []⟩
  fab := Vector.replicate 6 ⟨false, 0, false, false, 0⟩
  fabCounters := FabCounters.reset
  qps := []
  tx := []
  rx := []
  peerPorts := []
  viols := []
  quarantined := []

/-- Module-scope configuration fields at their defaults (R96, R275, R288, R305). -/
def ModCfg.reset : ModCfg where
  stallLimit := 1048576
  scrubInterval := 2800000
  gids := []
  hostVlan := 0
  pfcPrio := 3
  rdmaDscp := 26
  cnpDscp := 48
  cnpInterval := 7813
  qpRestart := 1562500
  fabVlan := 0
  fabPcp := 5
  fabRto := 3125
  fabGap := 1250
  fabRetries := 8
  fabViolLimit := 16
  fabViolWindow := 156250000

def Timebase.reset : Timebase where
  time := 0
  running := false
  seed := 0
  state := .unseeded
  refPresent := false
  markerPresent := false
  seedStatus := 0
  markers := 0
  slips := 0
  missing := 0
  lastSlip := 0
  hold := 0
  latched := 0
  lastMarker := none

/-- The coordinate block after power-on: RACK 0xFFF, SLOT 0xFF, SITE 0 (R283, R347). -/
def Coord.reset : Coord := ⟨0x00FF0FFF, 0x00FF0FFF, 0, false⟩

/-- The power request block after power-on (R402); the voltage starts at 0.70 V. -/
def Power.reset : Power where
  state := .active
  reqLow := 0
  go := false
  pending := none
  entering := false
  waking := false
  wakeOnFlip := false
  wakeAsked := false
  result := 0
  capUnmet := false
  coreMv := 700
  activeMv := 700
  doneTime := 0
  samples := []
  thermLimit := false
  cap := 0

def Sensors.reset : Sensors := ⟨0, 0, 0, 0, 0, 0⟩

def Tap.reset : Tap := ⟨.reset, false, [], []⟩

/-- The board with VIN applied and PGOOD released, MOD_RESET_N still low (R426, event 3). -/
def Board.reset : Board where
  aux := true
  vin := true
  pgood := true
  resetLow := true
  tripped := false
  thermTripLow := false
  lastTrip := 0
  bootStage := 1
  bootCause := 0
  recovLevel := true
  sa := 0
  sensors := Sensors.reset
  statusOffset := 0
  i3cStatus := none
  i3cMctp := none
  eid := 0
  tap := Tap.reset

/-- A boot report no boot has written: CAUSE 3 (R380). -/
def BootReport.reset : BootReport where
  fwVersion := 0
  configVersion := 0
  cause := 3
  slotB := false
  fallback := false
  hbmDegraded := false
  pufFailed := false
  failedBoots := 0
  readyTime := 0
  sparesTotal := 0
  failedChannels := []
  selfTest := []
  spares := []

def Fw.reset : Fw where
  running := none
  mRom := 0
  mFirst := 0
  mImage := 0
  mConfig := 0
  mOwner := 0
  mRunning := 0
  activations := 0
  staged := false
  stagedObj := []
  forward := none
  recovery := false
  recoveryCfgValid := false
  tableFormat := 0

def ModCounters.reset : ModCounters :=
  ⟨0, 0, 0, 0, 0, 0, 0, 0, 0, 0, 0, 0, 0, 0, 0, 0, 0, 0, 0, 0, 0⟩

/-- The machine right after reset: powered, held in reset, nothing booted, no command waiting. -/
def State.reset : State where
  flash := Flash.manufactured
  plan := []
  planLocked := false
  board := Board.reset
  tb := Timebase.reset
  coord := Coord.reset
  power := Power.reset
  fw := Fw.reset
  report := BootReport.reset
  cfg := ModCfg.reset
  parts := Vector.replicate 8 Part.reset
  graphs := []
  nextGref := 1
  blocks := []
  jobs := []
  active := none
  cmds := []
  shipsOut := []
  shipsIn := []
  cells := Vector.replicate 128 Cell.reset
  fenced := []
  fencedDma := []
  haltedDma := []
  contexts := Vector.replicate 2 []
  waitingReds := Vector.replicate 2 []
  moduleSums := []
  hbm := Hbm.reset
  net := Net.reset
  counters := ModCounters.reset
  draws := 0
  out := []
  pending := []

end Sys2Proof.Machine
end

