-- ==== Sys2Proof/Machine/Frames.lean ====
section
/-! DEFINITION. The sending side of the fabric transport: frames, the rotation over ports, and the payloads that records
travel as (R302-R309, R313-R316). -/
namespace Sys2Proof.Machine

/-! ## Names of modules and their ports (R283, R285) -/

/-- The module's place, from the live coordinates (R283). -/
def Coord.member (c : Coord) : Member := ⟨fld c.live.toNat 0 12, fld c.live.toNat 16 8, fld c.live.toNat 32 16⟩

/-- The MAC address of a port: its first byte, and P (R285). -/
def Member.mac (m : Member) (first p : Nat) : BitVec 48 :=
  BitVec.ofNat 48 (first * 2 ^ 40 + m.rack / 16 % 256 * 2 ^ 32 + (m.rack % 16 * 16 + p % 16) * 2 ^ 24 + m.slot % 256 * 2 ^ 16
    + m.site % 65536)

/-- The MAC address of fabric port `p` of a module (R285). -/
def Member.fabMac (m : Member) (p : FabPort) : BitVec 48 := m.mac 0x06 p.val

/-- A module as the number by which JOB 0 streams name it: RACK, SLOT and SITE side by side. -/
def Member.code (m : Member) : Nat := m.rack * 2 ^ 24 + m.slot * 2 ^ 16 + m.site

/-- The module that a number names. -/
def Member.ofCode (n : Nat) : Member := ⟨n / 2 ^ 24, n / 2 ^ 16 % 256, n % 65536⟩

/-! ## Ports (R286, R309) -/

/-- The order in which a stream's frames take the ports: X0, Y0, Z0, X1, Y1, Z1 (R309). -/
def rotation : List FabPort := [0, 2, 4, 1, 3, 5]

/-- SWITCH(p) of the live coordinates (R283). -/
def Coord.switch (c : Coord) (p : Nat) : Nat := fld c.live.toNat (8 * (8 + 4 * p)) 16

/-- PORT(p) of the live coordinates (R283). -/
def Coord.portNo (c : Coord) (p : Nat) : Nat := fld c.live.toNat (8 * (8 + 4 * p) + 16) 8

/-- Does a fabric port carry transport frames: up, and neither miswired nor unused (R286)? -/
def State.carries (s : State) (p : FabPort) : Bool :=
  let q := s.net.fab[p.val]
  q.up && !q.miswired && s.coord.switch p.val != 0

/-- PORTS_UP (R303). -/
def State.portsUp (s : State) : BitVec 6 := BitVec.ofNat 6 (sumN (rotation.map (fun p => if s.carries p then 2 ^ p.val else 0)))

/-- The next port of the rotation, after the one at an index, that is up on both sides, with its index (R309). -/
def nextPort (own peer : BitVec 6) (last : Nat) : Option (FabPort × Nat) :=
  ((List.range 6).map (fun i => (last + 1 + i) % 6)).findSome? (fun i => match rotation[i]? with
    | some p => if own.getLsbD p.val && peer.getLsbD p.val then some (p, i) else none
    | none => none)

/-! ## Frames (R302, R303) -/

/-- The transport header (R303): big-endian, with FLAGS the bits of offset 0x16. -/
def fabHeader (k : StreamKey) (src dst typ reason seq offset length flags ack crc : Nat) : Bytes :=
  beBytes 4 k.job ++ beBytes 1 src ++ beBytes 1 dst ++ beBytes 1 typ ++ beBytes 1 reason ++ beBytes 2 k.cls ++ beBytes 2 0
    ++ beBytes 4 seq ++ beBytes 4 offset ++ beBytes 2 length ++ beBytes 2 flags ++ beBytes 4 ack ++ beBytes 4 crc

/-- The next SEQ expected on the reverse stream, where this module has one (R303). -/
def Net.ackOf (n : Net) (k : StreamKey) : Option Nat := (n.rx.find? (fun x => x.key == k)).map (fun x => x.expected.toNat)

/-- Where the frames of a stream go and how they are tagged (R302, R303, R309): PORTS_UP of both ends, the two modules,
FAB_VLAN and FAB_PCP. -/
structure Wire where
  up : BitVec 6
  peerUp : BitVec 6
  self : Member
  peer : Member
  vlan : Nat
  pcp : Nat
  deriving DecidableEq, Repr

/-- An 802.1Q tag, for a VLAN identifier that is not 0 (R288, R302). -/
def vlanTag (vlan pcp : Nat) : Bytes := if vlan = 0 then [] else beBytes 2 0x8100 ++ beBytes 2 (pcp % 8 * 8192 + vlan % 4096)

/-- The Ethernet II frame of some MAC client data, from one port to the peer's port of the same plane and index (R302). -/
def Wire.frame (w : Wire) (p : FabPort) (data : Bytes) : Bytes :=
  beBytes 6 (w.peer.fabMac p).toNat ++ beBytes 6 (w.self.fabMac p).toNat ++ vlanTag w.vlan w.pcp ++ beBytes 2 0x88B5 ++ data

/-- The MAC client data of a DATA frame as it is sent now (R302, R303). -/
def Net.dataBytes (n : Net) (own : BitVec 6) (k : StreamKey) (f : TxFrame) : Bytes :=
  let ack := n.ackOf k
  fabHeader k f.ranks.1 f.ranks.2 0 0 f.seq.toNat f.offset f.payload.length
    (b2n f.first + 2 * b2n f.last + 4 * b2n ack.isSome + 8 * b2n f.sync + 256 * own.toNat) (ack.getD 0)
    (if f.payload = [] then 0 else crc32 f.payload) ++ f.payload

/-- A DATA frame as it goes out on a port. -/
def Net.dataOut (n : Net) (w : Wire) (p : FabPort) (k : StreamKey) (f : TxFrame) : Out :=
  .fabData p k f.seq (w.frame p (n.dataBytes w.up k f))

/-- Send one frame of a stream on the next port of its rotation; with no port up it stays unsent (R309). -/
def Net.sendFrame (n : Net) (w : Wire) (x : TxStream) (f : TxFrame) : TxStream × TxFrame × List Out :=
  match nextPort w.up w.peerUp x.lastPort with
  | none => (x, f, [])
  | some (p, i) => ({ x with lastPort := i }, { f with sentOn := some p }, [n.dataOut w p x.key f])

/-- Send the frames of a stream that have not been sent, `room` frames from the oldest at most (R306). -/
def Net.pumpFrames (n : Net) (w : Wire) : Nat → TxStream → List TxFrame → TxStream × List TxFrame × List Out
  | 0, x, fs => (x, fs, [])
  | _ + 1, x, [] => (x, [], [])
  | room + 1, x, f :: fs =>
    let a : TxStream × TxFrame × List Out := if f.sentOn.isSome then (x, f, []) else n.sendFrame w x f
    let r := n.pumpFrames w room a.1 fs
    (r.1, a.2.1 :: r.2.1, a.2.2 ++ r.2.2)

/-- The stream once everything accepted has been acknowledged. -/
def RxStream.acked (x : RxStream) : RxStream := { x with ackDue := none, unackedCount := 0 }

/-- A DATA frame carries the acknowledgement of its reverse stream, which then owes none (R308). -/
def Net.ackCarried (n : Net) (k : StreamKey) (sent : List Out) : Net :=
  if sent = [] then n else { n with rx := updIf (fun x => x.key == k) RxStream.acked n.rx }

/-- Send what a stream may send: at most 1,024 frames stand unacknowledged (R306). -/
def Net.pump (n : Net) (w : Wire) (x : TxStream) : Net × List Out :=
  let r := n.pumpFrames w 1024 x x.unacked
  (({ n with tx := updIf (fun y => y.key == x.key) (fun _ => { r.1 with unacked := r.2.1 }) n.tx } : Net).ackCarried x.key r.2.2,
   r.2.2)

/-- The frames of one message: SEQ and OFFSET run on, FIRST and LAST at its ends (R303, R304). -/
def framesOfMsg (sync : Bool) (ranks : Nat × Nat) (seq : BitVec 32) (offset : Nat) : List Bytes → List TxFrame
  | [] => []
  | p :: ps =>
    ⟨seq, offset, offset == 0, ps.isEmpty, sync, ranks, p, 0, none⟩ :: framesOfMsg false ranks (seq + 1) (offset + p.length) ps

/-- A stream that has sent nothing (R306). -/
def TxStream.fresh (k : StreamKey) (now : Nat) : TxStream := ⟨k, 0, [], now, 5⟩

/-- Put one message of some payloads on a stream, and send what may be sent. -/
def Net.transmit (n : Net) (w : Wire) (k : StreamKey) (ranks : Nat × Nat) (now : Nat) (payloads : List Bytes) : Net × List Out :=
  let old := n.tx.find? (fun x => x.key == k)
  let x := old.getD (TxStream.fresh k now)
  let x := { x with
    progressAt := if x.unacked = [] then now else x.progressAt,
    unacked := x.unacked ++ framesOfMsg (old.isNone && k.job == 0) ranks x.nextSeq 0 payloads,
    nextSeq := x.nextSeq + BitVec.ofNat 32 payloads.length }
  ({ n with tx := n.tx.filter (fun y => y.key != k) ++ [x] } : Net).pump w x

/-- Cut an object into payloads of at most `size` bytes; `fuel` bounds them. -/
def payloadsOf (size : Nat) : Nat → Bytes → List Bytes
  | 0, _ => []
  | fuel + 1, bs => if bs = [] then [] else bs.take size :: payloadsOf size fuel (bs.drop size)

/-- Payloads of an object of any length. -/
def objPayloads (bs : Bytes) : List Bytes := payloadsOf 8192 (bs.length / 8192 + 1) bs

/-! ## Records as payloads (R313-R316) -/

/-- A CONTROL record (R313). -/
def controlBytes (kind rank reason step boundary : Nat) : Bytes :=
  leBytes 1 kind ++ leBytes 1 rank ++ leBytes 2 reason ++ leBytes 4 step ++ leBytes 8 boundary

/-- A REDUCE record (R314). -/
def reduceBytes (r : ReduceRec) : Bytes :=
  leBytes 2 r.desc ++ leBytes 2 r.token ++ leBytes 2 r.block ++ leBytes 2 (r.shift % 64 + 64 * (r.dir % 4))
    ++ r.vals.flatMap (fun v => leBytes 2 (ofSigned 16 v))

/-- A GATHER or TERM record (R315). -/
def gatherBytes (r : GatherRec) : Bytes :=
  leBytes 2 r.desc ++ leBytes 2 r.token ++ leBytes 2 r.first ++ leBytes 2 r.blocks.length ++ leBytes 3 r.scaleWord
    ++ leBytes 1 (b2n r.wisp3) ++ zeros 4 ++ r.blocks.flatten

/-- Bits as whole 32-bit words. -/
def bitWords (bs : List Bool) : Bytes :=
  leBytes (4 * ceilDiv bs.length 32) (sumN (bs.zipIdx.map (fun x => b2n x.1 * 2 ^ x.2)))

/-- Trigger bits cut at the descriptors, each padded to whole words (R316). -/
def trigBytes : List Nat → List Bool → Bytes
  | [], _ => []
  | n :: ns, bs => bitWords (bs.take n) ++ trigBytes ns (bs.drop n)

/-- The body of a STATS message over descriptors of which those with trigger bits have so many output blocks (R316). -/
def statsBytes (b : StatsBody) (blocks : List Nat) : Bytes :=
  (b.ms.zip b.trigs).flatMap (fun x => x.1.flatMap (leBytes 4) ++ trigBytes blocks x.2)
    ++ (b.clamps.zip b.lnsSats).flatMap (fun x => leBytes 4 x.1 ++ leBytes 4 x.2)
    ++ (b.active.zip b.missed).flatMap (fun x => leBytes 4 x.1 ++ leBytes 4 x.2)

/-- The 1,024-element output blocks of the descriptors that have trigger bits (R74, R316). -/
def Graph.trigBlocks (g : Graph) : List Nat :=
  (g.descs.filter (fun d => decide (2 ≤ d.outW ∧ d.outW ≤ 8))).map (fun d => ceilDiv d.outDim 1024)

/-- A message header before the first payload (R304). -/
def withMsgHeader (step : Nat) : List Bytes → List Bytes
  | [] => [leBytes 4 step ++ zeros 4]
  | p :: ps => (leBytes 4 step ++ zeros 4 ++ p) :: ps

/-- The stream class of an output record (R304). -/
def Out.cls : Out → Option Nat
  | .control .. => some 0
  | .gather .. => some 1
  | .reduce .. => some 2
  | .term .. => some 3
  | .stats .. => some 4
  | _ => none

/-- The job and rank that an output of the fabric goes to. -/
def Out.peer : Out → Option (Nat × Nat)
  | .control j r .. => some (j, r)
  | .stats j r .. => some (j, r)
  | .reduce j r _ => some (j, r)
  | .gather j r _ => some (j, r)
  | .term j r _ => some (j, r)
  | _ => none

/-- The step number and the payload of an output record, over the descriptors of a graph. -/
def Out.payload (g : Option Graph) : Out → Nat × List Bytes
  | .control _ _ kind rank reason step boundary => (step, [controlBytes kind rank reason step boundary])
  | .stats _ _ step _ b =>
    let bs := statsBytes b (match g with | some g => g.trigBlocks | none => [])
    (step, payloadsOf 8184 (bs.length / 8184 + 1) bs)
  | .reduce _ _ r => (r.step, [reduceBytes r])
  | .gather _ _ r => (r.step, [gatherBytes r])
  | .term _ _ r => (r.step, [gatherBytes r])
  | _ => (0, [])

/-- The messages that output records to one stream make: each CONTROL record is one; any other class has one for them all,
a record a frame (R304, R313, notes/assumptions/29.md). -/
def messagesOf (g : Option Graph) (cls : Nat) (os : List Out) : List (List Bytes) :=
  let ps := os.map (Out.payload g)
  if cls = 0 then ps.map (·.2) else [withMsgHeader ((ps.map (·.1)).headD 0) (ps.flatMap (·.2))]

end Sys2Proof.Machine
end

