-- ==== Sys2Proof/Machine/Ops.lean ====
section
/-! DEFINITION. The operations every family shares: the timebase, sparse memory, partition windows, mailboxes and their
replies, events, notices, and the kill of a step. -/
namespace Sys2Proof.Machine

/-! ## The timebase -/

/-- TIME (R317). -/
def State.now (s : State) : Nat := s.tb.time

/-- The timebase at instant `t` (notes/assumptions/2.md): TIME never decreases (R320), and it stands while
MOD_RESET_N is low (R426). -/
def Timebase.advance (b : Timebase) (t : Nat) : Timebase :=
  if b.running = true ∧ b.time < t ∧ t < 2 ^ 64 then { b with time := t, hold := 0 } else b

/-- The state at instant `t`. -/
def advance (t : Nat) (s : State) : State := { s with tb := s.tb.advance t }

/-- One cycle of the reference clock: TIME rises by one, unless the count holds (R317, R320). -/
def Timebase.tick (b : Timebase) : Timebase :=
  if b.running = true then
    (if b.hold = 0 then { b with time := (b.time + 1) % 2 ^ 64 } else { b with hold := b.hold - 1 })
  else b

/-- One tick of the block with no command waiting. -/
def tick (s : State) : State := { s with tb := s.tb.tick }

/-- Is the module up: a boot has reached READY (R378)? -/
def State.ready (s : State) : Bool := s.board.bootStage == 4

/-- Does the control core serve mailbox commands: READY, and not in Calm (R407)? -/
def State.serves (s : State) : Bool := s.ready && s.power.state != .calm && s.power.state != .off

/-! ## Sparse memory -/

/-- The canonical form of sparse memory: addresses strictly rising, no byte 0 listed. -/
def Mem.wf : Mem → Bool
  | [] => true
  | [c] => c.2 != 0
  | a :: b :: m => a.2 != 0 && decide (a.1 < b.1) && Mem.wf (b :: m)

/-- The cells that a string of bytes at an address lists. -/
def Mem.cells (a : Nat) : Bytes → Mem
  | [] => []
  | b :: bs => if b = 0 then Mem.cells (a + 1) bs else (a, b) :: Mem.cells (a + 1) bs

/-- Write a string of bytes at an address. -/
def Mem.write (m : Mem) (a : Nat) (bs : Bytes) : Mem :=
  let e := a + bs.length
  m.filter (fun c => decide (c.1 < a)) ++ Mem.cells a bs ++ m.filter (fun c => decide (e ≤ c.1))

/-- The byte at an address; an unlisted address reads 0. -/
def Mem.get (m : Mem) (a : Nat) : Byte :=
  match m.find? (fun c => c.1 == a) with
  | some c => c.2
  | none => 0

/-- `n` bytes from address `a`, of memory whose listed cells all stand at `a` or above. -/
def Mem.expand : Nat → Nat → Mem → Bytes
  | 0, _, _ => []
  | n + 1, a, [] => 0 :: Mem.expand n (a + 1) []
  | n + 1, a, c :: m => if c.1 = a then c.2 :: Mem.expand n (a + 1) m else 0 :: Mem.expand n (a + 1) (c :: m)

/-- `n` bytes from address `a`. -/
def Mem.read (m : Mem) (a n : Nat) : Bytes := Mem.expand n a (m.dropWhile (fun c => decide (c.1 < a)))

/-! ## Partitions and their windows -/

/-- Every partition index. -/
def allParts : List PartId := [0, 1, 2, 3, 4, 5, 6, 7]

/-- The plan's record of a partition (R334). -/
def State.planRec (s : State) (p : PartId) : PartRec := s.plan.getD p.val PartRec.empty

/-- Is the partition enabled (R334)? -/
def State.enabled (s : State) (p : PartId) : Bool := (s.planRec p).enabled

/-- Change one partition. -/
def State.updPart (s : State) (p : PartId) (f : Part → Part) : State :=
  { s with parts := s.parts.set p.val (f s.parts[p.val]) p.isLt }

/-- SLOT_SIZE (R334). -/
def PartRec.slotSize (r : PartRec) : Nat := 2 ^ r.slotLog2

/-- The number of slots (R334). -/
def PartRec.slots (r : PartRec) : Nat := r.slotsM1 + 1

/-- FLAG_BYTES: one byte per slot, padded to whole 4 KiB (R294). -/
def PartRec.flagBytes (r : PartRec) : Nat := ceilDiv r.slots 4096 * 4096

/-- The length of the bulk window (R294). -/
def PartRec.window (r : PartRec) : Nat := r.flagBytes + r.slots * r.slotSize

/-- 64 KiB units of a bulk window that each stack counts (R334). -/
def PartRec.bulkUnits (r : PartRec) : Nat := if r.enabled then ceilDiv (ceilDiv r.window 65536) 12 else 0

/-- The 64 KiB units of a stack (R252). -/
def stackUnits : Nat := 589824

/-- The bytes of a stack (R250). -/
def stackBytes : Nat := 0x900000000

/-- The first unit, on every stack, of a partition's bulk window: windows are given units from the top of the stack down
(DESIGN CHOICE, notes/assumptions/5.md). -/
def State.bulkBase (s : State) (p : PartId) : Nat :=
  stackUnits - sumN ((s.plan.take (p.val + 1)).map PartRec.bulkUnits)

/-- The first unit above the S and A ranges of jobs: the lowest bulk window's. -/
def State.bulkFloor (s : State) : Nat := stackUnits - sumN (s.plan.map PartRec.bulkUnits)

/-- The HBM address of byte `v` of a bulk window, unit u of it on stack u mod 12 (notes/assumptions/5.md). -/
def State.bulkAddr (s : State) (p : PartId) (v : Nat) : Nat :=
  let u := v / 65536
  u % 12 * stackBytes + (s.bulkBase p + u / 12) * 65536 + v % 65536

/-- Cut a range of a window at the 64 KiB units: (offset, length) pieces, with `fuel` pieces at most. -/
def pieces : Nat → Nat → Nat → List (Nat × Nat)
  | 0, _, _ => []
  | fuel + 1, v, n =>
    if n = 0 then []
    else
      let k := Nat.min n (65536 - v % 65536)
      (v, k) :: pieces fuel (v + k) (n - k)

/-- The pieces of a range, enough of them. -/
def piecesOf (v n : Nat) : List (Nat × Nat) := pieces (n / 65536 + 2) v n

/-- Bytes of a partition's bulk window. -/
def State.bulkRead (s : State) (p : PartId) (v n : Nat) : Bytes :=
  (piecesOf v n).flatMap (fun x => Mem.read s.hbm.mem (s.bulkAddr p x.1) x.2)

/-- The poison bits of an S burst: side bits [31:24] (R258). -/
def sPoison (d : BitVec 32) : Bool := decide (3 < ((List.range 8).filter (fun i => d.getLsbD (24 + i))).length)

/-- Does the S burst of number `b` read as uncorrectable (R258)? -/
def Hbm.sBad (h : Hbm) (b : Nat) : Bool := sPoison (lookupD 0 b h.side)

/-- Does a range of HBM touch a bad S burst? -/
def Hbm.sBadRange (h : Hbm) (a n : Nat) : Bool :=
  h.side.any (fun e => decide (a / 32 ≤ e.1 ∧ e.1 * 32 < a + n) && sPoison e.2)

/-- Write bytes into class S memory: every burst written comes out with fresh side bits; a part of a bad burst is not stored,
and the burst stays bad (R258, R261, R262). -/
def Hbm.sWrite (h : Hbm) (a : Nat) (bs : Bytes) : Hbm :=
  let e := a + bs.length
  let skipHead := if a % 32 ≠ 0 ∧ h.sBad (a / 32) = true then Nat.min bs.length (32 - a % 32) else 0
  let skipTail := if e % 32 ≠ 0 ∧ h.sBad (e / 32) = true then Nat.min (bs.length - skipHead) (e % 32) else 0
  let mid := (bs.drop skipHead).take (bs.length - skipHead - skipTail)
  let lo := a + skipHead
  { h with mem := Mem.write h.mem lo mid,
           side := h.side.filter (fun x => !decide (lo < x.1 * 32 + 32 ∧ x.1 * 32 < lo + mid.length)),
           mixed := h.mixed.filter (fun y => !decide (lo ≤ y.1 ∧ y.1 < lo + mid.length)) }

/-- Write bytes of a bulk window through its pieces. -/
def bulkPut (addr : Nat → Nat) : List (Nat × Nat) → Bytes → Hbm → Hbm
  | [], _, h => h
  | x :: xs, bs, h => bulkPut addr xs (bs.drop x.2) (h.sWrite (addr x.1) (bs.take x.2))

/-- Write bytes into a partition's bulk window. -/
def State.bulkWrite (s : State) (p : PartId) (v : Nat) (bs : Bytes) : State :=
  { s with hbm := bulkPut (s.bulkAddr p) (piecesOf v bs.length) bs s.hbm }

/-- The offset of slot `k` in the bulk window (R294). -/
def PartRec.slotAt (r : PartRec) (k : Nat) : Nat := r.flagBytes + k * r.slotSize

/-- Is slot `k` owned by the module: its flag is 0x01 (R294)? -/
def State.slotOwned (s : State) (p : PartId) (k : Nat) : Bool :=
  decide (k < (s.planRec p).slots) && s.bulkRead p k 1 == [1]

/-- `n` bytes of consecutive slots from slot `k`. -/
def State.slotRead (s : State) (p : PartId) (k n : Nat) : Bytes := s.bulkRead p ((s.planRec p).slotAt k) n

/-- The address of the first uncorrectable S burst that an area of slots touches (R357). -/
def State.slotBad (s : State) (p : PartId) (k n : Nat) : Option Nat :=
  (piecesOf ((s.planRec p).slotAt k) n).findSome? (fun x =>
    let a := s.bulkAddr p x.1
    (s.hbm.side.find? (fun e => decide (a / 32 ≤ e.1 ∧ e.1 * 32 < a + x.2) && sPoison e.2)).map (fun e => 32 * e.1))

/-- An area of bulk slots that a command names: its first slot and its length in bytes (R341). -/
structure Area where
  slot : Nat
  bytes : Nat
  deriving DecidableEq, Repr

/-- The slots of an area. -/
def Area.slots (r : PartRec) (a : Area) : List Nat := List.range' a.slot (ceilDiv a.bytes r.slotSize)

/-- Does an area lie inside the bulk window? -/
def Area.inside (r : PartRec) (a : Area) : Bool := decide (a.slot + ceilDiv a.bytes r.slotSize ≤ r.slots)

/-- The status R341 gives a command's areas: 0x8008 for one that runs past the window, 0x8009 for a slot the module does
not own; none when they stand. -/
def State.areaStatus (s : State) (p : PartId) (as : List Area) : Option Nat :=
  let r := s.planRec p
  if as.all (Area.inside r) = false then some 0x8008
  else if as.all (fun a => (a.slots r).all (s.slotOwned p)) = false then some 0x8009
  else none

/-! ## Outputs -/

/-- Put something on the module's wires. -/
def State.emit (s : State) (o : Out) : State := { s with out := s.out ++ [o] }

/-- The MAC address of a host port (R285). -/
def State.hostMac (s : State) (p : HostPort) : BitVec 48 := s.coord.member.mac 0x02 p.val

/-- The modified EUI-64 identifier of a MAC address, under fe80::/64 (R287). -/
def linkLocal (mac : BitVec 48) : Nat :=
  let m := mac.toNat
  0xFE80 * 2 ^ 112 + (m / 2 ^ 40 ^^^ 2) * 2 ^ 56 + m / 2 ^ 24 % 2 ^ 16 * 2 ^ 40 + 0xFFFE * 2 ^ 24 + m % 2 ^ 24

/-- A GID as a number: entry 4 · port + i of the tables, 0 when empty (R287). -/
def ModCfg.gid (c : ModCfg) (k : Nat) : Nat := lookupD 0 k c.gids

/-- Entry `i` of a port's GID table (R287). -/
def State.gidAt (s : State) (p : HostPort) (i : Nat) : Nat :=
  if i = 0 then linkLocal (s.hostMac p) else s.cfg.gid (4 * p.val + i)

/-- The headers of a RoCE frame that a queue pair sends (R288-R290, R298): tagged with HOST_VLAN and PFC_PRIO where HOST_VLAN
is not 0, marked ECT(0), with CNP_DSCP or RDMA_DSCP. -/
def State.roceHdr (s : State) (q : Qp) (cnp : Bool) : RoceHdr where
  tag := if s.cfg.hostVlan = 0 then none else some (s.cfg.hostVlan, s.cfg.pfcPrio)
  dstMac := q.remoteMac
  srcMac := s.hostMac q.port
  srcGid := s.gidAt q.port q.sgid
  dstGid := q.remoteGid
  dscp := if cnp then s.cfg.cnpDscp else s.cfg.rdmaDscp
  ecn := 2
  udpPort := 4791
  destQp := q.remoteQpn

/-- Send a frame of priority PFC_PRIO from a host port: it waits while PFC pauses the port (R299). -/
def State.emitHost (s : State) (h : HostPort) (o : Out) : State :=
  let q := s.net.host[h.val]
  if q.pausedUntil.isSome then
    { s with net := { s.net with host := s.net.host.set h.val { q with paused := q.paused ++ [o] } h.isLt } }
  else s.emit o

/-- Send a RoCE packet of a queue pair, as the headers that now hold make its frame (R289, R299). -/
def State.emitRoce (s : State) (q : Qp) (x : RoceOut) : State :=
  s.emitHost q.port (.roce q.index (s.roceHdr q (x == .cnp)) x)

/-! ## Notices (R296, R297) -/

/-- The queue pair of an index. -/
def State.qp (s : State) (k : Nat) : Option Qp := s.net.qps.find? (fun q => q.index == k)

/-- Change the queue pair of an index. -/
def State.updQp (s : State) (k : Nat) (f : Qp → Qp) : State :=
  { s with net := { s.net with qps := updIf (fun q => q.index == k) f s.net.qps } }

/-- A notice word (R296). -/
def noticeWord (kind box slot : Nat) : BitVec 32 := BitVec.ofNat 32 (kind + 4 * box + 65536 * slot)

/-- Does a host port carry RoCE: its link is up, the module runs, and coordinates have been committed (R284, R290)? -/
def State.hostCarries (s : State) (h : HostPort) : Bool := s.ready && s.net.host[h.val].up && s.coord.committed

/-- A notice as a queue pair sends it: a SEND, or a zero-length RDMA WRITE with immediate under its notice key and address
(R290, R297). -/
def Qp.noticeOut (q : Qp) (psn : BitVec 24) (w : BitVec 32) : RoceOut :=
  .notice psn w (if q.notice = 2 then some (q.noticeRkey, q.noticeVa) else none)

/-- Send a notice on a queue pair, if it carries notices, is not in error and its port is up (R290, R297). -/
def State.notice (s : State) (k : Nat) (w : BitVec 32) : State :=
  match s.qp k with
  | none => s
  | some q =>
    if q.notice = 0 ∨ q.inError.isSome = true ∨ s.hostCarries q.port = false then s
    else (s.emitRoce q (q.noticeOut q.sendPsn w)).updQp k
      (fun q => { q with sendPsn := q.sendPsn + 1, notices := q.notices ++ [⟨q.sendPsn, w, q.retryCnt, s.now⟩] })

/-- The lowest-index queue pair of a partition that carries notices (R297). -/
def State.noticeQp (s : State) (p : PartId) : Option Nat :=
  (s.net.qps.filter (fun q => q.part == p && q.notice != 0)).foldl
    (fun b q => match b with | none => some q.index | some i => some (Nat.min i q.index)) none

/-- A notice to a partition's first notice queue pair. -/
def State.noticePart (s : State) (p : PartId) (w : BitVec 32) : State :=
  match s.noticeQp p with
  | none => s
  | some k => s.notice k w

/-! ## Events (R367-R369) -/

/-- An event record that names nothing but its code and its time. -/
def event (code time : Nat) : Event :=
  ⟨0, code, false, 0, 0, 0xFFFFFFFF, time, 0xFF, 0xFFFF, 0, 0, 0, 0⟩

/-- The most records a queue holds (R367). -/
def queueMax : Nat := 1024

/-- Enter a record into a queue with room for it, under the next EVSEQ. -/
def Part.push (q : Part) (e : Event) : Part :=
  { q with events := q.events ++ [{ e with evSeq := q.evSeq }], evSeq := q.evSeq + 1, evEmptied := false }

/-- Discard a record that finds the queue full. -/
def Part.lose (q : Part) : Part := { q with evLost := satInc q.evLost, evLostSince := q.evLostSince + 1 }

/-- Enter a record into a queue, or count it as lost; after losses one EVENTS_LOST record comes first (R367). -/
def Part.post (q : Part) (part : Nat) (e : Event) : Part :=
  if queueMax ≤ q.events.length then q.lose
  else if q.evLostSince = 0 then q.push e
  else
    let q' := ({ q with evLostSince := 0 } : Part).push { event 0x00F0 e.time with part := part, arg0 := q.evLostSince }
    if queueMax ≤ q'.events.length then q'.lose else q'.push e

/-- Post an event to one enabled partition; the first record into a queue that READ_EVENTS emptied sends a KIND 2 notice
(R367). -/
def State.postTo (s : State) (p : PartId) (e : Event) : State :=
  if s.enabled p then
    let first := s.parts[p.val].evEmptied
    let s := s.updPart p (fun q => q.post p.val e)
    if first then s.noticePart p (noticeWord 2 0 0) else s
  else s

/-- Post a partition-scope event (R367). -/
def State.postPart (s : State) (p : PartId) (e : Event) : State :=
  s.postTo p { e with isModule := false, part := p.val }

/-- Post an event to several partitions, each copy naming its receiver. -/
def State.postParts (s : State) (ps : List PartId) (e : Event) : State := ps.foldl (fun s p => s.postPart p e) s

/-- Post a module-scope event: to every enabled partition (R367). -/
def State.postModule (s : State) (e : Event) : State :=
  allParts.foldl (fun s p => s.postTo p { e with isModule := true, part := 0 }) s

/-- The module-wide pseudo-channel of an address (R251). -/
def pcOf (a : Nat) : Nat := 32 * (a / stackBytes) + a % stackBytes / 256 % 32

/-- A module-scope error of a memory word (R369). -/
def memoryError (t cls addr : Nat) : Event := { event 0x0014 t with loc := pcOf addr, arg0 := addr, arg1 := cls }

/-- The bad S bursts that a write of a range meets in part: their merge stores nothing (R262). -/
def Hbm.partBad (h : Hbm) (a n : Nat) : List Nat :=
  (if n = 0 then []
   else [a / 32, (a + n - 1) / 32].eraseDups.filter (fun b => !decide (a ≤ 32 * b ∧ 32 * b + 32 ≤ a + n))).filter h.sBad

/-- Post the error of each bad burst that a write into a bulk window meets in part (R262). -/
def State.postPartBad (s : State) (p : PartId) (v n : Nat) : State :=
  ((piecesOf v n).flatMap (fun x => s.hbm.partBad (s.bulkAddr p x.1) x.2)).foldl
    (fun s b => s.postModule (memoryError s.now 1 (32 * b))) s

/-- A write into a partition's bulk window: the errors of the bursts whose merge stores nothing are posted, and the bytes
placed (R261, R262). -/
def State.bulkStore (s : State) (p : PartId) (v : Nat) (bs : Bytes) : State :=
  (s.postPartBad p v bs.length).bulkWrite p v bs

/-- Write into consecutive slots from slot `k`. -/
def State.slotWrite (s : State) (p : PartId) (k : Nat) (bs : Bytes) : State :=
  s.bulkStore p ((s.planRec p).slotAt k) bs

/-! ## Mailboxes -/

/-- Where mailbox `m` begins in the control window (R292). -/
def boxAt (m : BoxId) : Nat := 0x4000 * m.val

/-- Bytes of a partition's control window. -/
def State.ctrlRead (s : State) (p : PartId) (a n : Nat) : Bytes := Mem.read s.parts[p.val].ctrl a n

/-- Write bytes into a partition's control window. -/
def State.ctrlWrite (s : State) (p : PartId) (a : Nat) (bs : Bytes) : State :=
  s.updPart p (fun q => { q with ctrl := Mem.write q.ctrl a bs })

/-- The header of a mailbox (R337). -/
def State.header (s : State) (p : PartId) (m : BoxId) : Bytes := s.ctrlRead p (boxAt m) 64

/-- BODY_LEN of a header (R337). -/
def hdrBodyLen (h : Bytes) : Nat := u16 h 0x14

/-- CODE of a header (R337). -/
def hdrCode (h : Bytes) : Nat := u16 h 0x08

/-- The body of a mailbox, BODY_LEN bytes of it (R337). -/
def State.boxBody (s : State) (p : PartId) (m : BoxId) : Bytes :=
  s.ctrlRead p (boxAt m + 0x40) (Nat.min 16320 (hdrBodyLen (s.header p m)))

/-- Change the hub's record of one mailbox. -/
def State.updBox (s : State) (p : PartId) (m : BoxId) (f : Box → Box) : State :=
  s.updPart p (fun q => { q with boxes := q.boxes.set m.val (f q.boxes[m.val]) m.isLt })

/-- The hub's record of one mailbox. -/
def State.box (s : State) (p : PartId) (m : BoxId) : Box := s.parts[p.val].boxes[m.val]

/-- The result of a command: STATUS, DETAIL, STEP, the reply body, and the slots it hands back (R338, R341). -/
structure Result where
  status : Nat
  detail : Nat
  step : Nat
  reply : Bytes
  deriving DecidableEq, Repr

/-- A result that succeeds outside any step. -/
def ok (reply : Bytes) : Result := ⟨0, 0, 0xFFFFFFFF, reply⟩

/-- A result that fails with a status. -/
def fail (status : Nat) : Result := ⟨status, 0, 0xFFFFFFFF, []⟩

/-- A result that fails at a field: STATUS and DETAIL. -/
def failAt (status detail : Nat) : Result := ⟨status, detail, 0xFFFFFFFF, []⟩

/-- Hand one slot back to the host: its flag becomes 0x00 and a KIND 1 notice follows (R145, R297). -/
def State.returnSlot (p : PartId) (s : State) (k : Nat) : State :=
  if s.slotOwned p k then (s.bulkStore p k [0]).noticePart p (noticeWord 1 0 k) else s

/-- Hand slots back in ascending order (R145, R341). -/
def State.returnSlots (s : State) (p : PartId) (ks : List Nat) : State :=
  (sortBy (fun a b => decide (a ≤ b)) ks).foldl (State.returnSlot p) s

/-- The reply header bytes that the module writes (R337): STATUS, TAG, REPLY_LEN, DETAIL, FLIP_TIME, DONE_TIME, STEP; reserved
bytes among them read 0. -/
def State.replyHeader (s : State) (p : PartId) (m : BoxId) (tag flip done : Nat) (r : Result) : State :=
  let b := boxAt m
  let s := s.ctrlWrite p (b + 0x0A) (leBytes 2 r.status ++ leBytes 4 tag)
  s.ctrlWrite p (b + 0x18)
    (leBytes 4 r.reply.length ++ leBytes 4 r.detail ++ leBytes 8 flip ++ leBytes 8 done ++ leBytes 4 r.step ++ zeros 12)

/-- The reply body over the command body, the rest of it 0 (R338); a failed command leaves its body. -/
def State.replyBody (s : State) (p : PartId) (m : BoxId) (r : Result) : State :=
  if r.status = 0 then
    s.ctrlWrite p (boxAt m + 0x40) (fitBytes (Nat.max r.reply.length (hdrBodyLen (s.header p m))) r.reply)
  else s

/-- Give a mailbox back to the host: the whole ownership word 0, and a KIND 0 notice to the queue pair that flipped it
(R145, R292, R297). -/
def State.returnBox (s : State) (p : PartId) (m : BoxId) : State :=
  let q := (s.box p m).flipQp
  let s := s.ctrlWrite p (boxAt m) (zeros 8)
  let s := s.updBox p m (fun b => { b with owned := false, taken := false, flipQp := none })
  match q with
  | none => s
  | some k => s.notice k (noticeWord 0 m.val 0)

/-- Answer a command: its slots, the reply, the ownership word, in the order of R145; a status 0x8007 counts (R371). -/
def State.answer (s : State) (c : Cmd) (done : Nat) (r : Result) : State :=
  let s := s.returnSlots c.p c.slots
  let s := s.replyHeader c.p c.m c.tag c.flip done r
  let s := s.replyBody c.p c.m r
  let s := s.returnBox c.p c.m
  { s with
    cmds := s.cmds.filter (fun d => !(d.p == c.p && d.m == c.m)),
    counters := if r.status = 0x8007 then { s.counters with commandsFailed := satInc s.counters.commandsFailed }
                else s.counters }

/-! ## Jobs -/

/-- The open job of a handle. -/
def State.job (s : State) (h : Nat) : Option Job := s.jobs.find? (fun j => j.handle == h)

/-- Change the job of a handle. -/
def State.updJob (s : State) (h : Nat) (f : Job → Job) : State :=
  { s with jobs := updIf (fun j => j.handle == h) f s.jobs }

/-- The graph of a model key. -/
def State.graph (s : State) (g : Nat) : Option Graph := s.graphs.find? (fun x => x.gref == g)

/-- Is the job the active one? -/
def State.isActive (s : State) (h : Nat) : Bool := s.active == some h

/-- Is any job of more than one rank waiting for the timebase: HOLDOVER or LOST (R322)? -/
def State.tbHolds (s : State) (j : Job) : Bool :=
  decide (1 < j.nRanks) && (s.tb.state == .holdover || s.tb.state == .lost)

/-- Change every cell that satisfies a test. -/
def State.updCells (s : State) (p : Cell → Bool) (f : Cell → Cell) : State :=
  { s with cells := s.cells.map (fun c => if p c then f c else c) }

/-- Change one cell. -/
def State.updCell (s : State) (n : CellId) (f : Cell → Cell) : State :=
  { s with cells := s.cells.set n.val (f s.cells[n.val]) n.isLt }

/-! ## Frames and pages (R201-R204, R213-R216) -/

/-- The generation one later, modulo 2^17 (R203). -/
def nextGen (g : Nat) : Nat := (g + 1) % 131072

/-- GEN and EPOCH of a generation (R202, R203). -/
def genParts (g : Nat) : Nat × Bool := (g % 65536, g / 65536 % 2 == 1)

/-- The 17-bit generation an entry carries (R203). -/
def Pte.gen17 (e : Pte) : Nat := e.gen % 65536 + (if e.epoch then 65536 else 0)

/-- Bytes 0x00-0x0E of an entry (R202). -/
def Pte.body (e : Pte) : Bytes :=
  leBytes 4 (e.frame % 2 ^ 26 + b2n e.valid * 2 ^ 26 + b2n e.tentative * 2 ^ 27 + b2n e.sharedPfx * 2 ^ 28
      + b2n e.pinned * 2 ^ 29 + b2n e.epoch * 2 ^ 30)
    ++ leBytes 2 e.gen ++ leBytes 2 e.desc ++ leBytes 4 e.page ++ zeros 3

/-- The entry with its CHECK formed (R202). -/
def Pte.sealed (e : Pte) : Pte := { e with check := crc8 e.body }

/-- The 16 bytes of an entry (R202). -/
def Pte.bytes (e : Pte) : Bytes := e.body ++ leBytes 1 e.check

/-- A new entry for a frame of a generation. -/
def Pte.make (frame gen17 desc page : Nat) (tentative : Bool) : Pte :=
  (⟨frame, true, tentative, false, false, (genParts gen17).2, (genParts gen17).1, desc, page, 0⟩ : Pte).sealed

/-- The stack of a frame number (R201). -/
def frameStack (f : Nat) : Nat := f / 2 ^ 22

/-- The index of a frame number (R201). -/
def frameIndex (f : Nat) : Nat := f % 2 ^ 22

/-- Is a frame number valid (R201)? -/
def frameValid (f : Nat) : Bool := decide (frameStack f < 12 ∧ frameIndex f ≠ 0x3FFFFF)

/-- KV heads of an ATTEND that a rank holds under R151: (first, count). -/
def unitsOf (u n rank : Nat) : Nat × Nat :=
  let first := ceilDiv (rank * u) n
  let next := ceilDiv ((rank + 1) * u) n
  (first, next - first)

/-- B of R198: blocks per position of `h` KV heads. -/
def kvBlocks (h headDim : Nat) : Nat := ceilDiv (2 * h * headDim) 64

/-- B of a descriptor on a rank, 0 when it holds no unit or is no ATTEND (R198, R201). -/
def Desc.kvB (d : Desc) (n rank : Nat) : Nat :=
  match d.par with
  | .attend _ nkv hd _ _ _ _ _ => if d.opcode = 6 then kvBlocks (unitsOf nkv n rank).2 hd else 0
  | _ => 0

/-- B of descriptor index `d` in a graph for a job's rank. -/
def Job.kvB (j : Job) (g : Option Graph) (d : Nat) : Nat :=
  match g with
  | none => 0
  | some g => match g.descs[d]? with
    | none => 0
    | some x => x.kvB j.nRanks j.rank

/-- Every KV state of a job with the graph (main or draft) it belongs to. -/
def Job.kvStates (j : Job) : List (Bool × KvState) :=
  j.seqs.flatMap (fun e => [(false, e.main), (true, e.draft)])
    ++ (j.direct ++ (match j.step with | some x => x.kept | none => [])).flatMap (fun e => [(false, e.main), (true, e.draft)])

/-- The (frame, B) pairs that published entries map. -/
def Job.mapped (j : Job) (g dg : Option Graph) : List (Nat × Nat) :=
  j.kvStates.flatMap (fun x => (x.2.pt.filter (·.valid)).map (fun e =>
    (e.frame, j.kvB (if x.1 then dg else g) e.desc)))

/-- Free every frame in use that no entry maps, that no step has staged and no ship pins; its generation rises
(R203, R214). -/
def Job.sweep (j : Job) (g dg : Option Graph) : Job :=
  let m := j.mapped g dg
  { j with frames := j.frames.map (fun f =>
      if f.inUse && !f.staged && f.pins == 0 && !m.contains (f.frame, f.b)
      then { f with inUse := false, gen17 := nextGen f.gen17 } else f) }

/-- SHARED_PREFIX of an entry as its sharers leave it: cleared when one sharer is left (R216). -/
def fixShared (m : List (Nat × Nat)) (b : Nat → Nat) (e : Pte) : Pte :=
  if e.valid && e.sharedPfx && (m.filter (· == (e.frame, b e.desc))).length ≤ 1
  then ({ e with sharedPfx := false } : Pte).sealed else e

/-- Clear SHARED_PREFIX where only one sharer is left (R216). -/
def Job.unshare (j : Job) (g dg : Option Graph) : Job :=
  let m := j.mapped g dg
  let fm (k : KvState) : KvState := { k with pt := k.pt.map (fixShared m (j.kvB g)) }
  let fd (k : KvState) : KvState := { k with pt := k.pt.map (fixShared m (j.kvB dg)) }
  { j with
    seqs := j.seqs.map (fun e => { e with main := fm e.main, draft := fd e.draft }),
    direct := j.direct.map (fun e => { e with main := fm e.main, draft := fd e.draft }) }

/-- Tidy a job's frames after its tables changed (R214, R216). -/
def Job.tidy (j : Job) (g dg : Option Graph) : Job := (j.unshare g dg).sweep g dg

/-- The graphs of a job. -/
def State.mainOf (s : State) (j : Job) : Option Graph := s.graph j.gref

/-- The draft graph of a paired job. -/
def State.draftOf (s : State) (j : Job) : Option Graph :=
  match j.dref with
  | none => none
  | some d => s.graph d

/-- Tidy the job of a handle. -/
def State.tidyJob (s : State) (h : Nat) : State :=
  s.updJob h (fun j => j.tidy (s.mainOf j) (s.draftOf j))

/-- Return the frames a step has staged to the pool, their generations raised (R213). -/
def Job.unstage (j : Job) : Job :=
  { j with frames := j.frames.map (fun f =>
      if f.staged then { f with staged := false, inUse := false, gen17 := nextGen f.gen17 } else f) }

/-! ## Cells under a kill (R97) -/

/-- A region with every line discarded and its counts at 0 (R97). -/
def Region.clear (r : Region) : Region :=
  { r with head := 0, tail := 0, arrived := 0, credits := 0, reserved := 0, waited := none, lines := [], held := none }

/-- An updraft engine at the start of the step's list (R97). -/
def Updraft.restart (u : Updraft) : Updraft := { u with pos := 0, ahead := false, waitSpace := false, flight := [] }

/-- The ticks of an arrival wait up to now (R92, R111). -/
def Cell.waited (now : Nat) (c : Cell) : Counter :=
  if c.waitRegion.isSome then satAdd c.waitTicks (now - c.waitSince) else c.waitTicks

/-- The ticks for which some write into the cell was held, up to now (R93, R111). -/
def Cell.stalled (now : Nat) (c : Cell) : Counter :=
  match c.stallSince with
  | some t => satAdd c.stallTicks (now - t)
  | none => c.stallTicks

/-- A cell of a killed command: groups dropped, lines discarded, list positions at the start (R97). It waits for the next
boundary (R112). -/
def Cell.kill (now : Nat) (c : Cell) : Cell :=
  { c with
    base := if c.base = .running then .waitBoundary else c.base,
    stateTime := if c.base = .running then now else c.stateTime,
    waitTicks := c.waited now,
    stallTicks := c.stalled now,
    stallSince := none,
    opened := [],
    passed := [],
    clamps := [],
    zs := [],
    groups := [],
    tiles := c.groups.foldl (fun t g => assocSet g.tile.val g.wide t) c.tiles,
    lanes := Vector.replicate 8 LaneGrp.reset,
    outs := [],
    maxima := [],
    regions := c.regions.map Region.clear,
    upd := c.upd.map Updraft.restart,
    waitOpen := none,
    waitRegion := none,
    heldOut := false,
    pass := none,
    passK := [] }

/-- A cell with its units cleared and no stage program (R413, R415). -/
def Cell.idle (t : Nat) (_ : Cell) : Cell := { Cell.reset with base := .idle, stateTime := t }

/-- Set the state a cell's sequencer is in, stamping STATE_TIME when it changes (R111). -/
def Cell.setBase (b : CellBase) (t : Nat) (c : Cell) : Cell :=
  if c.base = b then c else { c with base := b, stateTime := t }

/-! ## Killing a step (R148, R358) -/

/-- Does a kill of this cause count toward the three of R148 (R358, R369)? -/
def causeCounts (cause : Nat) : Bool := !(cause == 7 || cause == 8 || cause == 10)

/-- Everything a step has staged, discarded (R148). -/
def Step.discard (x : Step) : Step :=
  { x with reduces := [], gathers := [], terms := [], results := none, ready := false, sent := [], statsIn := [], merged := none,
           doneFrom := [], doneTimes := [], b0 := none, stagedPages := [] }

/-- A step after one kill: waiting for its re-run, the kill counted where R358 counts it. -/
def Step.killed (x : Step) (cause : Nat) (counts : Bool) : Step :=
  { x.discard with
    phase := .killed, kills := if counts then x.kills + 1 else x.kills, cause := cause, countless := !counts,
    noRerun := x.noRerun || cause == 8 }

/-- The ranks of a job other than this one. -/
def Job.others (j : Job) : List Nat := (List.range j.nRanks).filter (· != j.rank)

/-- The peer of a key: a member of the job, or, for JOB 0, the module it names. -/
def State.peerOf (s : State) (k : StreamKey) : Option Member :=
  if k.job = 0 then some (Member.ofCode k.peer)
  else match s.job k.job with
    | none => none
    | some j => j.members[k.peer]?

/-- Is a module quarantined for any job, and so for JOB 0 (R312)? -/
def State.memberLost (s : State) (m : Member) : Bool :=
  s.net.quarantined.any (fun q =>
    if q.1 = 0 then q.2 == m.code
    else match s.job q.1 with
      | none => false
      | some j => j.members[q.2]? == some m)

/-- Is the peer of a stream quarantined: for its job, or, on JOB 0, for any job (R312)? -/
def State.streamLost (s : State) (k : StreamKey) : Bool :=
  if k.job = 0 then (match s.peerOf k with | some m => s.memberLost m | none => false)
  else s.net.quarantined.contains (k.job, k.peer)

/-- The wire of a stream: a peer that has told no PORTS_UP yet may have every port up (R309). -/
def State.wire (s : State) (k : StreamKey) : Wire :=
  let peer := (s.peerOf k).getD Member.uncommitted
  ⟨s.portsUp, lookupD 0x3F peer.code s.net.peerPorts, s.coord.member, peer, s.cfg.fabVlan, s.cfg.fabPcp⟩

/-- Put one message on a stream; nothing goes to a quarantined peer, for its job and for JOB 0 (R312). -/
def State.transmit (s : State) (k : StreamKey) (ranks : Nat × Nat) (payloads : List Bytes) : State :=
  if s.streamLost k then s
  else
    let r := s.net.transmit (s.wire k) k ranks s.now payloads
    { s with net := r.1, out := s.out ++ r.2 }

/-- The graph of the step in flight of a job. -/
def State.stepGraphAt (s : State) (h : Nat) : Option Graph :=
  match s.job h with
  | none => none
  | some j => j.step.map (fun x => x.env.graph)

/-- Put the records of one stream on it. -/
def State.sendOn (s : State) (os : List Out) (k : StreamKey) : State :=
  let mine := os.filter (fun o => o.peer == some (k.job, k.peer) && o.cls == some k.cls)
  let rank := match s.job k.job with | some j => j.rank | none => 0
  (messagesOf (s.stepGraphAt k.job) k.cls mine).foldl (fun s m => s.transmit k (rank, k.peer) m) s

/-- Send records to other ranks, as records and as the frames that carry them; nothing goes to a quarantined peer (R312). -/
def State.send (s : State) (os : List Out) : State :=
  let os := os.filter (fun o => match o.peer with
    | some x => !s.net.quarantined.contains x
    | none => true)
  let keys := os.filterMap (fun o => match o.peer, o.cls with
    | some x, some c => some (⟨x.1, x.2, c⟩ : StreamKey)
    | _, _ => none)
  keys.eraseDups.foldl (fun s k => s.sendOn os k) { s with out := s.out ++ os }

/-- Send a CONTROL record to ranks (R313). -/
def State.control (s : State) (job : Nat) (ranks : List Nat) (kind rank reason step boundary : Nat) : State :=
  s.send (ranks.map (fun r => .control job r kind rank reason step boundary))

/-- The command whose step this is, as it stands in `cmds`. -/
def State.cmdAt (s : State) (p : PartId) (m : BoxId) : Option Cmd := s.cmds.find? (fun c => c.p == p && c.m == m)

/-- The entries of pages that begin below position `n`. -/
def KvState.keepBelow (k : KvState) (n : Nat) : KvState := { k with pt := k.pt.filter (fun e => decide (16 * e.page < n)) }

/-- The round under way and the built round discarded (R148); draft pages beyond DRAFT_LENGTH are released (R249). -/
def Job.dropRound (j : Job) : Job :=
  { j.unstage with
    step := none,
    serving := { j.serving with built := none, drafts := [], current := [], roundStart := none },
    seqs := j.seqs.map (fun e => { e with draft := e.draft.keepBelow e.draft.len }) }

/-- End a step after its third kill (R148): direct mode answers 0x8007; sequence mode abandons the round. -/
def State.abandonStep (s : State) (j : Job) (x : Step) (cause : Nat) : State :=
  let e := { event 0x0006 s.now with job := j.handle, step := x.number.toNat, arg3 := cause }
  let s := (s.updJob j.handle Job.dropRound).tidyJob j.handle
  match x.kind with
  | .direct p m _ =>
    match s.cmdAt p m with
    | none => s
    | some c =>
      (s.answer c s.now (fail 0x8007)).postPart j.part
        { e with arg0 := m.val, arg1 := 0x30, arg2 := c.tag }
  | _ => s.postPart j.part { e with arg0 := 0xFF }

/-- Kill the step of a job (R148): staged results are discarded, R97 acts in each cell, every other rank is told where
`tell` is set, and the third counted kill ends the command. A step already killed is not killed again. -/
def State.killStep (s : State) (h cause : Nat) (tell : Bool) : State :=
  match s.job h with
  | none => s
  | some j =>
    match j.step with
    | none => s
    | some x =>
      if x.phase = .killed then s
      else
        let counts := causeCounts cause
        let s := { s with counters := { s.counters with kills := satInc s.counters.kills } }
        let s := s.updCells (fun c => c.job == some h) (Cell.kill s.now)
        let s := s.updJob h (fun j => { j.unstage with step := some (x.killed cause counts) })
        let s := if tell then s.control h j.others 2 j.rank cause x.number.toNat 0 else s
        if counts ∧ x.kills + 1 = 3 then s.abandonStep j x cause else s

/-- Kill the steps of several jobs. -/
def State.killSteps (s : State) (hs : List Nat) (cause : Nat) : State :=
  hs.foldl (fun s h => s.killStep h cause true) s

end Sys2Proof.Machine
end

