-- ==== Sys2Proof/Machine/Graph.lean ====
section
/-! DEFINITION. Graph images (R115-R132) and weight packets (R137, R138): how they are read and every check on them. -/
namespace Sys2Proof.Machine

/-- The field value that names nothing: 0xFFFF_FFFF. -/
def noField : Nat := 0xFFFFFFFF

/-- The lowest offset at which a list of checks breaks. -/
def firstBad (xs : List (Nat × Bool)) : Option Nat :=
  xs.foldl (fun b x => if x.2 then b else match b with | none => some x.1 | some o => some (Nat.min o x.1)) none

/-- A reserved field of `n` bytes at offset `o`: a break stands at the field's own offset (R12, R337). -/
def zeroRun (bs : Bytes) (o n : Nat) : List (Nat × Bool) := [(o, zeroAt bs o n)]

/-! ## The header (R116) -/

/-- The header fields of a graph image. -/
structure GraphHdr where
  role : Nat
  id : Nat
  bytes : Nat
  nDesc : Nat
  hidden : Nat
  vocab : Nat
  maxCtx : Nat
  descOff : Nat
  dataOff : Nat
  draftOf : Nat
  deriving DecidableEq, Repr

/-- Read a graph header (R116). -/
def graphHdr (im : Bytes) : GraphHdr :=
  ⟨u8 im 6 % 4, u32 im 8, u32 im 0x0C, u16 im 0x10, u32 im 0x14, u32 im 0x18, u32 im 0x1C, u32 im 0x20, u32 im 0x24,
   u32 im 0x2C⟩

/-- IMAGE_BYTES in the range R116 gives it. -/
def imageBytesOk (n : Nat) : Bool := decide (n % 64 = 0 ∧ 448 ≤ n ∧ n ≤ 0x1000000)

/-- The checks of R116 in image order; the CRC stands at its own field. -/
def headerChecks (im : Bytes) : List (Nat × Bool) :=
  let h := graphHdr im
  [(0x00, u32 im 0 == 0x54594752), (0x04, u16 im 4 == 3), (0x06, decide (h.role ≠ 3 ∧ u8 im 6 < 4)),
   (0x07, u8 im 7 == 0), (0x08, h.id != 0), (0x0C, imageBytesOk h.bytes && decide (h.dataOff ≤ h.bytes)),
   (0x10, decide (3 ≤ h.nDesc ∧ h.nDesc ≤ 4096)), (0x12, u16 im 0x12 == 0),
   (0x14, decide (64 ≤ h.hidden ∧ h.hidden ≤ 65536)), (0x18, decide (2 ≤ h.vocab ∧ h.vocab ≤ 262144)),
   (0x1C, decide (h.maxCtx % 16 = 0 ∧ 16 ≤ h.maxCtx ∧ h.maxCtx ≤ 1048576)),
   (0x20, decide (h.descOff % 64 = 0 ∧ 64 ≤ h.descOff)),
   (0x24, decide (h.dataOff % 64 = 0 ∧ h.descOff + 128 * h.nDesc ≤ h.dataOff)),
   (0x28, !imageBytesOk h.bytes || crc32 (patch (im.take h.bytes) 0x28 (zeros 4)) == u32 im 0x28),
   (0x2C, (h.role == 2) == (h.draftOf != 0))] ++ zeroRun im 0x30 16

/-! ## Descriptors (R123-R132) -/

/-- Does an operator code name an operator (R123)? -/
def opOk (c : Nat) : Bool := decide (1 ≤ c ∧ c ≤ 9)

/-- Is the operator one of the array operators that read their input in blocks: PROJECT, ROUTE, EXPERT_FFN (R121)? -/
def isArray (c : Nat) : Bool := c == 2 || c == 7 || c == 8

/-- Is a width one that the operator's row of R123 allows as IN_W? -/
def inWOk (op w : Nat) : Bool := if isArray op then decide (1 ≤ w ∧ w ≤ 8) else w == 0

/-- Is a width one that the operator's row of R123 allows as OUT_W? -/
def outWOk (op w : Nat) : Bool :=
  let n := decide (1 ≤ w ∧ w ≤ 8)
  match op with
  | 2 => n || w == 16 || w == 31
  | 6 => n
  | 7 => w == 16
  | 9 => w == 0
  | _ => n || w == 16

/-- Is SRC_B one that the operator's row of R123 allows? -/
def srcBOk (op b : Nat) (routed : Bool) : Bool :=
  match op with
  | 4 => decide (b ≤ 15) || b == 0xFF
  | 5 => decide (b ≤ 15)
  | 6 => decide (b ≤ 15)
  | 8 => if routed then decide (b ≤ 15) else b == 0xFF
  | _ => b == 0xFF

/-- LNS16 zero in either spelling (R31). -/
def lnsZeroWord (w : Nat) : Bool := w == 0x4000 || w == 0xC000

/-- The parameters of a descriptor (R129-R132). -/
def readParams (d : Bytes) : Params :=
  match u8 d 0 with
  | 3 => .norm (leNat (sub d 0x40 6)) (u8 d 0x46 % 64)
  | 4 => .act (u8 d 0x40 % 8)
  | 6 => .attend (u16 d 0x40) (u16 d 0x42) (u16 d 0x44) (u8 d 0x46 % 64) (u8 d 0x47 % 64) (u16 d 0x48) (u32 d 0x4C)
      (u32 d 0x50)
  | 7 => .route (u16 d 0x40) (u8 d 0x42 % 32) (u8 d 0x43 % 4) (bit (u8 d 0x43) 2) (fld (u8 d 0x43) 3 2) (u16 d 0x44)
      (u16 d 0x46) (u8 d 0x48 % 64)
  | 8 => .expert (u16 d 0x40) (bit (u8 d 0x42) 0) (bit (u8 d 0x42) 1) (fld (u8 d 0x42) 2 3) (u8 d 0x43 % 16)
      (u32 d 0x44) (u16 d 0x48) (toSigned 16 (u16 d 0x4A)) (u16 d 0x4C) (u8 d 0x4E % 64)
  | 9 => .select (u8 d 0x40 % 128) (u16 d 0x42)
  | _ => .none

/-- The checks on the parameters of a descriptor (R129-R132, R177), by offset in the descriptor. EMBED and PROJECT have no
parameters; that their bytes 0x40-0x7F are read as ADD's, reserved, is a DESIGN CHOICE (notes/assumptions/84.md). -/
def paramChecks (h : GraphHdr) (d : Bytes) : List (Nat × Bool) :=
  let inD := u32 d 8
  let outD := u32 d 0x0C
  match readParams d with
  | .attend nq nkv hd _ _ sc rb sp =>
    [(0x40, decide (1 ≤ nq ∧ nq ≤ 1024)), (0x42, decide (1 ≤ nkv ∧ nkv ≤ nq)),
     (0x44, decide (hd % 32 = 0 ∧ 32 ≤ hd ∧ hd ≤ 512)), (0x46, decide (u8 d 0x46 ≤ 47)), (0x47, decide (u8 d 0x47 ≤ 47)),
     (0x48, !lnsZeroWord sc), (0x4A, u16 d 0x4A == 0), (0x4C, rb != 1),
     (0x50, sp == 0 || decide (sp % 16 = 0 ∧ 16 ≤ sp ∧ sp ≤ h.maxCtx)),
     (0x08, inD == nq * hd), (0x0C, outD == nq * hd)] ++ zeroRun d 0x54 44
  | .route ne k fnS _ cb cf _ _ =>
    [(0x40, decide (1 ≤ ne ∧ ne ≤ 1024 ∧ ne = outD)), (0x42, decide (1 ≤ k ∧ k ≤ 16 ∧ k ≤ ne ∧ u8 d 0x42 < 32)),
     (0x43, decide (fnS ≤ 1 ∧ cb ≤ 2 ∧ u8 d 0x43 < 32)), (0x44, cf == 0 || decide (0x100 ≤ cf ∧ cf ≤ 0x1000)),
     (0x48, decide (u8 d 0x48 ≤ 47))] ++ zeroRun d 0x49 55
  | .expert ne _ pr fnA iw inner ph _ _ _ =>
    [(0x40, decide (1 ≤ ne ∧ ne ≤ 1024)), (0x42, decide (fnA ≤ 5 ∧ u8 d 0x42 < 32)),
     (0x43, decide (1 ≤ iw ∧ iw ≤ 8 ∧ u8 d 0x43 < 16) && !(pr && iw == 1)),
     (0x44, decide (inner % 256 = 0 ∧ 256 ≤ inner ∧ inner ≤ 65536)),
     (0x48, if pr then decide (ph % 256 = 0 ∧ 256 ≤ ph ∧ ph ≤ 4096) else ph == 0),
     (0x4E, decide (u8 d 0x4E < 64))] ++ zeroRun d 0x4F 49
  | .norm _ _ => (0x46, decide (u8 d 0x46 ≤ 47)) :: zeroRun d 0x47 57
  | .act f => [(0x40, decide (f ≤ 5 ∧ u8 d 0x40 < 8))] ++ zeroRun d 0x41 63
  | .select k t =>
    [(0x40, decide (k ≤ 64 ∧ u8 d 0x40 < 128)), (0x41, u8 d 0x41 == 0), (0x42, decide (k < 2) || !lnsZeroWord t)]
      ++ zeroRun d 0x44 60
  | .none => zeroRun d 0x40 64

/-- The checks on a descriptor's common fields (R124-R128), by offset in the descriptor. That NORM, ACT and ADD write as many
elements as they read is checked here, as a field of one descriptor: a DESIGN CHOICE (notes/assumptions/84.md). -/
def commonChecks (h : GraphHdr) (d : Bytes) : List (Nat × Bool) :=
  let op := u8 d 0
  let rnd := u8 d 1 % 4
  let outW := u8 d 3
  let inD := u32 d 8
  let outD := u32 d 0x0C
  let so := u32 d 0x14
  let ov := u32 d 0x18
  [(0x01, decide (rnd ≤ 1 ∧ u8 d 1 < 16) && !(decide (65536 < outD) && rnd != 0) && !(outW == 31 && bit (u8 d 1) 3)),
   (0x02, decide (u8 d 2 < 16) && inWOk op (u8 d 2)), (0x03, outWOk op outW), (0x04, decide (u8 d 4 < 64)),
   (0x05, decide (u8 d 5 ≤ 8)),
   (0x08, match op with
     | 1 => inD == h.vocab
     | 9 => decide (1 ≤ inD ∧ inD ≤ 262144)
     | _ => decide (1 ≤ inD ∧ inD ≤ 65536)),
   (0x0C, match op with
     | 1 => outD == h.hidden
     | 2 => decide (1 ≤ outD ∧ outD ≤ 262144)
     | 3 => outD == inD
     | 4 => outD == inD
     | 5 => outD == inD
     | 9 => outD == 0
     | _ => decide (1 ≤ outD ∧ outD ≤ 65536)),
   (0x10, (u32 d 0x10 == 0) == (op == 9)),
   (0x14, so == noField || (op != 4 && op != 5 && op != 9 && decide (so % 2 = 0 ∧ h.dataOff ≤ so))),
   (0x18, ov == noField || (isArray op && decide (h.dataOff ≤ ov))),
   (0x1C, if op = 1 then u8 d 0x1C == 0xFF else decide (u8 d 0x1C ≤ 15)),
   (0x1D, srcBOk op (u8 d 0x1D) (bit (u8 d 0x42) 0)),
   (0x1E, if op = 9 then u8 d 0x1E == 0xFF else decide (u8 d 0x1E ≤ 15)),
   (0x1F, u8 d 0x1F == 0)] ++ zeroRun d 0x20 32

/-- The matrices of a descriptor for one expert, (rows, columns), in matrix order (R138). -/
def matShapes (op inD outD : Nat) (par : Params) : List (Nat × Nat) :=
  match op, par with
  | 1, _ => [(outD, inD)]
  | 2, _ => [(outD, inD)]
  | 7, _ => [(outD, inD)]
  | 8, .expert _ _ pr _ _ inner ph _ _ _ =>
    [(inner, inD), (inner, inD), (outD, inner)] ++ (if pr then [(ph, inD), (inner, ph)] else [])
  | _, _ => []

/-- How many experts a descriptor's matrices repeat over: N_EXPERTS of an EXPERT_FFN, else 1 (R138). -/
def copiesOf (op : Nat) (par : Params) : Nat :=
  match op, par with
  | 8, .expert ne .. => ne
  | _, _ => 1

/-- Entries of the scale or gain array of a descriptor (R127). -/
def scaleCount (op inD outD : Nat) (par : Params) : Nat :=
  match op with
  | 3 => inD
  | 6 => outD
  | _ => copiesOf op par * sumN ((matShapes op inD outD par).map (·.1))

/-- Entries of the block override table: one for each (matrix, input block) (R128). -/
def ovrCount (op inD outD : Nat) (par : Params) : Nat :=
  sumN ((matShapes op inD outD par).map (fun m => ceilDiv m.2 1024))

/-- Where each matrix's override entries begin. -/
def ovrStarts : List (Nat × Nat) → Nat → List Nat
  | [], _ => []
  | m :: ms, o => o :: ovrStarts ms (o + ceilDiv m.2 1024)

/-- The checks on the data-section arrays of a descriptor at offset `base`: inside the section (R117), channel scales of
at most four NAF digits (R34), override entries (R128). -/
def dataChecks (im : Bytes) (h : GraphHdr) (base : Nat) (d : Bytes) : List (Nat × Bool) :=
  let op := u8 d 0
  let inD := u32 d 8
  let outD := u32 d 0x0C
  let par := readParams d
  let so := u32 d 0x14
  let ov := u32 d 0x18
  let n := scaleCount op inD outD par
  let mats := matShapes op inD outD par
  let sc : List (Nat × Bool) :=
    if so = noField then []
    else if h.bytes < so + 2 * n then [(base + 0x14, false)]
    else if op = 3 then []
    else (List.range n).map (fun k => (so + 2 * k, decide ((naf (u16 im (so + 2 * k))).length ≤ 4)))
  let oc : List (Nat × Bool) :=
    if ov = noField then []
    else if h.bytes < ov + ovrCount op inD outD par then [(base + 0x18, false)]
    else
      let starts := ovrStarts mats ov
      (List.range (ovrCount op inD outD par)).map (fun k => (ov + k, decide (u8 im (ov + k) ≤ 8)))
        ++ (if op = 8 then
              (List.range (ceilDiv inD 1024)).flatMap (fun b =>
                let w (j : Nat) : Nat := let x := u8 im (starts.getD j 0 + b); if x = 0 then u8 d 2 else x
                [(starts.getD 1 0 + b, w 1 == w 0)]
                  ++ (if mats.length = 5 then [(starts.getD 3 0 + b, w 3 == w 0)] else []))
              ++ (match mats[4]? with
                  | some m => (List.range (ceilDiv m.2 1024)).map (fun b =>
                      (starts.getD 4 0 + b, u8 im (starts.getD 4 0 + b) == 0))
                  | none => [])
            else [])
  sc ++ oc

/-- Every check that one descriptor must meet alone or against the header, by image offset (R117). The arrays are looked
at when the fields that size and place them stand. -/
def descChecks (im : Bytes) (h : GraphHdr) (i : Nat) : List (Nat × Bool) :=
  let base := h.descOff + 128 * i
  let d := sub im base 128
  if opOk (u8 d 0) then
    let fs := (commonChecks h d ++ paramChecks h d)
    let sized := fs.all (fun x => x.2 || !([8, 0x0C, 0x14, 0x18, 0x40, 0x44, 0x48].contains x.1))
    fs.map (fun x => (base + x.1, x.2)) ++ (if sized then dataChecks im h base d else [])
  else [(base, false)]

/-- Read a descriptor and its data-section arrays (R124, R127, R128). -/
def readDesc (im : Bytes) (h : GraphHdr) (i : Nat) : Desc :=
  let d := sub im (h.descOff + 128 * i) 128
  let op := u8 d 0
  let inD := u32 d 8
  let outD := u32 d 0x0C
  let par := readParams d
  let so := u32 d 0x14
  let ov := u32 d 0x18
  { opcode := op, round := u8 d 1 % 4, wisp3 := bit (u8 d 1) 2, tscale := bit (u8 d 1) 3, inW := u8 d 2 % 16,
    outW := u8 d 3 % 32, lsh := u8 d 4 % 64, window := (if u8 d 5 % 16 = 0 then 4 else u8 d 5 % 16),
    blockNo := u16 d 6, inDim := inD, outDim := outD, initMax := u32 d 0x10,
    srcA := u8 d 0x1C, srcB := u8 d 0x1D, dst := u8 d 0x1E,
    scales := if so = noField then none
              else some ((List.range (scaleCount op inD outD par)).map (fun k => u16 im (so + 2 * k))),
    ovr := if ov = noField then none
           else some ((List.range (ovrCount op inD outD par)).map (fun k => u8 im (ov + k) % 16)),
    par := par }

/-! ## Matrices of a descriptor -/

/-- The matrices of a descriptor for one expert (R138). -/
def Desc.mats (d : Desc) : List (Nat × Nat) := matShapes d.opcode d.inDim d.outDim d.par

/-- N_EXPERTS of an EXPERT_FFN, else 1. -/
def Desc.copies (d : Desc) : Nat := copiesOf d.opcode d.par

/-- Is the descriptor a routed EXPERT_FFN (R131)? -/
def Desc.routed (d : Desc) : Bool :=
  match d.opcode, d.par with
  | 8, .expert _ r .. => r
  | _, _ => false

/-- Does the descriptor carry a predictor (R131)? -/
def Desc.predicts (d : Desc) : Bool :=
  match d.opcode, d.par with
  | 8, .expert _ _ pr .. => pr
  | _, _ => false

/-- INNER of an EXPERT_FFN. -/
def Desc.inner (d : Desc) : Nat := match d.par with | .expert _ _ _ _ _ n .. => n | _ => 0

/-- INNER_W of an EXPERT_FFN. -/
def Desc.innerW (d : Desc) : Nat := match d.par with | .expert _ _ _ _ w .. => w | _ => 0

/-- Blocks of one matrix (R138). -/
def matEntries (m : Nat × Nat) : Nat := ceilDiv m.1 256 * ceilDiv m.2 1024

/-- The entries of a descriptor's block list (R138). -/
def Desc.entries (d : Desc) : Nat := d.copies * sumN (d.mats.map matEntries)

/-- Locate an entry among matrices: (matrix, output block, input block). -/
def locateIn : List (Nat × Nat) → Nat → Nat → Option (Nat × Nat × Nat)
  | [], _, _ => none
  | m :: ms, j, k =>
    if k < matEntries m then some (j, k / ceilDiv m.2 1024, k % ceilDiv m.2 1024)
    else locateIn ms (j + 1) (k - matEntries m)

/-- Entry k of a descriptor's block list: (expert, matrix, output block, input block) (R138). -/
def Desc.locate (d : Desc) (k : Nat) : Option (Nat × Nat × Nat × Nat) :=
  let per := sumN (d.mats.map matEntries)
  if per = 0 ∨ d.entries ≤ k then none
  else (locateIn d.mats 0 (k % per)).map (fun x => (k / per, x))

/-- The entry of (expert, matrix, output block, input block) (R138). -/
def Desc.entryOf (d : Desc) (e j ob ib : Nat) : Nat :=
  let per := sumN (d.mats.map matEntries)
  e * per + sumN ((d.mats.take j).map matEntries) + ob * ceilDiv ((d.mats.getD j (0, 0)).2) 1024 + ib

/-- The width at which matrix j reads input block b: the override, else the base width (R121, R128, R175). -/
def Desc.readW (d : Desc) (j b : Nat) : Nat :=
  if d.opcode = 8 ∧ j = 4 then 1
  else
    let base := if d.opcode = 8 ∧ j = 2 then d.innerW else d.inW
    match d.ovr with
    | none => base
    | some t =>
      let w := t.getD ((ovrStarts d.mats 0).getD j 0 + b) 0
      if w = 0 then base else w

/-- The channel scale or gain at index k of the descriptor's array; C = 1, or the gain 1.0, where there is none (R127). -/
def Desc.scale (d : Desc) (k : Nat) : Nat :=
  match d.scales with
  | none => if d.opcode = 3 then 0 else 1
  | some xs => xs.getD k 0

/-- The channel scales of the rows of matrix j of expert e (R127). -/
def Desc.matScale (d : Desc) (e j row : Nat) : Nat :=
  d.scale (e * sumN (d.mats.map (·.1)) + sumN ((d.mats.take j).map (·.1)) + row)

/-! ## Values and their readers (R119-R121) -/

/-- The descriptors that read the value descriptor i writes: (index, as SRC_B), until its slot is written again (R119). -/
def readersFrom (slot : Nat) : List Desc → Nat → List (Nat × Bool)
  | [], _ => []
  | d :: ds, i =>
    (if d.srcA = slot then [(i, false)] else []) ++ (if d.srcB = slot then [(i, true)] else [])
      ++ (if d.dst = slot then [] else readersFrom slot ds (i + 1))

/-- The readers of descriptor i's value. -/
def readers (ds : List Desc) (i : Nat) : List (Nat × Bool) :=
  match ds[i]? with
  | none => []
  | some d => if d.dst ≤ 15 then readersFrom d.dst (ds.drop (i + 1)) (i + 1) else []

/-- The descriptor that wrote slot `s` last before index i. -/
def writerOf (ds : List Desc) (i s : Nat) : Option Nat :=
  ((ds.take i).zipIdx.filter (fun x => x.1.dst == s && decide (s ≤ 15))).foldl (fun _ x => some x.2) none

/-- HEAD geometry of an ATTEND: N_QHEADS, N_KVHEADS, HEAD_DIM. -/
def Desc.heads (d : Desc) : Option (Nat × Nat × Nat) :=
  match d.opcode, d.par with
  | 6, .attend nq nkv hd .. => some (nq, nkv, hd)
  | _, _ => none

/-- The width at which the 1,024-element block b of descriptor i's value is written: the width its array consumers read,
else OUT_W (R121). -/
def outBlockW (ds : List Desc) (i b : Nat) : Nat :=
  match ds[i]? with
  | none => 0
  | some d =>
    match (readers ds i).find? (fun r => !r.2 && (match ds[r.1]? with | some c => isArray c.opcode | none => false)) with
    | none => d.outW
    | some r => match ds[r.1]? with
      | none => d.outW
      | some c => c.readW 0 b

/-- Checks between descriptor i and the earlier descriptors (R120, R121, R129, R130), by offset in descriptor i: the later of
the two in each break. An EXPERT_DESC that names no descriptor of the graph is taken for a break of this kind, of its ROUTE
alone (DESIGN CHOICE, notes/assumptions/84.md). -/
def readChecks (ds : List Desc) (i : Nat) (d : Desc) : List (Nat × Bool) :=
  let last := decide (i + 1 = ds.length)
  let place := [(0x00, (d.opcode == 1) == (i == 0) && (d.opcode == 9) == last)]
  let a : List (Nat × Bool) :=
    if d.srcA ≤ 15 then
      match writerOf ds i d.srcA with
      | none => [(0x1C, false)]
      | some p => match ds[p]? with
        | none => []
        | some q =>
          let earlier := (readers ds p).filter (fun r => !r.2 && decide (r.1 < i)
            && (match ds[r.1]? with | some c => isArray c.opcode | none => false))
          let clash := (List.range (ceilDiv d.inDim 1024)).all (fun b => earlier.all (fun r =>
            match ds[r.1]? with | some c => c.readW 0 b == d.readW 0 b | none => true))
          [(0x08, q.outDim == d.inDim),
           (0x1C, (d.opcode != 9 || q.outW == 16) && (q.outW != 31) && (q.opcode != 7)
             && (!(q.opcode == 2 && decide (65536 < q.outDim)) || d.opcode == 9)),
           (0x02, !isArray d.opcode || d.inW == q.outW),
           (0x18, !isArray d.opcode || clash)]
    else []
  let b : List (Nat × Bool) :=
    if d.srcB ≤ 15 then
      match writerOf ds i d.srcB with
      | none => [(0x1D, false)]
      | some p => match ds[p]? with
        | none => []
        | some q =>
          let lenOk := match d.opcode, d.par with
            | 6, .attend _ nkv hd .. => q.outDim == 2 * nkv * hd
            | 8, _ => true
            | _, _ => q.outDim == d.inDim
          let kindOk := match d.opcode with
            | 6 => q.opcode == 2 && q.outW == 31 && decide (q.outDim ≤ 65536)
            | 8 => q.opcode == 7 && (match q.par with | .route _ _ _ _ _ _ ed _ => ed == i | _ => false)
            | _ => q.outW != 31 && q.opcode != 7 && !(q.opcode == 2 && decide (65536 < q.outDim))
          [(0x1D, lenOk && kindOk)]
    else []
  let geom : List (Nat × Bool) :=
    match d.heads with
    | none => []
    | some (nq, nkv, hd) =>
      [d.srcA, d.srcB].flatMap (fun s =>
        match writerOf ds i s with
        | none => []
        | some p =>
          (readers ds p).flatMap (fun r =>
            if r.1 < i then
              match (ds[r.1]?).bind Desc.heads with
              | none => []
              | some (nq', nkv', hd') =>
                if ((ds[p]?).map (·.opcode)) = some 2 then
                  [(0x40, nq == nq'), (0x42, nkv == nkv'), (0x44, hd == hd')] else []
            else []))
  let bank : List (Nat × Bool) :=
    match d.opcode, d.par with
    | 7, .route _ _ _ _ _ _ ed _ =>
      [(0x46, decide (i < ed ∧ ed < ds.length))]
    | _, _ =>
      (ds.take i).flatMap (fun x => match x.opcode, x.par with
        | 7, .route ne' _ _ _ _ _ ed _ =>
          if ed = i then
            (match d.opcode, d.par with
             | 8, .expert ne r .. => [(0x42, r), (0x40, ne == ne')]
             | _, _ => [(0x00, false)])
          else []
        | _, _ => [])
  place ++ a ++ b ++ geom ++ bank

/-- Every check between two descriptors of an image (R117, R120, R121), by image offset. -/
def crossChecks (h : GraphHdr) (ds : List Desc) : List (Nat × Bool) :=
  ds.zipIdx.flatMap (fun x => (readChecks ds x.2 x.1).map (fun c => (h.descOff + 128 * x.2 + c.1, c.2)))

/-- What LOAD_GRAPH finds in an image: the graph's parts, or a status and DETAIL (R117). Where an image breaks conditions of
more than one kind, the header's are reported first, then those of one descriptor, then those of two (DESIGN CHOICE,
notes/assumptions/84.md). -/
def parseGraph (im : Bytes) : Except (Nat × Nat) (GraphHdr × List Desc) :=
  let h := graphHdr im
  match firstBad (headerChecks im) with
  | some o => .error (0x8101, o)
  | none =>
    match firstBad ((List.range h.nDesc).flatMap (descChecks im h)) with
    | some o => .error (0x8102, o)
    | none =>
      let ds := (List.range h.nDesc).map (readDesc im h)
      match firstBad (crossChecks h ds) with
      | some o => .error (0x8101, o)
      | none => .ok (h, ds)

/-! ## Weight packets (R137, R138) -/

/-- The real rows and columns of block (ob, ib) of an r × c matrix (R122). -/
def blockExtent (m : Nat × Nat) (ob ib : Nat) : Nat × Nat :=
  (Nat.min 256 (m.1 - 256 * ob), Nat.min 1024 (m.2 - 1024 * ib))

/-- LINES agrees with the block's own size (R137, R138). -/
def linesOk (f : WFmt) (lines : Nat) (blk : Bytes) : Bool :=
  match f with
  | .trit5 => lines == 820
  | .wide2 => lines == 1088
  | .wide4 => lines == 2112
  | .sparse => decide (9 ≤ lines ∧ lines ≤ 813) && sparseBytes (sparsePasses blk) (sparseNnz blk) == lines * 64

/-- The header checks of a packet against the descriptor it names, by packet offset; the descriptor's own field first. -/
def packetHdrChecks (pk : Bytes) (d : Option Desc) : List (Nat × Bool) :=
  let total := match d with | some x => x.entries | none => 0
  let first := u32 pk 8
  let count := u32 pk 0x0C
  [(0x04, total != 0), (0x06, u16 pk 6 == 0),
   (0x0C, decide (1 ≤ count ∧ count ≤ 65536 ∧ first + count ≤ total)),
   (0x10, decide (ceilDiv (0x40 + 8 * count) 64 ≤ u32 pk 0x10))] ++ zeroRun pk 0x14 44

/-- One entry of a packet's block table: format, LINES and LINE_OFF, with the block's bytes (R137). -/
structure PkEntry where
  fmtCode : Nat
  reserved : Nat
  lines : Nat
  lineOff : Nat
  blk : Bytes
  deriving DecidableEq, Repr

/-- Entry k of a packet. -/
def pkEntry (pk : Bytes) (k : Nat) : PkEntry :=
  let w := u64 pk (0x40 + 8 * k)
  let lines := fld w 8 24
  let off := fld w 32 32
  let code := w % 8
  ⟨code, fld w 3 5, lines, off, sub pk (64 * off) (match wfmtOfCode code with | some .trit5 => 52480 | _ => 64 * lines)⟩

/-- Is an entry of a packet good: format, place, length and encoding (R14, R18, R22, R122, R138)? -/
def pkEntryOk (d : Desc) (first blocksOff total k : Nat) (e : PkEntry) : Bool :=
  match wfmtOfCode e.fmtCode, d.locate (first + k) with
  | some f, some (_, j, ob, ib) =>
    let x := blockExtent (d.mats.getD j (0, 0)) ob ib
    e.reserved == 0 && decide (blocksOff ≤ e.lineOff ∧ 64 * (e.lineOff + e.lines) ≤ total)
      && linesOk f e.lines e.blk && blockOk f e.blk && paddingOk f e.blk x.1 x.2
  | _, _ => false

/-- Do the line ranges of two entries overlap? -/
def overlaps (a b : PkEntry) : Bool := decide (a.lineOff < b.lineOff + b.lines ∧ b.lineOff < a.lineOff + a.lines)

/-- The first entry of a packet that fails: by itself, or by overlapping an earlier block (R138). -/
def firstBadEntry (d : Desc) (first blocksOff total : Nat) : Nat → List PkEntry → List PkEntry → Option Nat
  | _, _, [] => none
  | k, seen, e :: es =>
    if pkEntryOk d first blocksOff total k e && !seen.any (overlaps e)
    then firstBadEntry d first blocksOff total (k + 1) (e :: seen) es
    else some k

/-- The bytes that LOAD_WEIGHTS stages of a checked block: sparse blocks in canonical form (R173). -/
def stagedBlock (f : WFmt) (blk : Bytes) : Bytes :=
  match f with
  | .sparse => canonicalSparse blk
  | _ => blk

end Sys2Proof.Machine
end

