-- ==== Sys2Proof/Machine/Plan.lean ====
section
/-! DEFINITION. The reduction plan (R151-R155): units and their ranks, leaves, the block-table entries a rank holds,
PLAN_CRC and the descriptor records of R171. -/
namespace Sys2Proof.Machine

/-- The first ATTEND that reads the value of PROJECT i, with whether it reads it as SRC_B (R152). -/
def attendReader (ds : List Desc) (i : Nat) : Option (Desc × Bool) :=
  match ds[i]? with
  | none => none
  | some d =>
    if d.opcode = 2 then
      (readers ds i).foldl (fun b r => match b with
        | some x => some x
        | none => match ds[r.1]? with
          | some a => if a.opcode = 6 then some (a, r.2) else none
          | none => none) none
    else none

/-- Inner chunks of 1,024 rows per shared expert (R152). -/
def Desc.chunks (d : Desc) : Nat := ceilDiv d.inner 1024

/-- U of a descriptor (R152). -/
def unitCount (ds : List Desc) (i : Nat) : Nat :=
  match ds[i]? with
  | none => 0
  | some d =>
    match d.opcode with
    | 1 => ceilDiv d.outDim 256
    | 2 => match attendReader ds i with
      | some (a, _) => match a.heads with | some (_, nkv, _) => nkv | none => 0
      | none => ceilDiv d.outDim 256
    | 6 => match d.heads with | some (_, nkv, _) => nkv | none => 0
    | 7 => ceilDiv d.outDim 256
    | 8 => if d.routed then d.copies else d.copies * d.chunks
    | _ => 0

/-- The rank that unit u of U belongs to among n (R151). -/
def unitRank (u n total : Nat) : Nat := u * n / total

/-- Query heads of KV head g: those h with floor(h · nkv ÷ nq) = g (R207), as (first, past the last). -/
def queryHeads (nq nkv g : Nat) : Nat × Nat := (ceilDiv (g * nq) nkv, ceilDiv ((g + 1) * nq) nkv)

/-- The row ranges of KV heads f … f + c - 1 in a Q projection or a K-and-V projection (R129, R152, R207). -/
def headRows (nq nkv hd : Nat) (kv : Bool) (f c : Nat) : List (Nat × Nat) :=
  if c = 0 then []
  else if kv then [(f * hd, (f + c) * hd), ((nkv + f) * hd, (nkv + f + c) * hd)]
  else [((queryHeads nq nkv f).1 * hd, (queryHeads nq nkv (f + c - 1)).2 * hd)]

/-- The output blocks that hold rows of the given ranges. -/
def blocksOfRows (rs : List (Nat × Nat)) : List Nat :=
  (rs.flatMap (fun r => List.range' (r.1 / 256) (ceilDiv r.2 256 - r.1 / 256))).eraseDups

/-- The row ranges of descriptor i's output that a rank owns (R151, R152); all of it for the vector operators. -/
def ownRows (ds : List Desc) (n rank i : Nat) : List (Nat × Nat) :=
  match ds[i]? with
  | none => []
  | some d =>
    let x := unitsOf (unitCount ds i) n rank
    match d.opcode with
    | 2 => match attendReader ds i with
      | some (a, kv) => match a.heads with
        | some (nq, nkv, hd) => headRows nq nkv hd kv x.1 x.2
        | none => []
      | none => if x.2 = 0 then [] else [(256 * x.1, Nat.min d.outDim (256 * (x.1 + x.2)))]
    | 6 => match d.heads with
      | some (nq, nkv, hd) => headRows nq nkv hd false x.1 x.2
      | none => []
    | 3 => [(0, d.outDim)]
    | 4 => [(0, d.outDim)]
    | 5 => [(0, d.outDim)]
    | 8 =>
      let y := unitsOf (ceilDiv d.outDim 256) n rank
      if d.routed then (if y.2 = 0 then [] else [(256 * y.1, Nat.min d.outDim (256 * (y.1 + y.2)))]) else [(0, d.outDim)]
    | 9 => []
    | _ => if x.2 = 0 then [] else [(256 * x.1, Nat.min d.outDim (256 * (x.1 + x.2)))]

/-- The chunks of shared expert e that a rank holds: (first, count) within the expert (R152). -/
def rankChunks (d : Desc) (n rank e : Nat) : Nat × Nat :=
  let x := unitsOf (d.copies * d.chunks) n rank
  let lo := Nat.max x.1 (e * d.chunks)
  let hi := Nat.min (x.1 + x.2) ((e + 1) * d.chunks)
  if lo < hi then (lo - e * d.chunks, hi - lo) else (0, 0)

/-- Leaves of b input blocks (R153). -/
def leafCount (b : Nat) : Nat := ceilDiv b 16

/-- Cut b input blocks from `first` into leaves (first, count): sizes differ by at most one, the earlier larger (R153). -/
def leafCut (first b : Nat) : List (Nat × Nat) :=
  let k := leafCount b
  (List.range k).map (fun j =>
    (first + j * (b / k) + Nat.min j (b % k), b / k + (if j < b % k then 1 else 0)))

/-- The input blocks of one output block that a rank holds: expert, matrix, output block, first input block and count. -/
structure Row where
  e : Nat
  j : Nat
  ob : Nat
  first : Nat
  count : Nat
  deriving DecidableEq, Repr

/-- The block-table entries of some input blocks of a row. -/
def Row.entries (d : Desc) (r : Row) (first count : Nat) : List Nat :=
  (List.range' first count).map (fun ib => d.entryOf r.e r.j r.ob ib)

/-- The runs of input blocks of a row that one cell holds whole: its leaves; EMBED, which forms none, holds its row whole
(R153). -/
def Desc.leafRuns (d : Desc) (r : Row) : List (Nat × Nat) := if d.opcode = 1 then [(r.first, r.count)] else leafCut r.first r.count

/-- The output blocks of a descriptor that a rank holds, in block-list order but for the shared banks' (R138, R152). -/
def heldRows (ds : List Desc) (n rank i : Nat) : List Row :=
  match ds[i]? with
  | none => []
  | some d =>
    let x := unitsOf (unitCount ds i) n rank
    let row (e j ob : Nat) : List Row := [⟨e, j, ob, 0, ceilDiv ((d.mats.getD j (0, 0)).2) 1024⟩]
    match d.opcode with
    | 1 => (List.range' x.1 x.2).flatMap (row 0 0)
    | 2 => (blocksOfRows (ownRows ds n rank i)).flatMap (row 0 0)
    | 7 => (List.range' x.1 x.2).flatMap (row 0 0)
    | 8 =>
      if d.routed then
        (List.range' x.1 x.2).flatMap (fun e =>
          d.mats.zipIdx.flatMap (fun m => (List.range (ceilDiv m.1.1 256)).flatMap (row e m.2)))
      else
        (List.range d.copies).flatMap (fun e =>
          let c := rankChunks d n rank e
          if c.2 = 0 then []
          else
            let innerBlocks := List.range' (4 * c.1) (Nat.min (ceilDiv d.inner 256) (4 * (c.1 + c.2)) - 4 * c.1)
            innerBlocks.flatMap (row e 0) ++ innerBlocks.flatMap (row e 1)
              ++ (List.range (ceilDiv d.outDim 256)).map (fun ob => ⟨e, 2, ob, c.1, c.2⟩)
              ++ (if d.predicts then
                    (List.range (ceilDiv ((d.mats.getD 3 (0, 0)).1) 256)).flatMap (row e 3)
                      ++ innerBlocks.flatMap (row e 4)
                  else []))
    | _ => []

/-- The block-table entries of a descriptor that a rank holds (R152). -/
def heldEntries (ds : List Desc) (n rank i : Nat) : List Nat :=
  match ds[i]? with
  | none => []
  | some d => (heldRows ds n rank i).flatMap (fun r => r.entries d r.first r.count)

/-- LEAVES of R171 on a rank. -/
def leavesOf (ds : List Desc) (n rank i : Nat) : Nat :=
  match ds[i]? with
  | none => 0
  | some d =>
    if (heldEntries ds n rank i).isEmpty then 0
    else match d.opcode with
      | 2 => leafCount (ceilDiv d.inDim 1024)
      | 7 => leafCount (ceilDiv d.inDim 1024)
      | 8 =>
        let downs := if d.routed then leafCount (ceilDiv d.inner 1024)
          else maxN ((List.range d.copies).map (fun e => leafCount (rankChunks d n rank e).2))
        Nat.max downs (Nat.max (leafCount (ceilDiv d.inDim 1024))
          (match d.mats[4]? with | some m => leafCount (ceilDiv m.2 1024) | none => 0))
      | _ => 0

/-- The ranks that hold chunks of shared expert e (R152). -/
def expertRanks (d : Desc) (n e : Nat) : List Nat :=
  (List.range n).filter (fun r => decide (0 < (rankChunks d n r e).2))

/-- RED_RANKS of R171 on a rank. -/
def redRanks (ds : List Desc) (n rank i : Nat) : Nat :=
  match ds[i]? with
  | none => 0
  | some d =>
    if d.opcode = 8 ∧ d.routed = false then
      maxN (((List.range d.copies).filter (fun e => decide (0 < (rankChunks d n rank e).2))).map (fun e =>
        let k := (expertRanks d n e).length
        if k ≤ 1 then 0 else k))
    else 0

/-- The four plan fields of a descriptor on a rank: UNIT_FIRST, UNIT_COUNT, LEAVES, RED_RANKS (R155). -/
def planFields (ds : List Desc) (n rank i : Nat) : Nat × Nat × Nat × Nat :=
  let x := unitsOf (unitCount ds i) n rank
  (if x.2 = 0 then 0 else x.1, x.2, leavesOf ds n rank i, redRanks ds n rank i)

/-- The bytes PLAN_CRC covers for one graph (R155). -/
def planBytes (ds : List Desc) (n : Nat) : Bytes :=
  (List.range ds.length).flatMap (fun i => (List.range n).flatMap (fun r =>
    let f := planFields ds n r i
    leBytes 2 f.1 ++ leBytes 2 f.2.1 ++ leBytes 2 f.2.2.1 ++ leBytes 2 f.2.2.2))

/-- PLAN_CRC of the graphs in order (R155, R167). -/
def planCrc (gs : List (List Desc)) (n : Nat) : Nat := crc32 (gs.flatMap (fun ds => planBytes ds n))

/-- The stage kind of an operator (R157, R169). -/
def stageKind (d : Desc) : Nat :=
  match d.opcode with
  | 1 => 0
  | 2 => 0
  | 6 => 1
  | 7 => 4
  | 8 => if d.routed then 3 else 2
  | _ => 5

/-- Does a rank hold work of a descriptor: every vector operator, else a unit (R152)? -/
def holdsWork (ds : List Desc) (n rank i : Nat) : Bool :=
  match ds[i]? with
  | none => false
  | some d => stageKind d == 5 || decide (0 < (unitsOf (unitCount ds i) n rank).2)

/-! ## Dies (R7, R153, R158-R160) -/

/-- The die of a stack (R7). -/
def stackDie (stack : Nat) : Nat := stack / 6

/-- The die of a cell (R6). -/
def cellDie (cell : Nat) : Nat := cell / 64

/-- The output block of an entry that lies `r` entries into the matrices. -/
def obIn : List (Nat × Nat) → Nat → Nat
  | [], _ => 0
  | m :: ms, r => if r < matEntries m then r / ceilDiv m.2 1024 else obIn ms (r - matEntries m)

/-- The output block that an entry belongs to (R138). -/
def Desc.obOf (d : Desc) (entry : Nat) : Nat :=
  let per := sumN (d.mats.map matEntries)
  if per = 0 then 0 else obIn d.mats (entry % per)

/-- The die whose cells take an output block: the even ones go to die 0, the odd ones to die 1, so that every leaf of a block
lies with the cells of one die (R153, R158, R159; DESIGN CHOICE, notes/assumptions/5.md). -/
def obDie (ob : Nat) : Nat := ob % 2

/-- The ATTENDs of a graph of which a rank holds a KV head. -/
def heldAttends (ds : List Desc) (n rank : Nat) : List Nat :=
  (List.range ds.length).filter (fun i => match ds[i]? with
    | some d => d.opcode == 6 && decide (0 < (unitsOf (unitCount ds i) n rank).2)
    | none => false)

/-- The die whose attention cells serve the heads of an ATTEND on a rank: they alternate (R160, R161; DESIGN CHOICE,
notes/assumptions/5.md). -/
def attendDie (ds : List Desc) (n rank i : Nat) : Nat := (heldAttends ds n rank).findIdx (· == i) % 2

/-- The step that a layout is made for: tokens, and cached positions that they read (R158). -/
structure Demand where
  toks : Nat
  pos : Nat
  deriving DecidableEq, Repr

/-- The uniform decode batch of a job that has not run: 64 tokens over 1,024 positions each (R158; DESIGN CHOICE,
notes/assumptions/5.md). -/
def uniformBatch : Demand := ⟨64, 65536⟩

/-- The work of one descriptor on one die of a rank: the larger of the lines its stage fetches and the plane steps of its
blocks, one an input plane, block and token (R158; the units are a DESIGN CHOICE, notes/assumptions/5.md). -/
def descWork (ds : List Desc) (n rank : Nat) (dm : Demand) (die i : Nat) : Nat :=
  match ds[i]? with
  | none => 0
  | some d =>
    if d.opcode = 6 then
      (if 0 < (unitsOf (unitCount ds i) n rank).2 ∧ attendDie ds n rank i = die then
        10 * d.kvB n rank * (dm.pos / 16 + dm.toks) else 0)
    else if stageKind d = 5 then dm.toks
    else sumN (((heldRows ds n rank i).filter (fun r => obDie r.ob == die)).map (fun r =>
      r.count * Nat.max 820 (d.inW * dm.toks)))

/-- One run of input blocks as a cell holds it (R153). -/
structure Held where
  desc : Nat
  row : Row
  first : Nat
  count : Nat
  deriving DecidableEq, Repr

/-- What the cells of one die hold of a stage kind, in descriptor order (R153, R157). -/
def heldOn (ds : List Desc) (n rank kind die : Nat) : List Held :=
  ds.zipIdx.flatMap (fun x =>
    if stageKind x.1 = kind then
      ((heldRows ds n rank x.2).filter (fun r => obDie r.ob == die)).flatMap (fun r =>
        (x.1.leafRuns r).map (fun f => ⟨x.2, r, f.1, f.2⟩))
    else [])

/-- The work of a stage kind on one die (R158). -/
def kindWork (gs : List (List Desc)) (n rank : Nat) (dm : Demand) (die kind : Nat) : Nat :=
  sumN (gs.map (fun ds => sumN (ds.zipIdx.map (fun x =>
    if stageKind x.1 = kind then descWork ds n rank dm die x.2 else 0))))

/-- Give one more cell to the item with the most work for each cell it has, the first on a tie: (work, cells). -/
def giveCell (xs : List (Nat × Nat)) : List (Nat × Nat) :=
  let best := xs.foldl (fun (b : Nat × Nat) x => if b.1 * x.2 < x.1 * b.2 then x else b) (xs.headD (0, 1))
  match xs.findIdx? (· == best) with
  | none => xs
  | some i => xs.modify i (fun x => (x.1, x.2 + 1))

/-- Deal `more` cells, one at a time. -/
def giveCells : Nat → List (Nat × Nat) → List (Nat × Nat)
  | 0, xs => xs
  | more + 1, xs => giveCells more (giveCell xs)

/-- How many of `cells` cells each item of some work receives: one each, then the others so that the largest work for a cell
is least (R158). -/
def dealCells (cells : Nat) (works : List Nat) : List Nat :=
  (giveCells (cells - works.length) (works.zipIdx.map (fun w => (w.1, b2n (decide (w.2 < cells)))))).map (·.2)

/-- Cut a list into runs of given lengths. -/
def cutRuns {α : Type} : List Nat → List α → List (List α)
  | [], _ => []
  | n :: ns, xs => xs.take n :: cutRuns ns (xs.drop n)

/-- The cells of one die dealt among stage kinds: (kind, cells). Every kind with work there gets one (R158). -/
def dieCells (gs : List (List Desc)) (n rank : Nat) (dm : Demand) (fenced ks : List Nat) (die : Nat) : List (Nat × List Nat) :=
  let cells := (List.range' (64 * die) 64).filter (fun c => !fenced.contains c)
  let here := (ks.map (fun k => (k, kindWork gs n rank dm die k))).filter (fun x => x.2 != 0)
  (here.map (·.1)).zip (cutRuns (dealCells cells.length (here.map (·.2))) cells)

/-! ## What sequences keep (R69, R74, R222) -/

/-- The 1,024-element output blocks of a descriptor. -/
def Desc.wideBlocks (d : Desc) : Nat := ceilDiv d.outDim 1024

/-- Does a descriptor keep token-scale windows: TSCALE 1 outside SELECT? -/
def Desc.keepsWin (d : Desc) : Bool := d.tscale && d.opcode != 9

/-- Does a descriptor keep fall-back countdowns: OUT_W 2-8 (R74)? -/
def Desc.keepsCd (d : Desc) : Bool := decide (2 ≤ d.outW ∧ d.outW ≤ 8)

/-- Bytes of a sequence's own state: its entry, its windows and its countdowns in every graph (R227, R231). -/
def ownStateBytes (gs : List Graph) : Nat :=
  128 + sumN (gs.map (fun g =>
    sumN ((g.descs.filter Desc.keepsWin).map (fun d => 4 * d.window))
      + sumN ((g.descs.filter Desc.keepsCd).map (fun d => ceilDiv d.wideBlocks 2))))

/-- A descriptor record of R171; STAGE and STACKS are given. -/
def descRecord (ds : List Desc) (n rank i stage onStacks : Nat) (draft : Bool) : Bytes :=
  let f := planFields ds n rank i
  leBytes 2 i ++ leBytes 1 (b2n draft) ++ leBytes 1 stage ++ leBytes 2 f.1 ++ leBytes 2 f.2.1 ++ leBytes 2 f.2.2.1
    ++ leBytes 2 f.2.2.2 ++ leBytes 4 (heldEntries ds n rank i).length ++ leBytes 2 onStacks ++ zeros 14

end Sys2Proof.Machine
end

