-- ==== Sys2Proof/Machine/Eval.lean ====
section
/-! DEFINITION. What a step computes (R119): the operators over a step's work list on one rank, from the snapshot the
step launched with (R146) and the records the other ranks sent (R314, R315). -/
namespace Sys2Proof.Machine

/-! ## Tallies and values -/

/-- Clamps and LNS saturations counted by a piece of work (R372). -/
structure Tal where
  clamps : Nat
  sats : Nat
  deriving DecidableEq, Repr

/-- Nothing counted. -/
def Tal.zero : Tal := ⟨0, 0⟩

/-- Two tallies together. -/
def Tal.plus (a b : Tal) : Tal := ⟨a.clamps + b.clamps, a.sats + b.sats⟩

/-- The tallies of a list together. -/
def Tal.sum (ts : List Tal) : Tal := ts.foldl Tal.plus Tal.zero

/-- A tally of saturations alone. -/
def Tal.ofSats (n : Nat) : Tal := ⟨0, n⟩

/-- The words of LNS results, and how many saturated. -/
def lnsAll (xs : List Lns) : List Nat × Nat := (xs.map (·.1), sumN (xs.map (·.2)))

/-- A function of LNS words applied to a result, its saturations added. -/
def Lns.bind (x : Lns) (f : Nat → Lns) : Lns := let y := f x.1; (y.1, x.2 + y.2)

/-- One token's value in a slot (R119): its elements with outliers restored (R67), as every rank reads them and as this
rank formed them before any gather (R152, R154), its token-scale word (R72), and whether each form is whole: a form is not
whole while records that it is made of have still to arrive from other ranks (R103, R147). -/
structure Val where
  ys : List Int
  loc : List Int
  tokw : Nat
  ok : Bool
  okLoc : Bool
  deriving DecidableEq, Repr

/-- A value that has still to be formed. -/
def Val.none : Val := ⟨[], [], tokOne, false, false⟩

/-- A choice of a token: expert, gate weight, and whether it was kept (R184, R185, R188). -/
structure Choice where
  expert : Nat
  gate : Nat
  kept : Bool
  deriving DecidableEq, Repr

/-- A token's routing record (R186): its choices in score order and its combine scale K. -/
structure Route where
  choices : List Choice
  k : Nat
  deriving DecidableEq, Repr

/-- A token of a pass: its work-list index and entry. -/
structure PTok where
  i : Nat
  t : Tok
  deriving DecidableEq, Repr

/-- What the evaluation of a step reads. `prefill` lists the sequences in prefill (R70). -/
structure Ctx where
  env : StepEnv
  job : Nat
  n : Nat
  rank : Nat
  step : Nat
  nTok : Nat
  prefill : List Nat
  reduces : List ReduceRec
  gathers : List GatherRec
  terms : List GatherRec
  draw : Nat
  deriving DecidableEq, Repr

/-- An audited token's counts: does it have a kept choice, ACTIVE and MISSED (R179, R180). -/
structure AuditRec where
  desc : Nat
  token : Nat
  has : Bool
  active : Nat
  missed : Nat
  deriving DecidableEq, Repr

/-- What the gate and up rows of one expert of a predicted bank are read for in a step (R176, R178, R190): whether any token
visits it, the inner neurons active for at least one of them, and those active for each token that does not take every row. -/
structure Union where
  desc : Nat
  expert : Nat
  visited : Bool
  rows : List Nat
  on : List (Nat × List Nat)
  deriving DecidableEq, Repr

/-- What a step's evaluation has gathered so far. `done` says that nothing waits for another rank's records; `writer` names the
descriptor whose value stands in a slot. -/
structure Pass where
  done : Bool
  slots : List (Nat × List Val)
  writer : List (Nat × Nat)
  unions : List Union
  routes : List (Nat × List Route)
  records : List (Nat × Nat × Bytes)     -- descriptor, work-list index, routing record (R186)
  counts : List (Nat × List Nat)
  ms : List (Nat × Nat × Nat)            -- descriptor, sequence, m (R68)
  trigs : List (Nat × Nat × Nat)         -- descriptor, sequence, 1,024-element block (R74)
  tals : List (Nat × Tal)
  drops : List (Nat × Nat × Nat)         -- descriptor, dropped choices, tokens without a kept choice (R188)
  audits : List AuditRec
  kv : List (Nat × Nat × Nat × Bytes)
  selected : List (Nat × Nat)
  sends : List Out
  deriving DecidableEq, Repr

/-- Nothing evaluated. -/
def Pass.start : Pass := ⟨true, [], [], [], [], [], [], [], [], [], [], [], [], [], []⟩

/-- What one token's work in one descriptor leaves beside its value. -/
structure Note where
  m : Nat
  trig : List Nat
  tal : Tal
  sends : List Out
  deriving DecidableEq, Repr

/-! ## Scales and widths (R69-R71, R76, R121) -/

/-- A sequence's numeric state in the step's graph. -/
def Ctx.num (c : Ctx) (seq : Nat) : NumState := lookupD ⟨[], [], []⟩ seq c.env.nums

/-- The token-scale word and h of a sequence for descriptor `di` (R71, R105, R126). -/
def Ctx.scaleFor (c : Ctx) (di : Nat) (d : Desc) (seq : Nat) : Nat × Nat :=
  if d.tscale then
    let r := maxN (lookupD [d.initMax] di (c.num seq).wins)
    (deriveScale r d.outW, headroom r)
  else (tokOne, headroom d.initMax)

/-- Has block `b` of descriptor `di` fallen back for a sequence: its countdown runs, outside prefill (R76)? -/
def Ctx.fallsBack (c : Ctx) (di : Nat) (d : Desc) (seq b : Nat) : Bool :=
  decide (2 ≤ d.outW ∧ d.outW ≤ 8 ∧ 0 < (lookupD [] di (c.num seq).cds).getD b 0) && !c.prefill.contains seq

/-- The width at which block `b` of descriptor `di` is written for a sequence: 8 when it has fallen back (R76), else the
width its consumers read (R121). -/
def Ctx.widthOf (c : Ctx) (di : Nat) (d : Desc) (seq b : Nat) : Nat :=
  if c.fallsBack di d seq b then 8 else outBlockW c.env.graph.descs di b

/-- The descriptor whose value stands in a slot when descriptor `di` reads it: the last before it that writes the slot
(R119). -/
def producerOf (ds : List Desc) (di slot : Nat) : Option (Nat × Desc) :=
  (((ds.take di).zipIdx.filter (fun x => x.1.dst == slot && x.1.opcode != 9)).getLast?).map (fun x => (x.2, x.1))

/-- The width at which matrix j of descriptor `di` reads input block b for a sequence (R76, R121, R128). -/
def Ctx.inWidth (c : Ctx) (di : Nat) (d : Desc) (j seq b : Nat) : Nat :=
  if d.opcode = 8 ∧ (j = 2 ∨ j = 4) then d.readW j b
  else match producerOf c.env.graph.descs di d.srcA with
    | some x => if c.fallsBack x.1 x.2 seq b then 8 else d.readW j b
    | none => d.readW j b

/-! ## Forming output blocks (R65, R66) -/

/-- Elements at given indices of a vector of `n`, 0 elsewhere; the indices rise. -/
def spread : Nat → Nat → List (Nat × Int) → List Int
  | 0, _, _ => []
  | n + 1, i, [] => 0 :: spread n (i + 1) []
  | n + 1, i, x :: xs => if x.1 = i then x.2 :: spread n (i + 1) xs else 0 :: spread n (i + 1) (x :: xs)

/-- Cut a list into runs of `n`. -/
def runsOf (n : Nat) : Nat → List Int → List (List Int)
  | 0, _ => []
  | k + 1, xs => xs.take n :: runsOf n k (xs.drop n)

/-- The 256-element blocks of a vector. -/
def blocks256 (xs : List Int) : List (List Int) := runsOf 256 (ceilDiv xs.length 256) xs

/-- Form a vector at widths 1-8 block by block: elements with outliers restored, clamps, and the 1,024-element blocks
that hold a clamped block (R65, R74). `w b` is the width of 1,024-element block b. -/
def formBlocks (w : Nat → Nat) (y0s : List Int) : List Int × Nat × List Nat :=
  let bs := (blocks256 y0s).zipIdx.map (fun b => (formBlock (w (b.2 / 4)) b.1, b.2 / 4))
  (bs.flatMap (fun b => b.1.full), sumN (bs.map (fun b => b.1.clamps)),
   ((bs.filter (fun b => b.1.clamps != 0)).map (·.2)).eraseDups)

/-- Form a vector at the output width of a descriptor (R65, R66). -/
def formAt (outW : Nat) (w : Nat → Nat) (y0s : List Int) : List Int × Nat × List Nat :=
  if outW = 31 then let r := formWisp31 y0s; (r.1, r.2, [])
  else if outW = 16 then let r := formWide16 y0s; (r.1, r.2, [])
  else formBlocks w y0s

/-- y0 of a product acc × C under a token-scale word, shift and rounding mode (R60-R64). -/
def y0Of (round lsh tokw seq pos layer : Nat) (o : Nat) (accC : Int) : Int :=
  roundShift (accC * tokT tokw) (lsh + tokS tokw)
    (if round = 1 then some (lfsrValue seq pos layer o) else none)

/-! ## The gather (R154) -/

/-- Is an index in one of the ranges? -/
def inRanges (rs : List (Nat × Nat)) (o : Nat) : Bool := rs.any (fun r => decide (r.1 ≤ o ∧ o < r.2))

/-- The 64-element blocks that hold rows of the ranges, ascending. -/
def wispIndices (rs : List (Nat × Nat)) : List Nat :=
  sortBy (fun a b => decide (a ≤ b))
    ((rs.flatMap (fun r => List.range' (r.1 / 64) (ceilDiv r.2 64 - r.1 / 64))).eraseDups)

/-- Cut rising block indices into runs (first, count) of at most 204 (R315). -/
def blockRuns : List Nat → List (Nat × Nat)
  | [] => []
  | k :: ks =>
    match blockRuns ks with
    | [] => [(k, 1)]
    | r :: rs => if r.1 = k + 1 ∧ r.2 < 204 then (k, r.2 + 1) :: rs else (k, 1) :: r :: rs

/-- The format a WISP field selects (R124). -/
def wispFmt (three : Bool) : Wisp := if three then .three else .five

/-- The elements of a received record: (index, rounded value) (R67). -/
def recValues (r : GatherRec) : List (Nat × Int) :=
  r.blocks.zipIdx.flatMap (fun b =>
    ((wispDecode (wispFmt r.wisp3) b.1).map wispRound).zipIdx.map (fun v => (64 * (r.first + b.2) + v.2, v.1)))

/-- The records that carry this rank's rows of a value to one other rank (R315). -/
def gatherRecs (c : Ctx) (di token tokw : Nat) (three : Bool) (idx : List Nat) (bs : List Bytes) : List GatherRec :=
  (blockRuns idx).map (fun r =>
    ⟨c.rank, c.step, di, token, r.1, tokw, three, (List.range' r.1 r.2).map (fun k => bs.getD k [])⟩)

/-- The ranks of the job other than this one. -/
def Ctx.others (c : Ctx) : List Nat := (List.range c.n).filter (· != c.rank)

/-- Have the records of every other rank's rows of a value arrived (R154)? -/
def Ctx.gathered (c : Ctx) (di token : Nat) : Bool :=
  c.others.all (fun r =>
    let got := (c.gathers.filter (fun g => g.rank == r && g.desc == di && g.token == token)).flatMap (fun g =>
      List.range' g.first g.blocks.length)
    (wispIndices (ownRows c.env.graph.descs c.n r di)).all got.contains)

/-- A value of which this rank formed its own rows, gathered to the form every rank reads: own rows and every other
rank's through the Wisp format, rebuilt at the consumers' widths (R67, R154). The rebuilding counts nothing
(notes/assumptions/15.md). -/
def gather (c : Ctx) (di : Nat) (d : Desc) (w : Nat → Nat) (token tokw : Nat) (ys : List Int) :
    List Int × List Out :=
  let ds := c.env.graph.descs
  let own := ownRows ds c.n c.rank di
  let idx := wispIndices own
  let masked := ys.zipIdx.map (fun y => if inRanges own y.2 then y.1 else 0)
  let bs := wispBlocks (wispFmt d.wisp3) masked
  let mine := (wispRoundtrip (wispFmt d.wisp3) masked).zipIdx.map (fun y => (y.2, y.1))
  let theirs (r : Nat) : List (Nat × Int) :=
    (c.gathers.filter (fun g => g.rank == r && g.desc == di && g.token == token)).flatMap recValues
  let all := (List.range c.n).flatMap (fun r =>
    let rs := ownRows ds c.n r di
    (if r = c.rank then mine else theirs r).filter (fun y => inRanges rs y.1))
  let full := spread d.outDim 0 (sortBy (fun a b => decide (a.1 ≤ b.1)) all)
  let recs := gatherRecs c di token tokw d.wisp3 idx bs
  ((formAt d.outW w full).1, c.others.flatMap (fun r => recs.map (fun g => .gather c.job r g)))

/-! ## Writing a descriptor's output -/

/-- Is a descriptor's work repeated by every rank over identical inputs: the vector operators (R154)? -/
def isVector (op : Nat) : Bool := op == 3 || op == 4 || op == 5 || op == 9

/-- Is the value divided among ranks and gathered: every divided producer but one that only ATTEND reads on its own rank
(R152, R154)? -/
def Ctx.gathers? (c : Ctx) (di : Nat) (d : Desc) : Bool :=
  decide (1 < c.n) && (d.opcode == 1 || d.opcode == 2 || d.opcode == 6 || d.opcode == 7 || d.routed)
    && (readers c.env.graph.descs di).any (fun r => match c.env.graph.descs[r.1]? with
        | some x => x.opcode != 6
        | none => false)

/-- Counts of vector work are rank 0's alone (R316). -/
def Ctx.vecTal (c : Ctx) (t : Tal) : Tal := if c.rank = 0 then t else Tal.zero

/-- Write one token's output from its own rows (o, acc × C): requantise, form, note m and the block triggers, and gather
(R60-R68, R74, R121, R154). -/
def writeOut (c : Ctx) (di : Nat) (d : Desc) (tok : PTok) (rows : List (Nat × Int)) : Val × Note :=
  let sc := c.scaleFor di d tok.t.seq
  let tokw := if d.outW = 31 then tokOne else sc.1
  let w := c.widthOf di d tok.t.seq
  let y0s := rows.map (fun r => (r.1, y0Of d.round d.lsh tokw tok.t.seq tok.t.pos di r.1 r.2))
  let m := if d.tscale then maxN (rows.map (fun r => statOf r.2 d.lsh)) else 0
  let f := formAt d.outW w (spread d.outDim 0 y0s)
  let t : Tal := ⟨f.2.1, 0⟩
  if c.gathers? di d then
    let g := gather c di d w tok.i tokw f.1
    (⟨g.1, f.1, tokw, c.gathered di tok.i, true⟩, ⟨m, f.2.2, t, g.2⟩)
  else (⟨f.1, f.1, tokw, true, true⟩, ⟨m, f.2.2, if isVector d.opcode then c.vecTal t else t, []⟩)

/-- The output of a token whose inputs have still to arrive. -/
def pendingOut : Val × Note := (Val.none, ⟨0, [], Tal.zero, []⟩)

/-- A token's output, formed once its inputs are whole (R103). -/
def whenOk (ok : Bool) (out : Unit → Val × Note) : Val × Note := if ok then out () else pendingOut

/-- exit of R133 with the rows' channel scales: acc = align(result, 16). -/
def exitRows (d : Desc) (ws : List (Nat × Nat)) : List (Nat × Int) :=
  ws.map (fun x => (x.1, lnsAlign x.2 16 * (if d.opcode = 6 then d.scale x.1 else 1 : Nat)))

/-! ## Array sums (R48-R57, R105-R110, R153) -/

/-- The weights of one leaf of one output block: its first input block and, by lane, the weights of its inputs. -/
structure Leaf where
  first : Nat
  lanes : List (List Int)
  deriving DecidableEq, Repr

/-- One output block of a matrix as this rank holds it. -/
structure Tile where
  ob : Nat
  leaves : List Leaf
  deriving DecidableEq, Repr

/-- The stored block of an entry. -/
def Ctx.block (c : Ctx) (di entry : Nat) : WFmt × Bytes :=
  match c.env.blocks.find? (fun b => b.1 == di && b.2.1 == entry) with
  | some b => b.2.2
  | none => (.wide2, zeros 69632)

/-- The lanes of one leaf: 256 rows of the weights of its input blocks. -/
def Ctx.leaf (c : Ctx) (di : Nat) (d : Desc) (e j ob first count : Nat) : Leaf :=
  let bs := (List.range' first count).map (fun ib => let b := c.block di (d.entryOf e j ob ib); blockRows b.1 b.2)
  ⟨first, bs.foldl (fun ls b => List.zipWith (· ++ ·) ls b) (List.replicate 256 [])⟩

/-- The tiles of matrix j of expert e over some output blocks, its input blocks from `first`, `b` of them (R153). -/
def Ctx.tiles (c : Ctx) (di : Nat) (d : Desc) (e j : Nat) (obs : List Nat) (first b : Nat) : List Tile :=
  obs.map (fun ob => ⟨ob, (leafCut first b).map (fun l => c.leaf di d e j ob l.1 l.2)⟩)

/-- Every input block of a matrix. -/
def Desc.inBlocks (d : Desc) (j : Nat) : Nat := ceilDiv ((d.mats.getD j (0, 0)).2) 1024

/-- The dot product of a row of weights with the inputs. -/
def dot (ws xs : List Int) : Int := sumI (List.zipWith (· * ·) ws xs)

/-- The wide accumulators of a leaf's lanes for one input vector. -/
def Leaf.accs (l : Leaf) (xs : List Int) : List Int :=
  let seg := xs.drop (1024 * l.first)
  l.lanes.map (fun w => wrap48 (dot w seg))

/-- Lanes whose rows are inactive hold 0 (R176). -/
def maskLanes (ob : Nat) (keep : Nat → Bool) (accs : List Int) : List Int :=
  accs.zipIdx.map (fun a => if keep (256 * ob + a.2) then a.1 else 0)

/-- The channel scales of the real rows of an output block (R105, R122). -/
def Desc.obScales (d : Desc) (e j ob : Nat) : List Nat :=
  let rows := (d.mats.getD j (0, 0)).1
  (List.range (Nat.min 256 (rows - 256 * ob))).map (fun r => d.matScale e j (256 * ob + r))

/-- e of an output block (R105). -/
def Desc.shiftOf (d : Desc) (h lsh e j ob : Nat) : Nat := baseShift h lsh (cminOf (d.obScales e j ob))

/-- The sums of one tile on one rank: its own acc for one leaf, else the reduced acc (R153, R106-R110), with the
saturations. -/
def Tile.accs (t : Tile) (e : Nat) (keep : Nat → Bool) (xs : List Int) : List Int × Nat :=
  let ls := t.leaves.map (fun l => maskLanes t.ob keep (l.accs xs))
  match ls with
  | [] => ([], 0)
  | [one] => (one, 0)
  | _ =>
    let rs := (List.range 256).map (fun i =>
      let ps := ls.map (fun l => partialOf (l.getD i 0) e)
      (sumI (ps.map (·.1)), sumN (ps.map (·.2))))
    (rs.map (fun r => (reduceAcc e [(r.1, ls.length, r.2)]).1), sumN (rs.map (·.2)))

/-- The rows of some tiles for one input vector: (row, acc), the saturations, and the output blocks that saturated. -/
def tileRows (d : Desc) (h lsh e j : Nat) (keep : Nat → Bool) (ts : List Tile) (xs : List Int) :
    List (Nat × Int) × Nat × List Nat :=
  let rs := ts.map (fun t => (t.ob, t.accs (d.shiftOf h lsh e j t.ob) keep xs))
  (rs.flatMap (fun r => r.2.1.zipIdx.map (fun a => (256 * r.1 + a.2, a.1))), sumN (rs.map (fun r => r.2.2)),
   (rs.filter (fun r => r.2.2 != 0)).map (fun r => r.1 / 4))

/-- Every row kept. -/
def keepAll (_ : Nat) : Bool := true

/-- The saturations of an output's own reduction are clamps of its blocks (R106). -/
def Note.addSats (x : Note) (n : Nat) (blocks : List Nat) : Note :=
  { x with tal := x.tal.plus ⟨n, 0⟩, trig := x.trig ++ blocks }

/-- Rows in the rank's own ranges, with acc × C. -/
def ownProducts (d : Desc) (own : List (Nat × Nat)) (e j : Nat) (rows : List (Nat × Int)) : List (Nat × Int) :=
  (rows.filter (fun r => inRanges own r.1)).map (fun r => (r.1, r.2 * d.matScale e j r.1))

/-! ## Passes over the tokens -/

/-- The values of a slot, one for each token of the pass. -/
def Pass.slot (p : Pass) (s : Nat) : List Val := lookupD [] s p.slots

/-- Record one descriptor's outputs and notes. -/
def Pass.write (p : Pass) (di dst : Nat) (toks : List PTok) (outs : List (Val × Note)) : Pass :=
  { p with
    done := p.done && outs.all (fun x => x.1.ok),
    slots := assocSet dst (outs.map (·.1)) p.slots,
    writer := assocSet dst di p.writer,
    ms := p.ms ++ (toks.zip outs).map (fun x => (di, x.1.t.seq, x.2.2.m)),
    trigs := p.trigs ++ (toks.zip outs).flatMap (fun x => x.2.2.trig.map (fun b => (di, x.1.t.seq, b))),
    tals := p.tals ++ [(di, Tal.sum (outs.map (fun x => x.2.tal)))],
    sends := p.sends ++ outs.flatMap (fun x => x.2.sends) }

/-- Count more for a descriptor. -/
def Pass.tally (p : Pass) (di : Nat) (t : Tal) : Pass := { p with tals := p.tals ++ [(di, t)] }

/-! ## EMBED and PROJECT (R123) -/

/-- Column TOKEN of the embedding matrix, the rank's own output blocks. -/
def embedRows (c : Ctx) (di : Nat) (d : Desc) (obs : List Nat) (token : Nat) : List (Nat × Int) :=
  obs.flatMap (fun ob =>
    let b := c.block di (d.entryOf 0 0 ob (token / 1024))
    ((blockRows b.1 b.2).zipIdx.take (d.outDim - 256 * ob)).map (fun r =>
      (256 * ob + r.2, r.1.getD (token % 1024) 0 * d.scale (256 * ob + r.2))))

/-- EMBED (R123, R153). -/
def evalEmbed (c : Ctx) (di : Nat) (d : Desc) (toks : List PTok) (p : Pass) : Pass :=
  let obs := blocksOfRows (ownRows c.env.graph.descs c.n c.rank di)
  p.write di d.dst toks (toks.map (fun t => writeOut c di d t (embedRows c di d obs t.t.token)))

/-- One token of PROJECT. -/
def projectTok (c : Ctx) (di : Nat) (d : Desc) (own : List (Nat × Nat)) (ts : List Tile) (t : PTok) (x : Val) :
    Val × Note :=
  let h := (c.scaleFor di d t.t.seq).2
  let r := tileRows d h d.lsh 0 0 keepAll ts x.ys
  let o := writeOut c di d t (ownProducts d own 0 0 r.1)
  (o.1, o.2.addSats r.2.1 r.2.2)

/-- PROJECT (R123). -/
def evalProject (c : Ctx) (di : Nat) (d : Desc) (toks : List PTok) (p : Pass) : Pass :=
  let own := ownRows c.env.graph.descs c.n c.rank di
  let ts := c.tiles di d 0 0 (blocksOfRows own) 0 (d.inBlocks 0)
  p.write di d.dst toks ((toks.zip (p.slot d.srcA)).map (fun x =>
    whenOk x.2.ok (fun _ => projectTok c di d own ts x.1 x.2)))

/-! ## NORM, ACT, ADD (R134, R135) -/

/-- entry of every element of a value, with the saturations (R133). -/
def entries (x : Val) : List Nat × Nat := lnsAll (x.ys.map (fun y => entryWord y x.tokw))

/-- Σ align of LNS words at alignment q, modulo 2^48. -/
def alignSum (ws : List Nat) (q : Nat) : Int := ws.foldl (fun s w => wrap48 (s + lnsAlign w q)) 0

/-- The results of NORM before exit, with saturations (R134). -/
def normWords (eps q n : Nat) (gain : Nat → Nat) (x : Val) : List Nat × Nat :=
  let l := entries x
  let sq := lnsAll (l.1.map (fun w => lnsMul w w))
  let s := wrap48 (alignSum sq.1 q + eps)
  if s = 0 then (l.1.map (fun _ => lnsZero), l.2 + sq.2)
  else
    let m := (lnsRet s q).bind (fun a => (lnsEnc n 1).bind (fun b => lnsDiv a b))
    let tiny := lnsIsZero m.1
    let r := lnsMake false (-((if tiny then -16383 else lnsLog m.1) / 2))
    let out := lnsAll (l.1.zipIdx.map (fun w => (lnsMul w.1 r.1).bind (fun v => lnsMul v (gain w.2))))
    (out.1, l.2 + sq.2 + m.2 + b2n tiny + r.2 + out.2)

/-- Write a vector operator's results through exit (R133). -/
def exitOut (c : Ctx) (di : Nat) (d : Desc) (t : PTok) (r : List Nat × Nat) : Val × Note :=
  let o := writeOut c di d t (exitRows d (r.1.zipIdx.map (fun w => (w.2, w.1))))
  (o.1, { o.2 with tal := o.2.tal.plus (c.vecTal (Tal.ofSats r.2)) })

/-- NORM (R134). -/
def evalNorm (c : Ctx) (di : Nat) (d : Desc) (toks : List PTok) (p : Pass) : Pass :=
  let eq : Nat × Nat := match d.par with | .norm e q => (e, q) | _ => (0, 0)
  p.write di d.dst toks ((toks.zip (p.slot d.srcA)).map (fun x =>
    whenOk x.2.ok (fun _ => exitOut c di d x.1 (normWords eq.1 eq.2 d.inDim d.scale x.2))))

/-- The results of ACT before exit (R135). -/
def actWords (f : FnCode) (a : Val) (b : Option Val) : List Nat × Nat :=
  let fs := lnsAll (a.ys.map (fun y => (entryWord y a.tokw).bind (fnTable f)))
  match b with
  | none => fs
  | some b =>
    let r := lnsAll (List.zipWith (fun w y => (entryWord y b.tokw).bind (lnsMul w)) fs.1 b.ys)
    (r.1, fs.2 + r.2)

/-- ACT (R135). -/
def evalAct (c : Ctx) (di : Nat) (d : Desc) (toks : List PTok) (p : Pass) : Pass :=
  let f : FnCode := match d.par with | .act x => (fnOfCode x).getD .identity | _ => .identity
  let as := p.slot d.srcA
  let bs : List (Option Val) := if d.srcB ≤ 15 then (p.slot d.srcB).map some else as.map (fun _ => none)
  p.write di d.dst toks ((toks.zip (as.zip bs)).map (fun x =>
    whenOk (x.2.1.ok && x.2.2.all (·.ok)) (fun _ => exitOut c di d x.1 (actWords f x.2.1 x.2.2))))

/-- One token of ADD: acc = align(entry(a), 16) + align(entry(b), 16) (R135). -/
def addTok (c : Ctx) (di : Nat) (d : Desc) (t : PTok) (a b : Val) : Val × Note :=
  let ea := entries a
  let eb := entries b
  let accs := List.zipWith (fun x y => wrap48 (lnsAlign x 16 + lnsAlign y 16)) ea.1 eb.1
  let o := writeOut c di d t (accs.zipIdx.map (fun x => (x.2, x.1)))
  (o.1, { o.2 with tal := o.2.tal.plus (c.vecTal (Tal.ofSats (ea.2 + eb.2))) })

/-- ADD (R135). -/
def evalAdd (c : Ctx) (di : Nat) (d : Desc) (toks : List PTok) (p : Pass) : Pass :=
  p.write di d.dst toks ((toks.zip ((p.slot d.srcA).zip (p.slot d.srcB))).map (fun x =>
    whenOk (x.2.1.ok && x.2.2.ok) (fun _ => addTok c di d x.1 x.2.1 x.2.2)))

/-! ## ATTEND (R207-R211) -/

/-- The parameters of an ATTEND, in one place. -/
structure Att where
  nq : Nat
  nkv : Nat
  hd : Nat
  q : Nat
  vq : Nat
  scale : Nat
  omegas : Option (List Nat)
  span : Nat
  first : Nat                            -- first KV head of this rank
  count : Nat
  deriving DecidableEq, Repr

/-- The ATTEND parameters of a descriptor on a rank. -/
def attOf (c : Ctx) (d : Desc) : Att :=
  match d.par with
  | .attend nq nkv hd q vq sc rb sp =>
    let u := unitsOf nkv c.n c.rank
    ⟨nq, nkv, hd, q, vq, sc, if rb = 0 then none else some ((List.range (hd / 2)).map (ropeOmega rb hd)), sp, u.1, u.2⟩
  | _ => ⟨0, 0, 0, 0, 0, 0, none, 0, 0, 0⟩

/-- A position's KV vector on this rank as Wisp-5 blocks (R198, R200). -/
def kvBytes (a : Att) (x : Val) : Bytes :=
  let part (from_ : Nat) : List Int := (x.loc.drop (from_ * a.hd)).take (a.count * a.hd)
  (wispBlocks .five (part a.first ++ part (a.nkv + a.first))).flatten

/-- The LNS16 words of a stored KV vector, each with its saturation (R209). -/
def kvWords (bs : Bytes) : List Lns :=
  ((List.range (bs.length / 40)).flatMap (fun b => wispDecode .five (sub bs (40 * b) 40))).map
    (fun v => lnsEnc v (2 ^ wispBase))

/-- One rotated pair (R211). -/
def ropePair (q pos omega : Nat) (x0 x1 : Nat) : List Lns :=
  let u := pos * omega % 2 ^ 32 / 65536
  let cw := cosWord u
  let sw := cosWord ((u + 49152) % 65536)
  let a0 := lnsMul x0 cw
  let a1 := lnsMul x1 sw
  let b0 := lnsMul x0 sw
  let b1 := lnsMul x1 cw
  let a := lnsRet (wrap48 (lnsAlign a0.1 q - lnsAlign a1.1 q)) q
  let b := lnsRet (wrap48 (lnsAlign b0.1 q + lnsAlign b1.1 q)) q
  [(a.1, a0.2 + a1.2 + a.2), (b.1, b0.2 + b1.2 + b.2)]

/-- rope(x, pos) over pairs (R211). -/
def ropePairs (q pos : Nat) : List Nat → List Nat → List Lns
  | w :: ws, x0 :: x1 :: xs => ropePair q pos w x0 x1 ++ ropePairs q pos ws xs
  | _, _ => []

/-- rope(x, pos) (R210, R211). -/
def rope (a : Att) (pos : Nat) (x : List Nat) : List Nat × Nat :=
  match a.omegas with
  | none => (x, 0)
  | some ws => lnsAll (ropePairs a.q pos ws x)

/-- Σ align(x · y, q), with the saturations of the products. -/
def dotLns (q : Nat) (xs ys : List Nat) : Int × Nat :=
  let ps := lnsAll (List.zipWith lnsMul xs ys)
  (alignSum ps.1 q, ps.2)

/-- What ATTEND reads at one visible position for one KV head: the rotated key, the value words and the saturations that
each read of them counts (R209-R211). -/
structure KvHead where
  key : List Nat
  keySats : Nat
  val : List Lns
  deriving DecidableEq, Repr

/-- The key and value of head index `gi` of the rank at a position. -/
def kvHead (a : Att) (gi pos : Nat) (ws : List Lns) : KvHead :=
  let k := lnsAll ((ws.drop (gi * a.hd)).take a.hd)
  let r := rope a pos k.1
  ⟨r.1, k.2 + r.2, (ws.drop ((a.count + gi) * a.hd)).take a.hd⟩

/-- One query head at one token: its HEAD_DIM results before exit, and the saturations (R211). -/
def attendHead (a : Att) (pos : Nat) (qs : List Nat) (hs : List KvHead) : List Nat × Nat :=
  let qr := rope a pos qs
  let sig := hs.map (fun k =>
    let s := dotLns a.q qr.1 k.key
    let r := (lnsRet s.1 a.q).bind (fun w => lnsMul w a.scale)
    (lnsAlign r.1 a.q, s.2 + r.2 + k.keySats))
  let smax := sig.foldl (fun m s => if m < s.1 then s.1 else m) ((sig.map (·.1)).headD 0)
  let w := sig.map (fun s => let e := (lnsRet (s.1 - smax) a.q).bind (fnTable .exp); (lnsAlign e.1 26, e.2))
  let wsum := lnsRet (wrap48 (sumI (w.map (·.1)))) 26
  let rw := lnsAll (w.map (fun x => lnsRet x.1 26))
  let outs := (List.range a.hd).map (fun e =>
    let vs := lnsAll (hs.map (fun k => k.val.getD e (lnsZero, 0)))
    let o := dotLns a.vq rw.1 vs.1
    let r := (lnsRet o.1 a.vq).bind (fun x => lnsDiv x wsum.1)
    (r.1, vs.2 + o.2 + r.2))
  (outs.map (·.1), qr.2 + sumN (sig.map (·.2)) + sumN (w.map (·.2)) + a.hd * (wsum.2 + rw.2) + sumN (outs.map (·.2)))

/-- The stored vector of a position: this step's, else the committed one (R208, R209). -/
def kvAt (staged committed : List (Nat × Nat × Nat × Bytes)) (di seq pos : Nat) : Bytes :=
  let hit (l : List (Nat × Nat × Nat × Bytes)) := l.find? (fun e => e.1 == di && e.2.1 == seq && e.2.2.1 == pos)
  match hit staged with
  | some e => e.2.2.2
  | none => match hit committed with
    | some e => e.2.2.2
    | none => []

/-- The lowest position a token reads (R208). -/
def visibleFrom (span pos : Nat) : Nat := if span = 0 then 0 else pos + 1 - span

/-- One token of ATTEND (R207, R211). -/
def attendTok (c : Ctx) (di : Nat) (d : Desc) (a : Att) (staged : List (Nat × Nat × Nat × Bytes)) (t : PTok) (x : Val) :
    Val × Note :=
  let lo := visibleFrom a.span t.t.pos
  let ws := (List.range' lo (t.t.pos + 1 - lo)).map (fun j => (j, kvWords (kvAt staged c.env.kv di t.t.seq j)))
  let heads := (List.range a.count).flatMap (fun gi =>
    let hs := ws.map (fun w => kvHead a gi w.1 w.2)
    let qh := queryHeads a.nq a.nkv (a.first + gi)
    (List.range' qh.1 (qh.2 - qh.1)).map (fun h =>
      let e := lnsAll (((x.loc.drop (h * a.hd)).take a.hd).map (fun y => entryWord y x.tokw))
      let r := attendHead a t.t.pos e.1 hs
      (h, r.1, e.2 + r.2)))
  let rows := heads.flatMap (fun h => h.2.1.zipIdx.map (fun w => (h.1 * a.hd + w.2, w.1)))
  let o := writeOut c di d t (exitRows d rows)
  (o.1, { o.2 with tal := o.2.tal.plus (Tal.ofSats (sumN (heads.map (fun h => h.2.2)))) })

/-- ATTEND: the entries of every token first, then the scores (R208). -/
def evalAttend (c : Ctx) (di : Nat) (d : Desc) (toks : List PTok) (p : Pass) : Pass :=
  let a := attOf c d
  let all := (p.slot d.srcB).all (·.okLoc)
  let new := if a.count = 0 ∨ all = false then []
    else (toks.zip (p.slot d.srcB)).map (fun x => (di, x.1.t.seq, x.1.t.pos, kvBytes a x.2))
  let staged := new ++ p.kv
  let p := { p with kv := staged }
  p.write di d.dst toks ((toks.zip (p.slot d.srcA)).map (fun x =>
    whenOk (all && x.2.okLoc) (fun _ => attendTok c di d a staged x.1 x.2)))

/-! ## ROUTE (R183-R188) -/

/-- Indices of the k largest elements, descending, ties to the lower index (R136, R184). -/
def topIndices (k : Nat) (ys : List Int) : List Nat :=
  (firstBy (fun a b => decide (b.1 < a.1) || (a.1 == b.1 && decide (a.2 ≤ b.2))) k ys.zipIdx).map (·.2)

/-- Gate weights of the chosen experts, with saturations (R185). -/
def gateWords (scoreFn : Nat) (x : Val) (chosen : List Nat) : List Nat × Nat :=
  let y (e : Nat) : Int := x.ys.getD e 0
  if scoreFn = 0 then
    let ymax := y (chosen.headD 0)
    let w := x.ys.map (fun v => let r := (entryWord (v - ymax) x.tokw).bind (fnTable .exp); (lnsAlign r.1 30, r.2))
    let total := lnsRet (wrap48 (sumI (w.map (·.1)))) 30
    let g := lnsAll (chosen.map (fun e => (lnsRet ((w.map (·.1)).getD e 0) 30).bind (fun a => lnsDiv a total.1)))
    (g.1, sumN (w.map (·.2)) + total.2 + g.2)
  else lnsAll (chosen.map (fun e => (entryWord (y e) x.tokw).bind (fnTable .sigmoid)))

/-- cap of R187. -/
def capacity (cf nTok topk nExperts : Nat) : Nat :=
  ceilDiv ((if cf = 0 then 0x140 else cf) * nTok * topk) (256 * nExperts)

/-- Assign one token's choices under the capacity (R188). -/
def assignChoices (cap : Nat) : List Nat → List (Nat × Nat) → List Nat × List Choice
  | counts, [] => (counts, [])
  | counts, x :: xs =>
    let full := decide (cap ≤ counts.getD x.1 0)
    let r := assignChoices cap (if full then counts else counts.modify x.1 (· + 1)) xs
    (r.1, ⟨x.1, x.2, !full⟩ :: r.2)

/-- Assign the tokens' choices in work-list order (R188). -/
def assignAll (cap : Nat) : List Nat → List (List (Nat × Nat)) → List Nat × List (List Choice)
  | counts, [] => (counts, [])
  | counts, t :: ts =>
    let a := assignChoices cap counts t
    let r := assignAll cap a.1 ts
    (r.1, a.2 :: r.2)

/-- K of the combine scale (R191). -/
def combineK (renorm : Bool) (cs : List Choice) : Lns :=
  let kept := cs.filter (·.kept)
  if renorm = false ∨ kept = [] then (0, 0)
  else (lnsRet (alignSum (kept.map (·.gate)) 30) 30).bind (fun s => lnsDiv 0 s)

/-- A routing record of 96 bytes (R186). -/
def routeRecord (step : Nat) (t : PTok) (r : Route) : Bytes :=
  fitBytes 96 (leBytes 2 t.i ++ leBytes 2 (r.choices.length + 32 * (r.choices.filter (·.kept)).length) ++ leBytes 2 r.k ++ zeros 2
    ++ leBytes 4 step ++ leBytes 4 t.t.seq ++ zeros 16
    ++ r.choices.flatMap (fun x => leBytes 2 (x.expert + 1024 * b2n x.kept) ++ leBytes 2 x.gate))

/-- ROUTE: the gate projection, then scoring, choice and capacity on every rank (R183-R188). -/
def evalRoute (c : Ctx) (di : Nat) (d : Desc) (toks : List PTok) (p : Pass) : Pass :=
  let p := evalProject c di d toks p
  match d.par with
  | .route ne topk fnS renorm _ cf ed _ =>
    let logits := p.slot d.dst
    if logits.all (·.ok) = false then p
    else
    let scored := logits.map (fun x =>
      let ch := topIndices topk x.ys
      let g := gateWords fnS x ch
      (ch.zip g.1, g.2))
    let r := assignAll (capacity cf c.nTok topk ne) (lookupD (List.replicate ne 0) di p.counts) (scored.map (·.1))
    let ks := r.2.map (combineK renorm)
    let dropped := sumN (r.2.map (fun cs => (cs.filter (fun x => !x.kept)).length))
    let lost := (r.2.filter (fun cs => cs.all (fun x => !x.kept))).length
    let rts : List Route := List.zipWith (fun cs k => ⟨cs, k.1⟩) r.2 ks
    { p.tally di (c.vecTal (Tal.ofSats (sumN (scored.map (·.2)) + sumN (ks.map (·.2))))) with
      routes := assocSet di rts p.routes,
      records := p.records ++ (toks.zip rts).map (fun x => (di, x.1.i, routeRecord c.step x.1 x.2)),
      counts := assocSet di r.1 p.counts,
      drops := p.drops ++ [(di, dropped, lost), (ed, dropped, lost)] }
  | _ => p

/-! ## EXPERT_FFN (R135, R175-R180, R190-R195) -/

/-- The parameters of an EXPERT_FFN that its work reads. -/
structure Exp where
  fn : FnCode
  innerLsh : Nat
  predHidden : Nat
  deriving DecidableEq, Repr

/-- Those of a descriptor. -/
def expOf (d : Desc) : Exp :=
  match d.par with
  | .expert _ _ _ f _ _ ph _ _ il => ⟨(fnOfCode f).getD .identity, il, ph⟩
  | _ => ⟨.identity, 0, 0⟩

/-- The tiles of one expert on this rank: gate, up, down, and the two predictor layers. -/
structure Bank where
  gate : List Tile
  up : List Tile
  down : List Tile
  pred1 : List Tile
  pred2 : List Tile
  deriving DecidableEq, Repr

/-- The tiles of expert e over inner chunks `lo` … `lo + n - 1` (R152, R153). -/
def Ctx.bank (c : Ctx) (di : Nat) (d : Desc) (e lo n : Nat) : Bank :=
  let obs := List.range' (4 * lo) (Nat.min (ceilDiv d.inner 256) (4 * (lo + n)) - 4 * lo)
  let outs := List.range (ceilDiv d.outDim 256)
  let pr := d.predicts
  ⟨c.tiles di d e 0 obs 0 (d.inBlocks 0), c.tiles di d e 1 obs 0 (d.inBlocks 1), c.tiles di d e 2 outs lo n,
   if pr then c.tiles di d e 3 (List.range (ceilDiv (expOf d).predHidden 256)) 0 (d.inBlocks 3) else [],
   if pr then c.tiles di d e 4 obs 0 (d.inBlocks 4) else []⟩

/-- The margin in force, Meff (R175, R181). -/
def Ctx.meff (c : Ctx) (di : Nat) : Int := lookupD 0 di c.env.meff

/-- The predictor: the active inner neurons, and its saturations (R175, R439). -/
def predict (c : Ctx) (di : Nat) (d : Desc) (e : Nat) (b : Bank) (xs : List Int) : List Nat × Nat :=
  let h := headroom d.initMax
  let a3 := tileRows d h d.lsh e 3 keepAll b.pred1 xs
  let z (j : Nat) (r : Nat × Int) : Int := r.2 * (d.matScale e j r.1 : Int)
  let hv := (a3.1.take (expOf d).predHidden).map (fun r => if 0 ≤ z 3 r then (1 : Int) else -1)
  let a4 := tileRows d h d.lsh e 4 keepAll b.pred2 hv
  ((a4.1.filter (fun r => decide (-4096 * c.meff di ≤ z 4 r))).map (·.1), a3.2.1 + a4.2.1)

/-- The inner vector of one expert for one token over the bank's inner rows, restricted to the rows kept, and its counts
(R135, R176, R439). `w` gives the widths its blocks are formed at. -/
def innerVec (d : Desc) (e : Nat) (b : Bank) (w : Nat → Nat) (keep : Nat → Bool) (xs : List Int) : List Int × Tal :=
  let h := headroom d.initMax
  let g := tileRows d h d.lsh e 0 keep b.gate xs
  let u := tileRows d h d.lsh e 1 keep b.up xs
  let y (j : Nat) (r : Nat × Int) : Int := roundShift (r.2 * d.matScale e j r.1) d.lsh none
  let sat1 (v : Int) : Nat := if 32767 < v.natAbs then 1 else 0
  let rows := ((g.1.zip u.1).filter (fun r => keep r.1.1 && decide (r.1.1 < d.inner))).map (fun r =>
    let yg := y 0 r.1
    let yu := y 1 r.2
    let w := (entryWord (sat16 yg) tokOne).bind (fun a => (fnTable (expOf d).fn a).bind (fun f =>
      (entryWord (sat16 yu) tokOne).bind (fun v => lnsMul f v)))
    (r.1.1, roundShift (lnsAlign w.1 16) (expOf d).innerLsh none, sat1 yg + sat1 yu, w.2))
  let f := formBlocks w (spread d.inner 0 (rows.map (fun r => (r.1, r.2.1))))
  (f.1, ⟨g.2.1 + u.2.1 + sumN (rows.map (fun r => r.2.2.1)) + f.2.1, sumN (rows.map (fun r => r.2.2.2))⟩)

/-- A token at one expert: its inner vector, its counts, ACTIVE and MISSED where it is audited, and the neurons predicted active
for it. -/
structure Inner where
  us : List Int
  tal : Tal
  active : Nat
  missed : Nat
  on : List Nat
  deriving DecidableEq, Repr

/-- A token at one expert: the inner vector as the predictor leaves it, its counts, and ACTIVE and MISSED, of the dense vector
at INNER_W, where it is to be audited (R176, R180). -/
def expertInner (c : Ctx) (di : Nat) (d : Desc) (e : Nat) (b : Bank) (audit : Bool) (xs : List Int) : Inner :=
  if d.predicts then
    let pr := predict c di d e b xs
    let on (i : Nat) : Bool := pr.1.contains i
    let r := innerVec d e b (d.readW 2) on xs
    let dense := if audit then (innerVec d e b (fun _ => d.innerW) keepAll xs).1 else []
    let live := (dense.zipIdx.filter (fun u => u.1 != 0)).map (·.2)
    ⟨r.1, r.2.plus ⟨pr.2, 0⟩, live.length, (live.filter (fun i => !on i)).length, pr.1⟩
  else
    let r := innerVec d e b (d.readW 2) keepAll xs
    ⟨r.1, r.2, 0, 0, []⟩

/-- The accs that a record's values stand for (R110, R314). -/
def ReduceRec.accs (x : ReduceRec) : List Int := x.vals.map (fun v => v * 2 ^ x.shift)

/-- Leaves of the down reduction of shared expert e on each rank that holds chunks of it (R153). -/
def downLeaves (d : Desc) (n e : Nat) : List (Nat × Nat) :=
  (expertRanks d n e).map (fun r => (r, leafCount (rankChunks d n r e).2))

/-- The children of position j in the tree of R109 over m ranks, in level order, each with the size of its subtree. -/
def treeChildren (j m : Nat) : List (Nat × Nat) :=
  (List.range 7).filterMap (fun l =>
    if j % 2 ^ (l + 1) = 0 ∧ j + 2 ^ l < m then some (j + 2 ^ l, Nat.min (2 ^ l) (m - (j + 2 ^ l))) else none)

/-- The parent of position j in the tree of R109: j without its lowest set bit. -/
def treeParent (j : Nat) : Nat :=
  ((List.range 7).find? (fun l => j.testBit l)).elim 0 (fun l => j - 2 ^ l)

/-- The position of a rank among the ranks that hold chunks of shared expert e (R109). -/
def treePlace (d : Desc) (n e rank : Nat) : Option Nat := (expertRanks d n e).findIdx? (· == rank)

/-- The rank to which a rank sends its DIR 0 records of shared expert e (R109). -/
def upTo (d : Desc) (n rank e : Nat) : Option Nat :=
  match treePlace d n e rank with
  | some (j + 1) => (expertRanks d n e)[treeParent (j + 1)]?
  | _ => none

/-- The rank from which a rank gets its DIR 1 records of shared expert e (R110, R154). -/
def downFrom (d : Desc) (n rank e : Nat) : Option Nat :=
  match treePlace d n e rank with
  | some 0 => none
  | some (j + 1) => (expertRanks d n e)[treeParent (j + 1)]?
  | none => (expertRanks d n e).head?

/-- The record of shared expert e among those of one direction, token and output block from rank `r`: a record names no expert,
and a rank's records of one token and block follow its experts in ascending order (R314; DESIGN CHOICE,
notes/assumptions/14.md). `same` tells the experts whose records that rank sends to this one. -/
def Ctx.recordOf (c : Ctx) (dir di token ob e r : Nat) (same : Nat → Bool) : Option ReduceRec :=
  (c.reduces.filter (fun x => x.rank == r && x.dir == dir && x.desc == di && x.token == token && x.block == ob))[
    ((List.range e).filter same).length]?

/-- The DIR 0 record of an expert from rank `r`, once it has arrived (R109, R314). -/
def Ctx.partialsFrom (c : Ctx) (di : Nat) (d : Desc) (token ob e r : Nat) : Option ReduceRec :=
  c.recordOf 0 di token ob e r (fun k => upTo d c.n r k == some c.rank)

/-- The DIR 1 record of an expert, once it has arrived (R110, R314). -/
def Ctx.finalFrom (c : Ctx) (di : Nat) (d : Desc) (token ob e : Nat) : Option ReduceRec :=
  match downFrom d c.n c.rank e with
  | none => none
  | some r => c.recordOf 1 di token ob e r (fun k => downFrom d c.n c.rank k == some r)

/-- What the ranks make of one reduction (R107-R110): the accs this rank gives its requantiser, none while another rank's
record has still to arrive; the saturations it counts; and the records it sends. -/
structure Reduced where
  accs : Option (List Int)
  sats : Nat
  sends : List Out
  deriving DecidableEq, Repr

/-- A subtree's sums as they are sent, under a common shift: values, shift, saturations (R109). -/
def sendSums (ssub : List Int) (leaves sh : Nat) : List Int × Nat × Nat :=
  let sent := ssub.map (fun s => sendPartial s leaves sh)
  (sent.map (·.1), (sent.map (fun x => x.2.1)).headD sh, sumN (sent.map (fun x => x.2.2)))

/-- What the ranks make of the module sums `base` of this rank, which is number `j` among those that hold leaves (R109,
R110, R154). -/
def acrossRanks (c : Ctx) (di token : Nat) (d : Desc) (e ob sh j sats : Nat) (base : List Int) : Reduced :=
  let rs := downLeaves d c.n e
  let rec_ (dir shift to_ : Nat) (vals : List Int) : Out := .reduce c.job to_ ⟨c.rank, c.step, di, token, ob, shift, dir, vals⟩
  let rank (k : Nat) : Nat := (rs.getD k (0, 0)).1
  let kids := treeChildren j rs.length
  let inc := kids.map (fun k => c.partialsFrom di d token ob e (rank k.1))
  if inc.any Option.isNone then ⟨none, 0, []⟩
  else
    let ssub := base.zipIdx.map (fun b =>
      b.1 + sumI (inc.map (fun v => match v with
        | some x => x.vals.getD b.2 0 * 2 ^ (x.shift - sh)
        | none => 0)))
    let under := (rs.getD j (0, 0)).2 + sumN (kids.map (fun k => sumN (((rs.drop k.1).take k.2).map (·.2))))
    let up := sendSums ssub under sh
    if j = 0 then
      let outside := c.others.filter (fun r => !(rs.any (fun x => x.1 == r)))
      ⟨some (up.1.map (fun v => v * 2 ^ up.2.1)), sats + up.2.2,
        (kids.map (fun k => rec_ 1 up.2.1 (rank k.1) up.1)) ++ outside.map (fun r => rec_ 1 up.2.1 r up.1)⟩
    else
      let down := match c.finalFrom di d token ob e with
        | some x => kids.map (fun k => rec_ 1 x.shift (rank k.1) x.vals)
        | none => []
      ⟨(c.finalFrom di d token ob e).map ReduceRec.accs, sats + up.2.2, rec_ 0 up.2.1 (rank (treeParent j)) up.1 :: down⟩

/-- The down sums of one shared expert for one output block over every rank (R107-R110, R153, R154). `own` holds the leaves'
accs. In a job of several ranks whose leaves of a reduction all lie on one, that rank rounds its sum as the root of R110 does,
uses it itself and sends it to the others, so that every rank holds one value (R154; DESIGN CHOICE,
notes/assumptions/86.md). -/
def downReduce (c : Ctx) (di token : Nat) (d : Desc) (e ob sh : Nat) (own : List (List Int)) : Reduced :=
  let rs := downLeaves d c.n e
  match rs.findIdx? (fun r => r.1 == c.rank) with
  | none => ⟨(c.finalFrom di d token ob e).map ReduceRec.accs, 0, []⟩
  | some j =>
    if sumN (rs.map (·.2)) = 1 ∧ c.n = 1 then ⟨some (own.headD []), 0, []⟩
    else
      let base := (List.range 256).map (fun i =>
        let ps := own.map (fun l => partialOf (l.getD i 0) sh)
        (sumI (ps.map (·.1)), sumN (ps.map (·.2))))
      let sats := sumN (base.map (·.2))
      if c.n = 1 then ⟨some (base.map (fun b => b.1 * 2 ^ sh)), sats, []⟩
      else acrossRanks c di token d e ob sh j sats (base.map (·.1))

/-- What one shared expert adds for one token: acc × C by row, none while a record has still to arrive; its counts, blocks that
saturated, records, and its inner work. -/
structure Part1 where
  rows : Option (List Int)
  tal : Tal
  trig : List Nat
  sends : List Out
  inner : Inner
  deriving DecidableEq, Repr

/-- Nothing of an expert on this rank. -/
def Inner.none : Inner := ⟨[], Tal.zero, 0, 0, []⟩

/-- Exactly n integers. -/
def fitInts (n : Nat) (xs : List Int) : List Int := xs.take n ++ List.replicate (n - (xs.take n).length) 0

/-- Every item, once all are there. -/
def allSome {α : Type} : List (Option α) → Option (List α)
  | [] => some []
  | none :: _ => none
  | some x :: xs => (allSome xs).map (x :: ·)

/-- One shared expert for one token (R135, R152, R439). -/
def sharedExpert (c : Ctx) (di : Nat) (d : Desc) (t : PTok) (h : Nat) (audit : Bool) (e : Nat) (b : Bank) (xs : List Int) :
    Part1 :=
  let inner := if b.gate = [] then Inner.none else expertInner c di d e b audit xs
  let obs := (List.range (ceilDiv d.outDim 256)).map (fun ob =>
    let own := ((b.down.find? (fun x => x.ob == ob)).elim [] (·.leaves)).map (fun l => l.accs inner.us)
    (ob, downReduce c di t.i d e ob (d.shiftOf h d.lsh e 2 ob) own))
  let rows := (allSome (obs.map (fun o => o.2.accs))).map (fun as_ => (as_.flatMap (fitInts 256)).take d.outDim)
  ⟨rows.map (fun rs => rs.zipIdx.map (fun r => r.1 * d.matScale e 2 r.2)),
   inner.tal.plus ⟨sumN (obs.map (fun o => o.2.sats)), 0⟩,
   (obs.filter (fun o => o.2.sats != 0)).map (fun o => o.1 / 4), obs.flatMap (fun o => o.2.sends), inner⟩

/-- The records of experts in order, up to the first that still waits for another rank: a rank's records follow its experts
(notes/assumptions/14.md). -/
def orderedSends : List Part1 → List Out
  | [] => []
  | p :: ps => p.sends ++ (if p.rows.isSome then orderedSends ps else [])

/-- One token of a shared bank: z = T × Σ acc_e × C_e over the experts in order (R135), with the work of each expert. -/
def sharedTok (c : Ctx) (di : Nat) (d : Desc) (banks : List (Nat × Bank)) (audit : Bool) (t : PTok) (x : Val) :
    (Val × Note) × List (Nat × Inner) :=
  let h := (c.scaleFor di d t.t.seq).2
  let ps := banks.map (fun b => (b.1, sharedExpert c di d t h audit b.1 b.2 x.ys))
  let sends := orderedSends (ps.map (·.2))
  let inner := ps.map (fun p => (p.1, p.2.inner))
  match allSome (ps.map (fun p => p.2.rows)) with
  | none => ((Val.none, ⟨0, [], Tal.zero, sends⟩), inner)
  | some rs =>
    let rows := rs.foldl (List.zipWith (· + ·)) (List.replicate d.outDim 0)
    let o := writeOut c di d t (rows.zipIdx.map (fun r => (r.2, r.1)))
    let own := if c.rank = 0 then o.2 else { o.2 with tal := Tal.zero }
    ((o.1, { own with tal := own.tal.plus (Tal.sum (ps.map (fun p => p.2.tal))), trig := own.trig ++ ps.flatMap (fun p => p.2.trig),
                      sends := own.sends ++ sends }), inner)

/-- The token the audit of a step starts at, when the step is an audit step (R179). -/
def Ctx.auditAt (c : Ctx) : Option Nat := if c.step % 256 = 0 ∧ 0 < c.nTok then some (c.step / 256 % c.nTok) else none

/-- The neurons active for at least one of some tokens' work at an expert. -/
def unionRows (ws : List Inner) : List Nat := (ws.flatMap (·.on)).eraseDups

/-- Every inner neuron. -/
def Desc.allInner (d : Desc) : List Nat := List.range d.inner

/-- A shared bank (R135, R190): every token of the step visits every expert; an audit step reads the gate and up blocks whole
(R179). -/
def evalShared (c : Ctx) (di : Nat) (d : Desc) (toks : List PTok) (p : Pass) : Pass :=
  let banks := (List.range d.copies).map (fun e => let k := rankChunks d c.n c.rank e; (e, c.bank di d e k.1 k.2))
  let ok := (p.slot d.srcA).all (·.ok)
  let rs := (toks.zip (p.slot d.srcA)).map (fun x =>
    let a := d.predicts && c.auditAt == some x.1.i
    (x.1.i, a, if x.2.ok then sharedTok c di d banks a x.1 x.2 else (pendingOut, [])))
  let works (e : Nat) : List (Nat × Inner) := rs.flatMap (fun r =>
    if r.2.1 then [] else (r.2.2.2.filter (fun w => w.1 == e)).map (fun w => (r.1, w.2)))
  let dense := c.auditAt.isSome || !d.predicts
  { p.write di d.dst toks (rs.map (fun r => r.2.2.1)) with
    audits := p.audits ++ (rs.filter (fun r => r.2.1)).map (fun r =>
      ⟨di, r.1, true, sumN (r.2.2.2.map (fun w => w.2.active)), sumN (r.2.2.2.map (fun w => w.2.missed))⟩),
    unions := if ok then p.unions ++ banks.map (fun b =>
        ⟨di, b.1, !rs.isEmpty, if dense then d.allInner else unionRows ((works b.1).map (·.2)),
          if d.predicts then (works b.1).map (fun w => (w.1, w.2.on)) else []⟩)
      else p.unions }

/-- yd of one kept choice (R191): the down rows at width 16 under COMBINE_LSH, with its counts and its inner work. -/
structure Term where
  token : Nat
  expert : Nat
  yd : List Int
  tal : Tal
  trig : List Nat
  inner : Inner
  deriving DecidableEq, Repr

/-- One kept choice at its expert (R190, R191, R439). -/
def runChoice (c : Ctx) (di : Nat) (d : Desc) (clsh e : Nat) (b : Bank) (audit : Bool) (t : PTok) (x : Val) : Term :=
  let inner := expertInner c di d e b audit x.ys
  let r := tileRows d (headroom d.initMax) clsh e 2 keepAll b.down inner.us
  let y0 := (r.1.filter (fun a => decide (a.1 < d.outDim))).map (fun a => roundShift (a.2 * d.matScale e 2 a.1) clsh none)
  let f := formWide16 y0
  ⟨t.i, e, f.1, inner.tal.plus ⟨r.2.1 + f.2, 0⟩, r.2.2, inner⟩

/-- A term at its owner: the expert, the decoded values of the owner's blocks, and its place in the order of arrival. -/
structure Arrived where
  expert : Nat
  vals : List (Nat × Int)
  place : Nat
  deriving DecidableEq, Repr

/-- The terms that rank `r` has sent for a token, and whether all that R194 counts have arrived: the decoded values of this
rank's own blocks. A rank's records of one token follow its kept choices in ascending expert order
(notes/assumptions/14.md); a term's place is that of its last record among all that have arrived. -/
def Ctx.foreignFrom (c : Ctx) (di : Nat) (d : Desc) (ne : Nat) (own : List (Nat × Nat)) (token : Nat) (cs : List Choice) (r : Nat) :
    List Arrived × Bool :=
  let idx := wispIndices own
  let u := unitsOf ne c.n r
  let es := sortBy (fun a b => decide (a ≤ b))
    ((cs.filter (fun x => x.kept && decide (u.1 ≤ x.expert ∧ x.expert < u.1 + u.2))).map (·.expert))
  let bs := (c.terms.zipIdx.filter (fun g => g.1.rank == r && g.1.desc == di && g.1.token == token)).flatMap (fun g =>
    g.1.blocks.map (fun b => (b, g.2)))
  (es.zipIdx.map (fun e =>
    let mine := (bs.drop (e.2 * idx.length)).take idx.length
    ⟨e.1, (mine.zip idx).flatMap (fun b =>
      ((wispDecode (wispFmt d.wisp3) b.1.1).map wispRound).zipIdx.map (fun v => (64 * b.2 + v.2, v.1))),
     2 * (mine.getLast?.elim 0 (·.2)) + 1⟩), decide (es.length * idx.length ≤ bs.length))

/-- Add the terms of one element: modulo 2^48, or by the float adders in the order in which they arrived (R193, R195). -/
def combineSum (mode : Nat) (ts : List Int) : Int :=
  match mode with
  | 0 => ts.foldl (fun s t => wrap48 (s + t)) 0
  | 1 => FloatFmt.binary32.toAcc (ts.foldl (fun s t => (FloatFmt.binary32.add s (FloatFmt.binary32.ofTerm t)).word) 0)
  | _ => FloatFmt.bfloat16.toAcc (ts.foldl (fun s t => (FloatFmt.bfloat16.add s (FloatFmt.bfloat16.ofTerm t)).word) 0)

/-- One token's combine on this rank: own rows of the sum, with the saturations of forming the terms (R191, R193). -/
def combineTok (mode outDim : Nat) (own : List (Nat × Nat)) (rt : Route) (ts : List Arrived) : List (Nat × Int) × Nat :=
  let terms := (sortBy (fun a b => decide (a.place ≤ b.place)) ts).map (fun y =>
    let g := ((rt.choices.find? (fun x => x.kept && x.expert == y.expert)).elim lnsZero (·.gate))
    y.vals.filterMap (fun v =>
      if inRanges own v.1 ∧ v.1 < outDim then
        let r := ((entryWord v.2 tokOne).bind (fun a => lnsMul a g)).bind (fun a => lnsMul a rt.k)
        some (v.1, lnsAlign r.1 16, r.2)
      else none))
  let rows := own.flatMap (fun r => List.range' r.1 (r.2 - r.1))
  let cols := terms.map (fun t => t.map (fun x => x.2.1))
  (rows.zipIdx.map (fun o => (o.1, combineSum mode (cols.map (fun col => col.getD o.2 0)))),
   sumN (terms.map (fun t => sumN (t.map (fun x => x.2.2)))))

/-- The ROUTE whose value stands in a bank's SRC_B (R119, R130): its index, COMBINE, COMBINE_LSH and N_EXPERTS. -/
def Pass.routeOf (p : Pass) (ds : List Desc) (d : Desc) : Option (Nat × Nat × Nat × Nat) :=
  match p.writer.find? (fun w => w.1 == d.srcB) with
  | none => none
  | some w => match ds[w.2]? with
    | none => none
    | some x => match x.par with
      | .route ne _ _ _ cb _ _ cl => some (w.2, cb, cl, ne)
      | _ => none

/-- The TERM records of one kept choice, each owner's own blocks to the owner (R192, R315). -/
def termSends (c : Ctx) (di : Nat) (d : Desc) (x : Term) : List Out :=
  let bs := wispBlocks (wispFmt d.wisp3) x.yd
  c.others.flatMap (fun r =>
    let idx := wispIndices (ownRows c.env.graph.descs c.n r di)
    (gatherRecs c di x.token tokOne d.wisp3 idx bs).map (fun g => .term c.job r g))

/-- One token's output of a routed bank, once every term that R194 counts has arrived: this rank's own terms, whose place among
the others is the controller's (R195), and the other ranks'. -/
def routedTok (c : Ctx) (di : Nat) (d : Desc) (mode ne : Nat) (own : List (Nat × Nat)) (t : PTok) (rt : Route) (ts : List Term) :
    Val × Note :=
  let mine : List Arrived := ts.zipIdx.map (fun x =>
    ⟨x.1.expert, ((wispRoundtrip (wispFmt d.wisp3) x.1.yd).zipIdx.map (fun v => (v.2, v.1))).filter (fun v => inRanges own v.1),
     2 * (Config.termArrival c.draw t.i x.2 % (c.terms.length + 1))⟩)
  let theirs := c.others.map (c.foreignFrom di d ne own t.i rt.choices)
  let sends := ts.flatMap (termSends c di d)
  if theirs.all (·.2) then
    let s := combineTok mode d.outDim own rt (mine ++ theirs.flatMap (fun x => x.1.map (fun y =>
      { y with vals := y.vals.filter (fun v => inRanges own v.1) })))
    let o := writeOut c di d t s.1
    (o.1, { o.2 with tal := (o.2.tal.plus (Tal.ofSats s.2)).plus (Tal.sum (ts.map (·.tal))),
                     trig := o.2.trig ++ ts.flatMap (·.trig), sends := sends ++ o.2.sends })
  else (Val.none, ⟨0, [], Tal.zero, sends⟩)

/-- The token that a routed bank's audit takes: from the audit's token on, wrapping, the first with a kept choice, with that
choice's expert (R179). -/
def routedAudit (c : Ctx) (rts : List (Nat × Route)) : Option (Nat × Nat) :=
  match c.auditAt with
  | none => none
  | some a => (List.range c.nTok).findSome? (fun k =>
      (rts.find? (fun x => x.1 == (a + k) % c.nTok)).bind (fun x => (x.2.choices.find? (·.kept)).map (fun y => (x.1, y.expert))))

/-- A routed bank (R190-R195): each expert of this rank runs over its token list; an expert whose list is empty runs and fetches
nothing. The audited pair's expert reads its gate and up blocks whole (R179). -/
def evalRouted (c : Ctx) (di : Nat) (d : Desc) (toks : List PTok) (p : Pass) : Pass :=
  let xs := p.slot d.srcA
  match p.routeOf c.env.graph.descs d with
  | none => p.write di d.dst toks (toks.map (fun _ => pendingOut))
  | some (ri, mode, clsh, ne) =>
    let routes := lookupD [] ri p.routes
    if xs.all (·.ok) = false ∨ routes.length ≠ toks.length then p.write di d.dst toks (toks.map (fun _ => pendingOut))
    else
      let u := unitsOf ne c.n c.rank
      let own := ownRows c.env.graph.descs c.n c.rank di
      let jobs := toks.zip (xs.zip routes)
      let hit := if d.predicts then routedAudit c (jobs.map (fun j => (j.1.i, j.2.2))) else none
      let runs := (List.range' u.1 u.2).map (fun e =>
        let mine := jobs.filter (fun j => j.2.2.choices.any (fun x => x.kept && x.expert == e))
        (e, if mine.isEmpty then []
            else
              let b := c.bank di d e 0 (ceilDiv d.inner 1024)
              mine.map (fun j => runChoice c di d clsh e b (hit == some (j.1.i, e)) j.1 j.2.1)))
      let terms := runs.flatMap (·.2)
      let outs := jobs.map (fun j => routedTok c di d mode ne own j.1 j.2.2 (terms.filter (fun x => x.token == j.1.i)))
      let audits := hit.toList.map (fun x =>
        let w := (terms.find? (fun y => y.token == x.1 && y.expert == x.2)).map (·.inner)
        (⟨di, x.1, true, w.elim 0 (·.active), w.elim 0 (·.missed)⟩ : AuditRec))
      { p.write di d.dst toks outs with
        audits := p.audits ++ audits,
        unions := p.unions ++ runs.map (fun r =>
          ⟨di, r.1, !r.2.isEmpty, if hit.map (·.2) = some r.1 ∨ d.predicts = false then d.allInner
            else unionRows (r.2.map (·.inner)),
           if d.predicts then (r.2.filter (fun t => hit != some (t.token, r.1))).map (fun t => (t.token, t.inner.on)) else []⟩) }

/-! ## SELECT (R136) -/

/-- One selection: the token chosen, and the saturations (R136). -/
def selectTok (di k invTemp : Nat) (t : Tok) (x : Val) : Nat × Nat :=
  let cand := topIndices (Nat.max 1 k) x.ys
  let first := cand.headD 0
  if k ≤ 1 then (first, 0)
  else
    let y0 := x.ys.getD first 0
    let w := cand.map (fun c =>
      let r := ((entryWord (x.ys.getD c 0 - y0) x.tokw).bind (fun a => lnsMul a invTemp)).bind (fnTable .exp)
      (c, lnsAlign r.1 30, r.2))
    let total := sumI (w.map (fun y => y.2.1))
    let u : Int := (lfsrValue t.seq t.pos di 0xFFFF : Nat)
    let hit := w.foldl (fun (s : Int × Option Nat) y =>
      match s.2 with
      | some _ => s
      | none =>
        let r := s.1 + y.2.1
        (r, if u * total < r * 65536 then some y.1 else none)) (0, none)
    (hit.2.getD (cand.getLastD 0), sumN (w.map (fun y => y.2.2)))

/-- SELECT at every token marked to emit (R136, R142, R240). -/
def evalSelect (c : Ctx) (di : Nat) (d : Desc) (toks : List PTok) (p : Pass) : Pass :=
  let kt : Nat × Nat := match d.par with | .select k t => (k, t) | _ => (0, lnsZero)
  let rs := ((toks.zip (p.slot d.srcA)).filter (fun x => x.1.t.emit && x.2.ok)).map (fun x =>
    let k := if x.1.t.topk = 0 then kt.1 else x.1.t.topk
    let iv := if x.1.t.invTemp = 0x4000 then kt.2 else x.1.t.invTemp
    (x.1.i, selectTok di k iv x.1.t x.2))
  { p.tally di (c.vecTal (Tal.ofSats (sumN (rs.map (fun r => r.2.2))))) with
    selected := p.selected ++ rs.map (fun r => (r.1, r.2.1)) }

/-! ## A pass and a step -/

/-- One descriptor over a pass (R119). -/
def evalDesc (c : Ctx) (toks : List PTok) (p : Pass) (x : Desc × Nat) : Pass :=
  match x.1.opcode with
  | 1 => evalEmbed c x.2 x.1 toks p
  | 2 => evalProject c x.2 x.1 toks p
  | 3 => evalNorm c x.2 x.1 toks p
  | 4 => evalAct c x.2 x.1 toks p
  | 5 => evalAdd c x.2 x.1 toks p
  | 6 => evalAttend c x.2 x.1 toks p
  | 7 => evalRoute c x.2 x.1 toks p
  | 8 => if x.1.routed then evalRouted c x.2 x.1 toks p else evalShared c x.2 x.1 toks p
  | _ => evalSelect c x.2 x.1 toks p

/-- Every descriptor in array order over a list of tokens (R119); slots and routing records start empty. -/
def evalPass (c : Ctx) (toks : List PTok) (p : Pass) : Pass :=
  (c.env.graph.descs.zipIdx).foldl (evalDesc c toks) { p with slots := [], writer := [], routes := [] }

/-- The tokens of a step with their work-list indices. -/
def indexed (toks : List Tok) : List PTok := toks.zipIdx.map (fun t => ⟨t.2, t.1⟩)

/-- The tokens of pass r of a draft step (R245): prefill tokens in pass 1, and the r-th token of each decode sequence,
fed the selection of the pass before. -/
def draftPassToks (lens : List LenRec) (toks : List PTok) (r : Nat) (p : Pass) : List PTok :=
  lens.flatMap (fun l =>
    if l.count ≠ l.spec + 1 then (if r = 1 then (toks.drop l.first).take l.count else [])
    else if r ≤ l.count then
      ((toks.drop (l.first + r - 1)).take 1).map (fun t =>
        if r = 1 then t else { t with t := { t.t with token := lookupD 0 (l.first + r - 2) p.selected } })
    else [])

/-- The passes of a draft step, `fuel` of them from pass r (R245); a pass begins when the one before has selected. -/
def evalDraft (c : Ctx) (lens : List LenRec) (toks : List PTok) : Nat → Nat → Pass → Pass
  | 0, _, p => p
  | fuel + 1, r, p => if p.done then evalDraft c lens toks fuel (r + 1) (evalPass c (draftPassToks lens toks r p) p) else p

/-- The numbers counted for a descriptor (R372). -/
def tallyOf (p : Pass) (audit : Option (Nat × Nat)) (di : Nat) : DescTally :=
  let t := Tal.sum ((p.tals.filter (fun x => x.1 == di)).map (·.2))
  let ds := p.drops.filter (fun x => x.1 == di)
  let a := audit.getD (0, 0)
  ⟨t.clamps, t.sats, sumN (ds.map (fun x => x.2.1)), sumN (ds.map (fun x => x.2.2)), a.1, a.2⟩

/-- The audited pair's counts for a descriptor: the first token from the audit index on, wrapping, with a kept choice
(R179). -/
def auditOf (c : Ctx) (p : Pass) (di : Nat) : Option (Nat × Nat) :=
  match c.auditAt with
  | none => none
  | some a =>
    let rs := p.audits.filter (fun x => x.desc == di)
    ((List.range c.nTok).findSome? (fun k => rs.find? (fun x => x.token == (a + k) % c.nTok && x.has))).map
      (fun x => (x.active, x.missed))

/-- Gather a pass into the staged results of a step (R144). -/
def resultsOf (c : Ctx) (lens : List LenRec) (draft : Bool) (p : Pass) : Results :=
  let ds := c.env.graph.descs
  { selected := p.selected,
    stats := lens.map (fun l => (l.seq, (ds.zipIdx.filter (fun x => x.1.tscale && x.1.opcode != 9)).map (fun x =>
      (x.2, maxN ((p.ms.filter (fun m => m.1 == x.2 && m.2.1 == l.seq)).map (fun m => m.2.2)))))),
    trigs := lens.map (fun l => (l.seq, (ds.zipIdx.filter (fun x => decide (2 ≤ x.1.outW ∧ x.1.outW ≤ 8))).map (fun x =>
      (x.2, (List.range (ceilDiv x.1.outDim 1024)).map (fun b => p.trigs.contains (x.2, l.seq, b)))))),
    tally := ds.zipIdx.map (fun x => (x.2, tallyOf p (auditOf c p x.2) x.2)),
    kv := p.kv,
    drafts := if draft then (lens.filter (fun l => !c.prefill.contains l.seq)).map (fun l =>
        (l.seq, (List.range l.spec).map (fun r => lookupD 0 (l.first + r) p.selected))) else [],
    routing := p.records }

/-- The evaluation of a step on this rank as far as the records that have arrived let it run (R103, R119, R245). Everything lies
in State or in a list of values: the model spills nothing to class A or S memory on the way, so that R44 and R67 encode nothing
there (DESIGN CHOICE, notes/assumptions/86.md). -/
def evalRun (c : Ctx) (lens : List LenRec) (draft : Bool) (toks : List Tok) : Pass :=
  let ts := indexed toks
  if draft then evalDraft c lens ts (maxN (lens.map (·.spec)) + 1) 1 Pass.start else evalPass c ts Pass.start

/-- A step's results, once nothing that it waits for is missing, and the records this rank sends (R119, R147, R245). -/
def evalStep (c : Ctx) (lens : List LenRec) (draft : Bool) (toks : List Tok) : Option Results × List Out :=
  let p := evalRun c lens draft toks
  (if p.done then some (resultsOf c lens draft p) else none, p.sends)

end Sys2Proof.Machine
end

