-- ==== Sys2Proof/Machine/Commands.lean ====
section
/-! DEFINITION. The mailbox command as the module takes it (R337-R345): header checks, bodies, scope, areas, and the two
ways a command is answered. -/
namespace Sys2Proof.Machine

/-! ## The header (R337, R339, R343) -/

/-- The command codes of R343. -/
def commandCodes : List Nat :=
  [0x01, 0x02, 0x10, 0x11, 0x12, 0x13, 0x20, 0x21, 0x22, 0x30, 0x31, 0x32, 0x33, 0x34, 0x35, 0x36, 0x40, 0x50, 0x51, 0x60,
   0x61, 0x62, 0x70, 0x80]

/-- The status R339 gives a flipped header that is malformed, or whose CODE is in no row of R343. -/
def headerFault (h : Bytes) : Option Nat :=
  if u64 h 0 ≠ 1 ∨ u16 h 0x16 ≠ 1 ∨ 16320 < hdrBodyLen h ∨ u16 h 0x1A ≠ 0 ∨ zeroAt h 0x34 12 = false then some 0x8001
  else if commandCodes.contains (hdrCode h) then none
  else some 0x8002

/-- The command that stands flipped in a mailbox (R338). -/
def State.flipped (s : State) (p : PartId) (m : BoxId) : Cmd :=
  let h := s.header p m
  ⟨p, m, hdrCode h, u32 h 0x10, u32 h 0x0C, (s.box p m).flipTime, s.boxBody p m, false, [], [], [], []⟩

/-- Does the control core find a command to serve in a mailbox: flipped, not yet taken, and its header well formed? -/
def State.waits (s : State) (p : PartId) (m : BoxId) : Bool :=
  s.serves && s.enabled p && (s.box p m).owned && !(s.box p m).taken

/-! ## Bodies (R339) -/

/-- A fixed layout of a body: field offsets and lengths, in order. -/
abbrev Fields := List (Nat × Nat)

/-- The length a layout needs. -/
def Fields.length (f : Fields) : Nat := maxN (f.map (fun x => x.1 + x.2))

/-- The first field that a body does not wholly hold, else the lowest field that breaks a check (R339). -/
def bodyFault (body : Bytes) (f : Fields) (checks : List (Nat × Bool)) : Option Result :=
  match f.find? (fun x => decide (body.length < x.1 + x.2)) with
  | some x => some (failAt 0x8003 x.1)
  | none => (firstBad checks).map (failAt 0x8003)

/-- Is a 64-bit member form well formed: reserved bits 0 (R344)? Checks at offset `o`. -/
def memberChecks (body : Bytes) (o : Nat) : List (Nat × Bool) :=
  [(o, decide (u16 body o < 4096)), (o + 3, u8 body (o + 3) == 0), (o + 6, u16 body (o + 6) == 0)]

/-- The member at offset `o` (R344). -/
def memberAt (body : Bytes) (o : Nat) : Member := ⟨u16 body o % 4096, u8 body (o + 2), u16 body (o + 4)⟩

/-- The fixed layout of each command's body (R139, R344-R346, R348). -/
def bodyFields : Nat → Fields
  | 0x01 => [(0, 4)]
  | 0x02 => [(0, 4), (4, 4)]
  | 0x10 => [(0, 4), (4, 4)]
  | 0x11 => [(0, 4), (4, 4)]
  | 0x12 => [(0, 4), (4, 4), (8, 1), (9, 1), (0x0A, 2), (0x0C, 4), (0x10, 4)]
  | 0x13 => [(0, 4), (4, 4)]
  | 0x20 => [(0, 4), (4, 4), (8, 4), (0x0C, 1), (0x0D, 1), (0x0E, 2), (0x10, 4), (0x14, 4), (0x18, 4), (0x1C, 4), (0x20, 32)]
  | 0x30 => [(0, 4), (4, 2), (6, 2), (8, 1), (9, 3), (0x0C, 4), (0x10, 4), (0x14, 44)]
  | 0x31 => [(0, 4), (4, 1), (5, 1), (6, 1), (7, 1), (8, 4), (0x0C, 4), (0x10, 2), (0x12, 2), (0x14, 4), (0x18, 4), (0x1C, 4),
             (0x20, 4), (0x24, 4), (0x28, 4), (0x2C, 4), (0x30, 2), (0x32, 2), (0x34, 4), (0x38, 8)]
  | 0x32 => [(0, 4)]
  | 0x33 => [(0, 4)]
  | 0x34 => [(0, 4)]
  | 0x35 => [(0, 4), (4, 4), (8, 4), (0x0C, 4), (0x10, 8)]
  | 0x36 => [(0, 4), (4, 4), (8, 4), (0x0C, 4), (0x10, 8)]
  | 0x40 => [(0, 8), (8, 2), (0x0A, 2), (0x0C, 4), (0x10, 4), (0x14, 2), (0x16, 10)]
  | 0x50 => [(0, 1), (1, 1), (2, 2), (4, 4), (8, 4)]
  | 0x51 => [(0, 4), (4, 4)]
  | 0x60 => [(0, 4), (4, 4), (8, 4)]
  | 0x61 => [(0, 8), (8, 4), (0x0C, 4)]
  | 0x70 => [(0, 32), (0x20, 4)]
  | 0x80 => [(0, 4), (4, 4), (8, 2), (0x0A, 2), (0x0C, 2), (0x0E, 2), (0x10, 8), (0x18, 4)]
  | _ => []

/-! ## Scope and rights (R334, R335, R339, R343) -/

/-- A command without job scope must carry JOB 0. -/
def noScope (c : Cmd) : Option Result := if c.job = 0 then none else some (failAt 0x8003 0x10)

/-- The open job of the caller that a command of job scope names; a lost job fails every command (R327, R339). -/
def State.scoped (s : State) (c : Cmd) : Except Result Job :=
  if c.job = 0 then .error (failAt 0x8003 0x10)
  else match s.job c.job with
    | none => .error (fail 0x8005)
    | some j => if j.part ≠ c.p then .error (fail 0x8005) else if j.lost then .error (fail 0x8207) else .ok j

/-- The failure that scope gives, if any. -/
def scopeFault (x : Except Result Job) : Option Result := match x with | .error r => some r | .ok _ => none

/-- The first failure of a list of checks in order. -/
def firstFault (xs : List (Option Result)) : Option Result := xs.findSome? id

/-- A right that a partition may lack (R335). -/
def needs (right : Bool) : Option Result := if right then none else some (fail 0x8004)

/-- A status as a failure. -/
def statusFault (x : Option Nat) : Option Result := x.map fail

/-! ## Graphs that a partition may name (R336) -/

/-- The graph of an id that a partition holds, or the shared one. -/
def State.graphOf (s : State) (p : PartId) (id : Nat) : Option Graph :=
  s.graphs.find? (fun g => g.id == id && (g.shared || g.owner == p.val))

/-! ## Areas (R341) -/

/-- One token entry of 16 bytes (R140). -/
def tokenEntry (bs : Bytes) (k : Nat) : Bytes := sub bs (16 * k) 16

/-- Bytes of a record of READ_COUNTERS by KIND (R341). -/
def counterBytes : Nat → Nat
  | 0 => 128
  | 1 => 576
  | 2 => 128
  | 3 => 64
  | 4 => 320
  | _ => 0

/-- The length of an ATTEST report with both certificates (R386). -/
def State.attestBytes (s : State) : Nat := 0x4468 + s.flash.certRsa.length + s.flash.certSlh.length

/-- The length of a manifest (R387). -/
def manifestBytes : Nat := 0x43E0

/-- The bytes of one accumulator tile (R38). -/
def tileBytes : Nat := 0x6000

/-- How many tiles a mask of 64 bits requests. -/
def popcount64 (x : Nat) : Nat := ((List.range 64).filter (fun i => x.testBit i)).length

/-- The records a PLACE preview writes for the graphs it names; none where a graph is unknown (R171). -/
def State.previewRecords (s : State) (p : PartId) (id draft : Nat) : Option Nat :=
  match s.graphOf p id, (if draft = 0 then some 0 else (s.graphOf p draft).map (fun g => g.descs.length)) with
  | some g, some n => some (g.descs.length + n)
  | _, _ => none

/-- The bytes of an image's area: IMAGE_BYTES; where that is no image length, what it covers of the window (R341). -/
def imageArea (r : PartRec) (slot n : Nat) : Nat :=
  if imageBytesOk n then n
  else Nat.max 64 (Nat.min (Nat.min n 0x1000000) ((r.slots - slot) * r.slotSize))

/-- An area of a body of some length: it is named where its fields, which end at `e`, lie wholly within the body (R341,
notes/assumptions/8.md). An area whose length cannot be formed is named with one byte. -/
def areaIf (b : Bytes) (e : Nat) (a : Area) : List Area :=
  if b.length < e then [] else [a]

/-- The output area of RUN_STEP: 16 bytes for each entry with EMIT = 1 (R341). -/
def State.emitArea (s : State) (p : PartId) (b : Bytes) : List Area :=
  let n := u16 b 4
  let bs := s.slotRead p (u32 b 0x10) (16 * n)
  let emits := ((List.range n).filter (fun k => bit (u8 (tokenEntry bs k) 0x0C) 0)).length
  if b.length < 0x14 ∨ emits = 0 then [] else [⟨u32 b 0x0C, 16 * emits⟩]

/-- The areas a command names, inputs and outputs (R341). -/
def State.areasOf (s : State) (p : PartId) (code : Nat) (b : Bytes) : List Area :=
  match code with
  | 0x01 => areaIf b 4 ⟨u32 b 0, 256⟩
  | 0x02 => areaIf b 8 ⟨u32 b 0, u32 b 4⟩
  | 0x10 => areaIf b 4 ⟨u32 b 0, imageArea (s.planRec p) (u32 b 0) (u32 (s.slotRead p (u32 b 0) 64) 0x0C)⟩
  | 0x11 => areaIf b 8 ⟨u32 b 0, u32 b 4⟩
  | 0x12 =>
    if bit (u8 b 0) 0 then []
    else areaIf b 0x14 ⟨u32 b 0x0C, (match s.previewRecords p (u32 b 4) (u32 b 0x10) with | some n => 32 * n | none => 1)⟩
  | 0x13 => areaIf b 8 ⟨u32 b 0, u32 b 4 * (s.planRec p).slotSize⟩
  | 0x30 => areaIf b 0x14 ⟨u32 b 0x10, 16 * u16 b 4⟩ ++ s.emitArea p b
  | 0x31 => areaIf b 0x38 ⟨u32 b 0x34, 4 * u32 b 8⟩
  | 0x50 => areaIf b 0x0C ⟨u32 b 8, Nat.max 1 (counterBytes (u8 b 0 % 16))⟩
  | 0x51 => areaIf b 8 ⟨u32 b 0, 64 * u32 b 4⟩
  | 0x60 => areaIf b 8 ⟨u32 b 0, u32 b 4⟩ ++ areaIf b 0x0C ⟨u32 b 8, manifestBytes⟩
  | 0x70 => areaIf b 0x24 ⟨u32 b 0x20, s.attestBytes⟩
  | 0x80 =>
    if u8 b 0 % 4 = 1 then
      areaIf b 0x1C ⟨u32 b 0x18, match s.parts[p.val].snap with
        | some x => x.bytes.length + x.tiles.length * popcount64 (u64 b 0x10) * tileBytes
        | none => 1⟩
    else []
  | _ => []

/-- The areas of a command; a SCHEDULE_AT names those of its enclosed command. -/
def State.areas (s : State) (p : PartId) (code : Nat) (b : Bytes) : List Area :=
  if code = 0x40 then
    if b.length < 0x20 then [] else s.areasOf p (u16 b 0x0A) (sub b 0x20 (Nat.min (u16 b 0x14) (b.length - 0x20)))
  else s.areasOf p code b

/-- The slots of some areas that lie inside the window. -/
def slotsOfAreas (r : PartRec) (as : List Area) : List Nat :=
  (as.flatMap (fun a => List.range' a.slot (Nat.min (ceilDiv a.bytes r.slotSize) (r.slots - a.slot)))).filter
    (fun k => decide (k < r.slots))

/-- A command with the slots it names (R341). -/
def State.named (s : State) (c : Cmd) : Cmd :=
  { c with slots := slotsOfAreas (s.planRec c.p) (s.areas c.p c.code c.body) }

/-! ## Answering -/

/-- Answer a command now. -/
def State.finish (s : State) (c : Cmd) (r : Result) : State := s.answer c s.now r

/-- The areas that a command reads: how many of its areas, from the first, are inputs (R341). -/
def inputAreas : Nat → Nat
  | 0x02 => 1
  | 0x10 => 1
  | 0x11 => 1
  | 0x30 => 1
  | 0x31 => 1
  | 0x60 => 2
  | _ => 0

/-- The code whose areas a command names: that of the enclosed command for SCHEDULE_AT. -/
def Cmd.areaCode (c : Cmd) : Nat := if c.code = 0x40 then u16 c.body 0x0A else c.code

/-- The first uncorrectable burst among a command's inputs (R357). -/
def State.badInput (s : State) (c : Cmd) : Option Nat :=
  ((s.areas c.p c.code c.body).take (inputAreas c.areaCode)).findSome? (fun a => s.slotBad c.p a.slot a.bytes)

/-- Answer a failing command; an uncorrectable burst in a bulk slot posts MEMORY_ERROR (R357). -/
def State.refuse (s : State) (c : Cmd) (bad : Option Nat) (r : Result) : State :=
  match bad with
  | some a => (s.postModule (memoryError s.now 1 a)).finish c r
  | none => s.finish c r

/-- What stops a command before its work: its own check, then its slots (R341), then what its inputs read as (R357):
the result, with the address of a bad burst. -/
def State.vet (s : State) (c : Cmd) (check : Option Result) : Option (Result × Option Nat) :=
  match firstFault [check, statusFault (s.areaStatus c.p (s.areas c.p c.code c.body))] with
  | some r => some (r, none)
  | none => (s.badInput c).map (fun a => (fail 0x8007, some a))

/-- A command that commits when its work completes (R340): a failure answers at once, else the work runs. -/
def State.immediate (s : State) (c : Cmd) (check : Option Result) (run : Cmd → State → State × Result) : State :=
  let c := s.named c
  match s.vet c check with
  | some x => s.refuse c x.2 x.1
  | none => let x := run c s; x.1.finish c x.2

/-- Keep a command for a later commit; its mailbox stays the module's. -/
def State.stage (s : State) (c : Cmd) : State :=
  { s.updBox c.p c.m (fun b => { b with taken := true }) with
    cmds := s.cmds.filter (fun d => !(d.p == c.p && d.m == c.m)) ++ [c] }

/-- A command that commits at a boundary of the job it affects, or at once when that job is not active (R340, R146). -/
def State.staged (s : State) (c : Cmd) (check : Option Result) (job : Option Nat)
    (commit : Cmd → Nat → State → State) : State :=
  let c := s.named c
  match s.vet c check with
  | some x => s.refuse c x.2 x.1
  | none =>
    if job.isSome ∧ s.active = job then s.stage c
    else commit c s.now s

/-- Serve the command of one code, whose body meets a test, that stands flipped in a mailbox; any other mailbox is left
alone (R338). -/
def State.serveIf (s : State) (p : PartId) (m : BoxId) (code : Nat) (test : Bytes → Bool) (accept : Cmd → State → State) :
    State :=
  if s.waits p m = true ∧ headerFault (s.header p m) = none ∧ hdrCode (s.header p m) = code ∧ test (s.boxBody p m) = true
  then accept (s.flipped p m) s
  else s

/-- Serve the command of one code that stands flipped in a mailbox (R338). -/
def State.serve (s : State) (p : PartId) (m : BoxId) (code : Nat) (accept : Cmd → State → State) : State :=
  s.serveIf p m code (fun _ => true) accept

end Sys2Proof.Machine
end

