-- ==== Sys2Proof/Machine/Place.lean ====
section
/-! DEFINITION. Where things lie in HBM and on the cells: units and quotas (R250-R252, R334), weight blocks and stripe
parity (R159, R269-R271), KV frame pools (R201, R213), and a job's layout (R157, R158, R168-R171). -/
namespace Sys2Proof.Machine

/-! ## Weight blocks (R159, R269) -/

/-- Bytes of a block. -/
def Block.bytes (b : Block) : Nat := 64 * b.lines

/-- The home stack of a block. -/
def Block.stack (b : Block) : Nat := b.addr / stackBytes

/-- A block's offset in its stack. -/
def Block.off (b : Block) : Nat := b.addr % stackBytes

/-- The parity unit of stripe u lies on stack u mod 12 (R269). -/
def isParityUnit (stack u : Nat) : Bool := u % 12 == stack

/-- The first line offset at or after `o` on a stack from which `n` bytes meet no parity unit. -/
def skipParity (stack o n : Nat) : Nat :=
  let o := ceilDiv o 256 * 256
  let first := o / 65536
  let u := first + (stack + 12 - first % 12) % 12
  if u * 65536 < o + n then (u + 1) * 65536 else o

/-- The first gap of `n` bytes among used extents (start, end) in ascending order. -/
def gapFrom (stack n : Nat) : Nat → List (Nat × Nat) → Nat
  | o, [] => skipParity stack o n
  | o, x :: xs =>
    let c := skipParity stack o n
    if c + n ≤ x.1 then c else gapFrom stack n (Nat.max o x.2) xs

/-- The extents that blocks take on a stack, ascending. -/
def extentsOn (bs : List Block) (stack : Nat) : List (Nat × Nat) :=
  sortBy (fun a b => decide (a.1 ≤ b.1))
    ((bs.filter (fun b => b.stack == stack)).map (fun b => (b.off, b.off + b.bytes)))

/-- Bytes of blocks on a stack. -/
def blockBytesOn (bs : List Block) (stack : Nat) : Nat := sumN ((bs.filter (fun b => b.stack == stack)).map Block.bytes)

/-- The stack of a die with the fewest weight bytes, the lower number on a tie (R159). -/
def lightestStack (die : Nat) (bs : List Block) : Nat :=
  ((List.range' (6 * die) 6).foldl (fun (best : Nat × Nat) s =>
    let n := blockBytesOn bs s
    if n < best.2 then (s, n) else best) (6 * die, blockBytesOn bs (6 * die))).1

/-- The descriptor number by which the block table lists a graph's data section, which no descriptor has. -/
def dataDesc : Nat := 0xFFFF

/-- Is a block a graph's data section (R253, R363)? -/
def Block.isData (b : Block) : Bool := b.desc == dataDesc

/-- The die of the cells that consume a block of a graph; a data section lies on die 0 (R159; DESIGN CHOICE,
notes/assumptions/5.md). -/
def Graph.blockDie (g : Graph) (b : Block) : Nat := match g.descs[b.desc]? with | some d => obDie (d.obOf b.entry) | none => 0

/-- The place of a new block among those already placed: a stack of its die, and the first gap there (R159). -/
def placeBlock (die : Nat) (used : List Block) (b : Block) : Block :=
  let st := lightestStack die used
  { b with addr := st * stackBytes + gapFrom st b.bytes 0 (extentsOn used st) }

/-- Place blocks of a graph in order. -/
def placeBlocks (g : Graph) : List Block → List Block → List Block
  | _, [] => []
  | used, b :: bs => let b' := placeBlock (g.blockDie b) used b; b' :: placeBlocks g (b' :: used) bs

/-- Every weight block that takes W space: the loaded ones, those that commands have staged, and a re-placement's copies. -/
def State.allBlocks (s : State) : List Block :=
  s.blocks ++ s.cmds.flatMap (·.blocks)
    ++ s.jobs.flatMap (fun j => match j.layout.pending with | some r => r.blocks.map (·.2) | none => [])

/-- W units per stack that blocks need (R269). -/
def wUnitsOf (bs : List Block) : Nat := maxN (bs.map (fun b => ceilDiv (b.off + b.bytes) 65536))

/-- The first units that generators under way write (R278). -/
def Hbm.genFirsts (h : Hbm) : List Nat :=
  (h.gens.filter (fun g => g.2.status == 1)).map (fun g => g.2.run.elim stackUnits (·.first))

/-- The lowest unit that an S or A range takes on any stack, or a generator under way. -/
def State.wCeiling (s : State) : Nat := (s.hbm.ranges.map (·.first) ++ s.hbm.genFirsts).foldl Nat.min s.bulkFloor

/-! ## Stripe parity (R269-R271) -/

/-- The parity byte's address of a W byte: the same offset on the stripe's parity stack (R269). -/
def parityAddr (a : Nat) : Nat :=
  let o := a % stackBytes
  o / 65536 % 12 * stackBytes + o

/-- XOR two byte strings. -/
def xorBytes (a b : Bytes) : Bytes := List.zipWith (· ^^^ ·) a b

/-- Do the side bits of a W line's two check bursts decode as uncorrectable (R255, R258)? The line's error is held as the
symbols that differ: side differences of bursts 0 and 1 in their check bits, or poison in bits [23:16] of burst 1. -/
def wPoison (d : BitVec 32) : Bool := decide (3 < ((List.range 8).filter (fun i => d.getLsbD (16 + i))).length)

/-- Is W line `l` (address ÷ 256) poisoned? -/
def Hbm.wBad (h : Hbm) (l : Nat) : Bool := wPoison (lookupD 0 (8 * l + 1) h.side)

/-- Write a whole line or more: side differences of the bursts written are gone (R261). -/
def Hbm.clean (h : Hbm) (a n : Nat) : Hbm :=
  { h with side := h.side.filter (fun x => !decide (a ≤ x.1 * 32 ∧ x.1 * 32 < a + n)) }

/-- Bytes of stored data. -/
def Hbm.read (h : Hbm) (a n : Nat) : Bytes := Mem.read h.mem a n

/-- The XOR of the other eleven units' bytes at an address's offset (R271). -/
def Hbm.stripeXor (h : Hbm) (a n : Nat) : Bytes :=
  let o := a % stackBytes
  ((List.range 12).filter (· != a / stackBytes)).foldl (fun x s => xorBytes x (h.read (s * stackBytes + o) n)) (zeros n)

/-- Rebuild the 256-byte line at an address from the stripe (R271). -/
def Hbm.rebuildLine (h : Hbm) (a : Nat) : Hbm :=
  ({ h with mem := Mem.write h.mem a (h.stripeXor a 256) } : Hbm).clean a 256

/-- The poisoned lines among those that a range touches. -/
def Hbm.badLines (h : Hbm) (a n : Nat) : List Nat :=
  (h.side.filter (fun e => e.1 % 8 == 1 && decide (a / 256 ≤ e.1 / 8 ∧ e.1 / 8 * 256 < a + n) && wPoison e.2)).map
    (fun e => e.1 / 8)

/-- Set the difference of a burst's side bits. -/
def Hbm.setSide (h : Hbm) (b : Nat) (v : BitVec 32) : Hbm :=
  { h with side := h.side.filter (fun x => x.1 != b) ++ (if v = 0 then [] else [(b, v)]) }

/-- Poison a W line (R258). -/
def Hbm.poisonW (h : Hbm) (l : Nat) : Hbm := (h.setSide (8 * l) 0).setSide (8 * l + 1) 0x00FF0000

/-- The same line of the other eleven units of a W line's stripe. -/
def stripeLines (a : Nat) : List Nat :=
  ((List.range 12).filter (· != a / stackBytes)).map (fun st => (st * stackBytes + a % stackBytes) / 256)

/-- Can parity rebuild the line at an address: no other unit of the stripe fails in that line (R273)? -/
def Hbm.rebuildable (h : Hbm) (a : Nat) : Bool := (stripeLines a).all (fun l => !h.wBad l)

/-- A W line rebuilt where it reads uncorrectable and parity can rebuild it (R270, R271). -/
def Hbm.mend (h : Hbm) (l : Nat) : Hbm := if h.wBad l && h.rebuildable (256 * l) then h.rebuildLine (256 * l) else h

/-- Write bytes inside one W line, with the stripe's parity: old data and parity lines that read uncorrectable are rebuilt first,
and parity becomes old parity XOR old data XOR new data (R270). A part of a line that cannot be rebuilt is not stored (R262). A
whole line is; where its old data or its parity was lost, the parity line is rebuilt from the data lines as far as it can be. -/
def Hbm.wLine (h : Hbm) (a : Nat) (bs : Bytes) : Hbm :=
  let l := a / 256
  let pl := parityAddr (256 * l) / 256
  let h := (h.mend l).mend pl
  if h.wBad l && decide (bs.length < 256) then h
  else
    let lost := h.wBad l || h.wBad pl
    let par := xorBytes (h.read (parityAddr a) bs.length) (xorBytes (h.read a bs.length) bs)
    let h := ({ h with mem := Mem.write (Mem.write h.mem a bs) (parityAddr a) par } : Hbm).clean (256 * l) 256
    if lost then (h.poisonW pl).mend pl else h.clean (256 * pl) 256

/-- Write W bytes line by line, at most `fuel` lines (R270). -/
def Hbm.wLines : Nat → Nat → Bytes → Hbm → Hbm
  | 0, _, _, h => h
  | fuel + 1, a, bs, h =>
    if bs.isEmpty then h
    else Hbm.wLines fuel (a + (256 - a % 256)) (bs.drop (256 - a % 256)) (h.wLine a (bs.take (256 - a % 256)))

/-- Write W bytes at an address (R270). -/
def Hbm.wPut (h : Hbm) (a : Nat) (bs : Bytes) : Hbm := Hbm.wLines (bs.length / 256 + 2) a bs h

/-- The stored bytes of a block. -/
def State.blockBytes (s : State) (b : Block) : Bytes := s.hbm.read b.addr b.bytes

/-- Zero the units from `lo` to below `hi` of every stack (R252). -/
def Hbm.wipeUnits (h : Hbm) (lo hi : Nat) : Hbm :=
  let inside (a : Nat) : Bool := decide (lo ≤ a % stackBytes / 65536 ∧ a % stackBytes / 65536 < hi)
  { h with mem := h.mem.filter (fun x => !inside x.1), side := h.side.filter (fun x => !inside (32 * x.1)) }

/-- Changes of class take effect: as many W stripes as the blocks need, units that leave W zeroed with valid encoding, the units
of jobs opened live, those given back free (R252). -/
def State.settle (s : State) : State :=
  let need := wUnitsOf s.allBlocks
  { s with hbm := { s.hbm.wipeUnits need s.hbm.wStripes with
      wStripes := need,
      ranges := (s.hbm.ranges.filter (fun r => r.use != .leaving)).map (fun r => { r with use := .live }) } }

/-- With no job active no boundary comes: changes of class take effect at once (R252; DESIGN CHOICE, notes/assumptions/5.md). -/
def State.fixW (s : State) : State := if s.active.isNone then s.settle else s

/-- Clear blocks to zero under parity, and drop the units no block needs (R252, R270). -/
def State.clearBlocks (s : State) (bs : List Block) : State :=
  { s with hbm := bs.foldl (fun h b => h.wPut b.addr (zeros b.bytes)) s.hbm }

/-- Drop the blocks of the table that satisfy a test, clearing them. -/
def State.dropBlocks (s : State) (p : Block → Bool) : State :=
  let s := s.clearBlocks (s.blocks.filter p)
  { s with blocks := s.blocks.filter (fun b => !p b) }.fixW

/-- Drop a command's staged blocks that never commit. -/
def State.dropStaged (s : State) (c : Cmd) : State := (s.clearBlocks c.blocks).fixW

/-- Store staged blocks' bytes with their parity (R138, R270). -/
def State.storeBlocks (s : State) (bs : List (Block × Bytes)) : State :=
  { s with hbm := bs.foldl (fun h x => h.wPut x.1.addr x.2) s.hbm }

/-- The fetched copy of a block on those lines of the old one that parity could not rebuild; whatever else of their stripes fails
can then be rebuilt (R273). -/
def Hbm.refetch (h : Hbm) (old new : Block) : Hbm :=
  let bad := h.badLines old.addr old.bytes
  let copy := h.read new.addr new.bytes
  let h := if old.fmt = new.fmt ∧ old.lines = new.lines then
      bad.foldl (fun h l => ({ h with
        mem := Mem.write h.mem (256 * l) (fitBytes 256 (sub copy (256 * l - old.addr) 256)) } : Hbm).clean (256 * l) 256) h
    else h
  (bad.flatMap (fun l => stripeLines (256 * l))).foldl Hbm.mend h

/-- How many W lines of the module read uncorrectable. -/
def Hbm.badCount (h : Hbm) : Nat := (h.side.filter (fun e => e.1 % 8 == 1 && wPoison e.2)).length

/-- Staged blocks stand for poisoned ones of the same key: the old places and the rest of their stripes are restored as far as they
can be (R273, R364). -/
def State.refetchBlocks (s : State) (old bs : List Block) : State :=
  let h := old.foldl (fun h o => match bs.find? (fun n => n.gref == o.gref && n.desc == o.desc && n.entry == o.entry) with
    | some n => h.refetch o n
    | none => h) s.hbm
  { s with hbm := h, counters := { s.counters with
      linesRebuilt := satAdd s.counters.linesRebuilt (s.hbm.badCount - h.badCount) } }

/-- Commit staged blocks: their entries replace those of the same key (R138). -/
def State.commitBlocks (s : State) (bs : List Block) : State :=
  let same (a b : Block) : Bool := a.gref == b.gref && a.desc == b.desc && a.entry == b.entry
  let s := s.clearBlocks (s.blocks.filter (fun b => bs.any (same b)))
  { s with blocks := s.blocks.filter (fun b => !bs.any (same b)) ++ bs }.fixW

/-! ## Quotas (R334) -/

/-- Units of W that a partition's graphs take on a stack, parity's share not counted. -/
def State.wUnitsOn (s : State) (p : PartId) (extra : List Block) (stack : Nat) : Nat :=
  let own := s.graphs.filter (fun g => g.owner == p.val)
  ceilDiv (blockBytesOn (s.allBlocks.filter (fun b => own.any (fun g => g.gref == b.gref)) ++ extra) stack) 65536

/-- Units that a partition's jobs take on a stack. -/
def State.rangeUnitsOn (s : State) (p : PartId) (stack : Nat) : Nat :=
  sumN ((s.hbm.ranges.filter (fun r => r.part == p.val && r.stack == stack && r.use != .leaving)).map (·.count))

/-- Is a partition within its quota on every stack, with blocks and units about to be added (R334)? -/
def State.withinQuota (s : State) (p : PartId) (extra : List Block) (more : Nat → Nat) : Bool :=
  (List.range 12).all (fun st => decide
    ((s.planRec p).bulkUnits + s.wUnitsOn p extra st + s.rangeUnitsOn p st + more st ≤ (s.planRec p).hbmQuota))

/-- Do new blocks fit below every S and A range, and in the partition's quota (R138)? -/
def State.blocksFit (s : State) (p : PartId) (bs : List Block) : Bool :=
  decide (wUnitsOf (s.allBlocks ++ bs) ≤ s.wCeiling) && s.withinQuota p bs (fun _ => 0)

/-! ## Ends of generator runs (R278-R280) -/

/-- Does an address lie in the lines of a run? -/
def GenRun.covers (r : GenRun) (c a : Nat) : Bool :=
  let u := a % stackBytes / 65536
  a / stackBytes == c / 16 && decide (r.first ≤ u ∧ u ≤ r.last)
    && decide (a % stackBytes / 256 % 32 / 2 = c % 16) && r.pcMask.getLsbD (a / 256 % 2)

/-- Clear what a run wrote (R278). -/
def Hbm.clearRun (h : Hbm) (r : GenRun) (c : Nat) : Hbm :=
  if r.op = 2 then h
  else { h with mem := h.mem.filter (fun x => !r.covers c x.1), side := h.side.filter (fun x => !r.covers c (32 * x.1)),
                mixed := h.mixed.filter (fun x => !r.covers c x.1) }

/-- Stop every run and clear what it wrote; the generator blocks return to their values after power-on (R279, R280). -/
def Hbm.endGens (h : Hbm) : Hbm :=
  { h.gens.foldl (fun h g => match g.2.run with
      | some r => if g.2.status = 1 then h.clearRun r g.1 else h
      | none => h) h with gens := [] }

/-! ## KV frame pools (R161, R201) -/

/-- What a job takes of HBM on a rank (R161): the frames of each pool on either die, and the bytes of its tables and of its
A regions. -/
structure Reserve where
  pools : List (Nat × Nat × Nat)       -- B, frames on die 0, frames on die 1
  tables : Nat
  acts : Nat
  deriving DecidableEq, Repr

/-- Table slots of a job (R231). -/
def seqSlots : Nat := 6144

/-- The B and the die of every ATTEND of the graphs of which a rank holds a head. -/
def attendHomes (gs : List Graph) (n rank : Nat) : List (Nat × Nat) :=
  gs.flatMap (fun g => (heldAttends g.descs n rank).map (fun i =>
    ((g.descs[i]?).elim 0 (fun d => d.kvB n rank), attendDie g.descs n rank i)))

/-- The ROUTE descriptors of a graph. -/
def routesOf (g : Graph) : List Nat :=
  (List.range g.descs.length).filter (fun i => match g.descs[i]? with | some d => d.opcode == 7 | none => false)

/-- The tables of a job in their order, in bytes: the sequences' own states, the routing records of each ROUTE, directories,
stored prompts, page-table rows for every frame that the module could hold, length tables and fetch lists (R161, R253; the
order and the formulas are a DESIGN CHOICE, notes/assumptions/5.md). -/
def tableParts (gs : List Graph) (n rank : Nat) : List Nat :=
  let bs := (attendHomes gs n rank).map (·.1)
  [seqSlots * ownStateBytes gs,
   96 * 8192 * sumN (gs.map (fun g => (routesOf g).length)),
   seqSlots * sumN (gs.map (fun g => 4 * ceilDiv g.maxCtx 16)),
   seqSlots * 4 * (gs.map (·.maxCtx)).headD 0,
   (match bs with | [] => 0 | b :: bs => 16 * (12 * stackBytes / (640 * bs.foldl Nat.min b))),
   16 * seqSlots,
   16 * sumN (gs.map (fun g => sumN ((List.range g.descs.length).map (fun i => (heldEntries g.descs n rank i).length))))]

/-- A number raised to whole lines of 64 bytes. -/
def toLines (n : Nat) : Nat := ceilDiv n 64 * 64

/-- Bytes of a job's tables, each beginning on a 64-byte line. -/
def tableBytes (gs : List Graph) (n rank : Nat) : Nat := sumN ((tableParts gs n rank).map toLines)

/-- Bytes of a job's A regions: activation vectors of a whole work list at the widest value, combine elements of 6 bytes for a
routed bank, and 4 MiB for the fabric's buffers (R161, R253; the formula is a DESIGN CHOICE, notes/assumptions/5.md). -/
def actBytes (gs : List Graph) : Nat :=
  let ds := gs.flatMap (·.descs)
  8192 * (2 * maxN (ds.map (·.inDim)) + 6 * maxN ((ds.filter Desc.routed).map (·.outDim))) + 0x400000

/-- What a job of some graphs takes on a rank (R161). -/
def reserveOf (gs : List Graph) (n rank kvTokens : Nat) : Reserve :=
  let hs := attendHomes gs n rank
  let frames (b die : Nat) : Nat := (hs.filter (· == (b, die))).length * ceilDiv kvTokens 16
  ⟨(hs.map (·.1)).eraseDups.map (fun b => (b, frames b 0, frames b 1)), tableBytes gs n rank, actBytes gs⟩

/-- A pool's frames on one stack: those of its die spread evenly, the lower stacks first (R160, R161; DESIGN CHOICE,
notes/assumptions/5.md). -/
def framesOn (r : Nat × Nat × Nat) (stack : Nat) : Nat :=
  let total := if stackDie stack = 0 then r.2.1 else r.2.2
  total / 6 + (if stack % 6 < total % 6 then 1 else 0)

/-- Units that some bytes spread over the twelve stacks take on each. -/
def unitsEach (bytes : Nat) : Nat := ceilDiv (ceilDiv bytes 65536) 12

/-- S units of a job on a stack: its tables' share, then each pool's own (R161). -/
def sUnitsOn (res : Reserve) (stack : Nat) : Nat :=
  unitsEach res.tables + sumN (res.pools.map (fun r => ceilDiv (framesOn r stack * (640 * r.1)) 65536))

/-- A units of a job on a stack (R161). -/
def aUnitsOn (res : Reserve) : Nat := unitsEach res.acts

/-- The highest run of `n` units below `top` that no range takes; ranges as (first, count), highest first. -/
def gapBelow (n : Nat) : Nat → List (Nat × Nat) → Option Nat
  | top, [] => if n ≤ top then some (top - n) else none
  | top, x :: xs => if x.1 + x.2 + n ≤ top then some (top - n) else gapBelow n (Nat.min top x.1) xs

/-- Where a job's units begin on a stack, if they fit above the W region. -/
def State.rangeFor (s : State) (stack n : Nat) : Option Nat :=
  let xs := sortBy (fun a b => decide (b.1 ≤ a.1))
    ((s.hbm.ranges.filter (fun r => r.stack == stack)).map (fun r => (r.first, r.count)))
  match gapBelow n s.bulkFloor xs with
  | none => none
  | some u => if Nat.max s.hbm.wStripes (wUnitsOf s.allBlocks) ≤ u then some u else none

/-- Does a job's reserve fit: pools of at most 4,194,303 frames a stack, every stack's units, the quota (R161, R201)? -/
def State.reserveFits (s : State) (p : PartId) (res : Reserve) : Bool :=
  res.pools.all (fun r => (List.range 12).all (fun st => decide (framesOn r st ≤ 4194303)))
    && (List.range 12).all (fun st => (s.rangeFor st (sUnitsOn res st + aUnitsOn res)).isSome)
    && s.withinQuota p [] (fun st => sUnitsOn res st + aUnitsOn res)

/-- The ranges a new job takes: its S units, then its A units, on each stack. -/
def State.newRanges (s : State) (p : PartId) (job : Nat) (res : Reserve) : List URange :=
  (List.range 12).flatMap (fun st =>
    let n := sUnitsOn res st
    match s.rangeFor st (n + aUnitsOn res) with
    | none => []
    | some u =>
      let use : UnitUse := if s.active.isNone then .live else .coming
      [⟨st, u, n, .s, p.val, job, use⟩, ⟨st, u + n, aUnitsOn res, .a, p.val, job, use⟩])

/-- The HBM address of byte `v` of a job's tables: unit u of them lies on stack u mod 12, in the first S units of the job there
(DESIGN CHOICE, notes/assumptions/5.md). -/
def State.tableAddr (s : State) (job v : Nat) : Nat :=
  let st := v / 65536 % 12
  match s.hbm.ranges.find? (fun r => r.cls == .s && r.job == job && r.stack == st) with
  | some r => st * stackBytes + (r.first + v / 65536 / 12) * 65536 + v % 65536
  | none => 0

/-- The byte of a job's tables at an address in its S range of a stack. -/
def URange.tableAt (r : URange) (a : Nat) : Nat :=
  let off := a - (r.stack * stackBytes + r.first * 65536)
  (off / 65536 * 12 + r.stack) * 65536 + off % 65536

/-- The pools of a job on a stack from unit `u`, one run each. -/
def poolsFrom (stack : Nat) : Nat → List (Nat × Nat × Nat) → List Pool
  | _, [] => []
  | u, r :: rs =>
    let n := framesOn r stack
    ⟨stack, r.1, stack * stackBytes + u * 65536, n⟩ :: poolsFrom stack (u + ceilDiv (n * (640 * r.1)) 65536) rs

/-- Every pool of a new job, from its ranges: on each stack they follow its tables. -/
def poolsOf (ranges : List URange) (res : Reserve) : List Pool :=
  (ranges.filter (fun r => r.cls == .s)).flatMap (fun r => poolsFrom r.stack (r.first + unitsEach res.tables) res.pools)

/-- The address of a frame (R201). -/
def Job.frameAddr (j : Job) (b frame : Nat) : Nat :=
  match j.pools.find? (fun p => p.b == b && p.stack == frameStack frame) with
  | none => 0
  | some p => p.base + frameIndex frame * (640 * b)

/-- Does a frame number name a frame of the pool of B (R201, R204)? -/
def Job.frameIn (j : Job) (b frame : Nat) : Bool :=
  frameValid frame && j.pools.any (fun p => p.b == b && p.stack == frameStack frame && decide (frameIndex frame < p.count))

/-- Frames in use of a pool. -/
def Job.usedIn (j : Job) (p : Pool) : List Nat :=
  (j.frames.filter (fun f => f.inUse && f.b == p.b && frameStack f.frame == p.stack)).map (fun f => frameIndex f.frame)

/-- Free frames of a pool. -/
def Job.freeIn (j : Job) (p : Pool) : Nat := p.count - (j.usedIn p).length

/-- The lowest index that is not used, among `n` candidates. -/
def lowestFree (used : List Nat) : Nat → Nat → Option Nat
  | 0, _ => none
  | n + 1, i => if used.contains i then lowestFree used n (i + 1) else some i

/-- The frame that a new page of B takes for heads that a die serves: on the stack of that die with the most free frames, the
lower number on a tie (R160). -/
def Job.pickFrame (j : Job) (die b : Nat) : Option Nat :=
  let best := (j.pools.filter (fun p => p.b == b && stackDie p.stack == die)).foldl (fun (best : Option (Pool × Nat)) p =>
    let n := j.freeIn p
    match best with
    | none => if n = 0 then none else some (p, n)
    | some x => if x.2 < n then some (p, n) else best) none
  match best with
  | none => none
  | some (p, _) => (lowestFree (j.usedIn p) p.count 0).map (fun i => p.stack * 2 ^ 22 + i)

/-- The generation of a frame of a pool (R203). -/
def Job.genOf (j : Job) (b frame : Nat) : Nat :=
  match j.frames.find? (fun f => f.b == b && f.frame == frame) with
  | none => 0
  | some f => f.gen17

/-- Take a frame into use, staged or not. -/
def Job.take (j : Job) (b frame : Nat) (staged : Bool) : Job :=
  if j.frames.any (fun f => f.b == b && f.frame == frame) then
    { j with frames := j.frames.map (fun f =>
      if f.b == b && f.frame == frame then { f with inUse := true, staged := staged, filled := 0 } else f) }
  else { j with frames := j.frames ++ [⟨frame, b, 0, true, staged, 0, 0⟩] }

/-- Position slots of a frame below `n` have been written (R200). -/
def Job.fill (j : Job) (b frame n : Nat) : Job :=
  { j with frames := updIf (fun f => f.b == b && f.frame == frame) (fun f => { f with filled := Nat.max f.filled n }) j.frames }

/-- How many position slots of a frame have been written since it was taken (R200). -/
def Job.filledOf (j : Job) (b frame : Nat) : Nat :=
  ((j.frames.find? (fun f => f.b == b && f.frame == frame)).map (·.filled)).getD 0

/-- Change a job and the memory together. -/
def State.updJobHbm (s : State) (h : Nat) (f : Job → Hbm → Job × Hbm) : State :=
  match s.job h with
  | none => s
  | some j =>
    let r := f j s.hbm
    { s.updJob h (fun _ => r.1) with hbm := r.2 }

/-- Change the pins of frames by one, up or down (R225). -/
def Job.pin (j : Job) (fs : List (Nat × Nat)) (up : Bool) : Job :=
  { j with frames := j.frames.map (fun f =>
      if fs.contains (f.b, f.frame) then { f with pins := if up then f.pins + 1 else f.pins - 1 } else f) }

/-- S frames that hold pages (R168). -/
def Job.framesUsed (j : Job) : Nat := (j.frames.filter (·.inUse)).length

/-- S frames of every pool (R168). -/
def Job.framesTotal (j : Job) : Nat := sumN (j.pools.map (·.count))

/-! ## The layout (R157, R158, R168-R171) -/

/-- The stage kinds that hold work on a rank, ascending (R157, R158). -/
def kindsPresent (gs : List (List Desc)) (n rank : Nat) : List Nat :=
  (List.range 6).filter (fun k => gs.any (fun ds =>
    ds.zipIdx.any (fun x => stageKind x.1 == k && holdsWork ds n rank x.2)))

/-- The stages of a layout over the cells that are not fenced: each kind has cells on every die that holds work of it, dealt
so that the expected step time is least (R157, R158). -/
def stagesOf (gs : List (List Desc)) (n rank : Nat) (dm : Demand) (fenced : List Nat) : List Stage :=
  let ks := kindsPresent gs n rank
  let dealt := [0, 1].flatMap (dieCells gs n rank dm fenced ks)
  ks.zipIdx.map (fun k => ⟨k.2, k.1, (dealt.filter (fun x => x.1 == k.1)).flatMap (·.2), 0, false⟩)

/-- The stage that a layout gives a cell. -/
def Layout.stageOf (l : Layout) (cell : Nat) : Option Nat := (l.stages.find? (fun x => x.cells.contains cell)).map (·.number)

/-- The stage that serves a descriptor on a rank; 0xFF when the rank holds no unit of it (R171). -/
def Layout.serves (l : Layout) (ds : List Desc) (n rank i : Nat) : Nat :=
  match ds[i]? with
  | none => 0xFF
  | some d => if holdsWork ds n rank i then ((l.stages.find? (fun x => x.kind == stageKind d)).elim 0xFF (·.number)) else 0xFF

/-- Graphs of a job in report order: main, then draft (R168). -/
def State.jobGraphs (s : State) (j : Job) : List Graph := (s.mainOf j).toList ++ (s.draftOf j).toList

/-- Where the routing records of a ROUTE begin in a job's tables: ROUTEs are counted through the job's graphs in report order
(R186, R253). -/
def State.routeTable (s : State) (j : Job) (draft : Bool) (desc : Nat) : Nat :=
  let gs := s.jobGraphs j
  let before := if draft then ((s.mainOf j).toList.map (fun g => (routesOf g).length)).headD 0 else 0
  let own := (((if draft then s.draftOf j else s.mainOf j).toList).map routesOf).headD []
  toLines (((tableParts gs j.nRanks j.rank).headD 0)) + 96 * 8192 * (before + own.findIdx (· == desc))

/-- Does a rank hold a block of a graph: a data section, or an entry of its block table (R152)? -/
def holdsBlock (ds : List Desc) (n rank : Nat) (b : Block) : Bool := b.isData || (heldEntries ds n rank b.desc).contains b.entry

/-- Units of a stack by class: W, S, A, free (R170). -/
def State.stackUnitsBy (s : State) (st : Nat) : Nat × Nat × Nat × Nat :=
  let sum (c : UnitClass) : Nat :=
    sumN ((s.hbm.ranges.filter (fun r => r.stack == st && r.cls == c && r.use != .coming)).map (·.count))
  let w := s.hbm.wStripes
  let ss := sum .s + sumN (s.plan.map PartRec.bulkUnits)
  (w, ss, sum .a, stackUnits - w - ss - sum .a)

/-- The class of the unit at an address (R252). -/
def State.classAt (s : State) (a : Nat) : UnitClass :=
  let st := a / stackBytes
  let u := a % stackBytes / 65536
  if u < s.hbm.wStripes then .w
  else if s.bulkFloor ≤ u then .s
  else match s.hbm.ranges.find? (fun r => r.stack == st && r.use != .coming && decide (r.first ≤ u ∧ u < r.first + r.count)) with
    | some r => r.cls
    | none => .free

end Sys2Proof.Machine
end

