-- ==== Sys2Proof/Machine/Reports.lean ====
section
/-! DEFINITION. The reporting commands: QUERY_MODULE, READ_COUNTERS, READ_EVENTS, QUERY_PLACEMENT, ATTEST,
DEBUG_ACCUM_READ, and the answer to a mailbox protocol violation. -/
namespace Sys2Proof.Machine

/-! ## Records -/

/-- The bytes of a member in the 64-bit form of R344. -/
def Member.bytes (m : Member) : Bytes := leBytes 2 m.rack ++ leBytes 1 m.slot ++ zeros 1 ++ leBytes 2 m.site ++ zeros 2

/-- A number of `n` bytes with bit k set for each k of a list. -/
def bitSet (n : Nat) (ks : List Nat) : Bytes := leBytes n (ks.eraseDups.foldl (fun x k => x + 2 ^ k) 0)

/-- TB_STATE as R318 codes it. -/
def TbState.code : TbState → Nat
  | .unseeded => 0
  | .armed => 1
  | .synced => 2
  | .holdover => 3
  | .lost => 4

/-- POWER_STATE as QUERY_MODULE and R402 code it. -/
def PowerState.code : PowerState → Nat
  | .active => 0
  | .lull => 1
  | .calm => 2
  | .off => 3

/-- The state of a fabric port (R347): 3 unused, 0 down, 2 miswired, 1 up (R286); before the first commit of coordinates every
port is down (R284, notes/assumptions/79.md). -/
def State.portState (s : State) (p : FabPort) : Nat :=
  let q := s.net.fab[p.val]
  if s.coord.committed = false then 0
  else if s.coord.switch p.val = 0 then 3 else if q.up = false then 0 else if q.miswired then 2 else 1

/-- The fabric ports in order. -/
def fabPorts : List FabPort := [0, 1, 2, 3, 4, 5]

/-- The host ports in order. -/
def hostPorts : List HostPort := [0, 1, 2, 3]

/-- The version of the running image. -/
def State.fwVersion (s : State) : Nat := match s.fw.running with | some i => i.manifest.version | none => 0

/-- PLAN_VERSION of the running image (R155, R388). -/
def State.planVersion (s : State) : Nat := match s.fw.running with | some i => i.manifest.planVersion | none => 0

/-- Jobs a partition holds open. -/
def State.jobsOf (s : State) (p : PartId) : List Job := s.jobs.filter (fun j => j.part == p)

/-- ACTIVE_JOB as a caller sees it (R347). -/
def State.activeSeen (s : State) (p : PartId) : Nat :=
  match s.active with
  | none => 0
  | some h => match s.job h with
    | none => 0
    | some j => if j.part = p then h else 0

/-- The module record (R347). -/
def State.moduleRecord (s : State) (p : PartId) : Bytes :=
  leBytes 8 s.flash.serial.toNat ++ leBytes 1 s.flash.grade ++ leBytes 1 p.val ++ leBytes 2 s.power.cap
    ++ leBytes 4 s.fwVersion ++ leBytes 2 s.planVersion
    ++ leBytes 1 (s.tb.state.code + 8 * b2n s.hbm.degraded + 16 * s.power.state.code)
    ++ leBytes 1 (s.jobsOf p).length ++ leBytes 4 (s.activeSeen p)
    ++ leBytes 3 (sumN (fabPorts.map (fun q => s.portState q * 16 ^ q.val)))
    ++ leBytes 1 (sumN (hostPorts.map (fun q => if s.net.host[q.val].up then 2 ^ q.val else 0)))
    ++ leBytes 4 (sumN (s.hbm.spares.map (·.2))) ++ bitSet 24 s.hbm.failed ++ s.coord.member.bytes ++ zeros 192

/-- A counter's four bytes. -/
def cnt (c : Counter) : Bytes := leBytes 4 c.toNat

/-- The module counters (R371). -/
def State.counterRecord (s : State) (p : PartId) : Bytes :=
  let c := s.counters
  [c.wCorrected, c.wUncorrectable, c.sCorrected, c.sUncorrectable, c.aDetected, c.cellCorrected, c.cellUncorrectable,
    c.weightErrors, c.stateErrors, c.microcodeTraps, c.channelHalts, c.addressFaults, c.flowStalls, c.blocksRebuilt,
    c.blocksRefetched, c.linesRebuilt, c.floatOverflow, c.floatInvalid, c.kills, c.commandsFailed,
    s.parts[p.val].evLost, c.scrubPasses].flatMap cnt
    ++ zeros 8 ++ bitSet 16 s.fenced ++ bitSet 2 (s.fencedDma.map (· - 16)) ++ zeros 14

/-- PRODUCER of a region descriptor (R89). -/
def producerCode : Producer → Nat
  | .none => 0
  | .updraft0 => 1
  | .updraft1 => 2
  | .mesh => 3
  | .seam => 4
  | .ownCell => 5

/-- A region descriptor (R89). -/
def Region.bytes (r : Region) : Bytes :=
  leBytes 2 r.base.toNat ++ leBytes 2 r.sizeM1.toNat ++ leBytes 1 (r.kind % 16 + 16 * producerCode r.producer)
    ++ leBytes 1 (b2n r.credit + 2 * b2n r.held.isSome) ++ zeros 2 ++ leBytes 4 r.head.toNat ++ leBytes 4 r.tail.toNat
    ++ cnt r.arrived ++ cnt r.expect ++ cnt r.credits ++ zeros 4

/-- STATE of a cell (R112): OFF and the states without work as they are, else the first of TRAPPED, HELD, WAIT_TILE,
WAIT_ARRIVAL, RUN and DRAIN that applies. -/
def Cell.stateCode (c : Cell) : Nat :=
  match c.base with
  | .off => 0
  | b =>
    if c.trapped then 9
    else match b with
      | .off => 0
      | .idle => 1
      | .loading => 2
      | .waitBoundary => 3
      | .parked => 10
      | .running =>
        if c.heldOut then 8 else if c.waitOpen.isSome then 7 else if c.waitRegion.isSome then 4
        else if c.pass.isNone && !c.groups.isEmpty then 6 else 5

/-- The stage state record of a cell, sampled at an instant (R111). -/
def Cell.record (c : Cell) (n now : Nat) : Bytes :=
  leBytes 1 n ++ leBytes 1 c.stateCode ++ leBytes 1 (c.stage.getD 0xFF) ++ leBytes 1 (c.pass.getD 0xFF)
    ++ leBytes 4 c.step.toNat ++ leBytes 4 c.boundary.toNat ++ leBytes 1 c.groups.length
    ++ leBytes 1 (match c.groups with | [] => 0xFF | g :: _ => g.tile.val) ++ leBytes 1 (b2n c.credit)
    ++ leBytes 1 (match c.waitRegion with | some r => r.val | none => 0xFF)
    ++ bitSet 8 (c.groups.map (fun g => g.tile.val))
    ++ cnt c.planeSteps ++ cnt c.planesSkipped ++ cnt (c.waited now) ++ cnt (c.stalled now)
    ++ leBytes 2 c.upd[0].pos ++ leBytes 2 c.upd[1].pos
    ++ leBytes 1 (b2n c.upd[0].ahead + 2 * b2n c.upd[1].ahead + 4 * b2n c.upd[0].waitSpace + 8 * b2n c.upd[1].waitSpace)
    ++ zeros 3 ++ leBytes 8 c.stateTime ++ leBytes 8 now ++ c.regions.toList.flatMap Region.bytes

/-- A cell by number. -/
def State.cellAt (s : State) (n : Nat) : Cell := s.cells.toList.getD n Cell.reset

/-- The partition whose job a cell serves. -/
def State.cellPart (s : State) (n : Nat) : Option PartId :=
  match (s.cellAt n).job with
  | none => none
  | some h => (s.job h).map (·.part)

/-- The stage state record as a partition may read it: zero except CELL for a cell that serves no job of it (R111). A
fenced cell reports OFF (R361), any cell PARKED in Lull (R401). -/
def State.stageRecord (s : State) (p : PartId) (n : Nat) : Bytes :=
  if s.cellPart n = some p then
    let c := s.cellAt n
    (if s.fenced.contains n then { c with base := .off }
     else if s.power.state = .lull ∧ c.base ≠ .off then { c with base := .parked } else c).record n s.now
  else leBytes 1 n ++ zeros 575

/-- STATE of R232. -/
def SeqState.code : SeqState → Nat
  | .waiting => 1
  | .prefill => 2
  | .decode => 3
  | .paused => 4
  | .draining => 5

/-- A sequence-table entry (R231). -/
def SeqEntry.bytes (e : SeqEntry) : Bytes :=
  let r := e.req
  let t := e.times
  leBytes 4 r.id ++ leBytes 1 (e.state.code + 16 * (match e.resume with | some x => x.code | none => 0))
    ++ leBytes 1 (b2n r.specOk + 2 * b2n e.cancel + 4 * b2n r.accepted) ++ leBytes 1 r.draftK ++ leBytes 1 r.topk
    ++ leBytes 4 r.promptLen ++ leBytes 4 e.main.len ++ leBytes 4 (if r.specOk then e.draft.len else 0)
    ++ leBytes 4 r.maxNew ++ leBytes 4 e.emitted ++ leBytes 2 r.invTemp ++ leBytes 2 t.accAvg
    ++ leBytes 8 t.admitTime ++ leBytes 8 t.lastEmit ++ leBytes 4 r.ttft ++ leBytes 4 r.tbt
    ++ leBytes 2 t.cooldown ++ leBytes 2 t.age ++ leBytes 4 r.stop0 ++ leBytes 4 r.stop1
    ++ leBytes 4 r.parent ++ leBytes 4 r.pfxLen ++ leBytes 4 e.nextToken ++ leBytes 4 r.outRing
    ++ leBytes 2 r.outSlots ++ leBytes 2 e.outNext ++ leBytes 8 t.pauseTime ++ leBytes 8 t.firstEmit
    ++ leBytes 4 e.directory ++ leBytes 4 t.lastStep ++ leBytes 4 t.drafted ++ leBytes 4 t.acceptedN
    ++ leBytes 4 e.promptRow ++ zeros 4

/-- The descriptor record (R372). -/
def DescState.bytes (d : DescState) : Bytes :=
  leBytes 2 d.desc ++ zeros 2
    ++ [d.clamps, d.lnsSat, d.blockTrig, d.layerTrig, d.dropped, d.noChoice, d.audits, d.auditActive,
        d.auditMissed].flatMap cnt
    ++ leBytes 2 (Nat.min 0xFFFF d.missRate) ++ zeros 2 ++ leBytes 2 (ofSigned 16 d.meff) ++ leBytes 2 d.widenings
    ++ zeros 16

/-- A host port's counters (R373). -/
def HostCounters.bytes (c : HostCounters) : Bytes :=
  [c.icrcErr, c.badQp, c.wrongPath, c.badTransport, c.psnSeq, c.dup, c.invReq, c.access, c.owned, c.flagKept,
    c.pauseIgnored, c.cnpSent, c.cnpReceived, c.fecUncorrected, c.linkDown].flatMap cnt ++ zeros 4

/-- The fabric block's counters (R373). -/
def FabCounters.bytes (c : FabCounters) : Bytes :=
  [c.notOpen, c.wrongRank, c.badSource, c.badFlags, c.badClass, c.badLength, c.badOffset, c.outOfWindow, c.badRecord,
    c.crc, c.resends, c.duplicates, c.quarantines, c.fecUncorrected].flatMap cnt ++ zeros 8

/-- The port record (R373). -/
def State.portRecord (s : State) : Bytes :=
  s.net.host.toList.flatMap (fun h => h.counters.bytes) ++ s.net.fabCounters.bytes

/-- An event record (R368). -/
def Event.bytes (e : Event) : Bytes :=
  leBytes 4 e.evSeq.toNat ++ leBytes 2 e.code ++ leBytes 1 (b2n e.isModule + 2 * e.part) ++ zeros 1 ++ leBytes 4 e.job
    ++ leBytes 4 e.step ++ leBytes 8 e.time ++ leBytes 1 e.cell ++ zeros 1 ++ leBytes 2 e.loc ++ zeros 4
    ++ leBytes 8 e.arg0 ++ leBytes 8 e.arg1 ++ leBytes 8 e.arg2 ++ leBytes 8 e.arg3

/-! ## QUERY_MODULE (R347) -/

/-- QUERY_MODULE, accepted. -/
def acceptQueryModule (c : Cmd) (s : State) : State :=
  s.immediate c (firstFault [noScope c, bodyFault c.body (bodyFields 0x01) []])
    (fun c s => (s.slotWrite c.p (u32 c.body 0) (s.moduleRecord c.p), ok []))

/-- QUERY_MODULE (R347). -/
def execQueryModule (p : PartId) (m : BoxId) (s : State) : Host.Outcome State Fault Refusal :=
  .next (s.serve p m 0x01 acceptQueryModule)

/-! ## READ_COUNTERS (R346) -/

/-- The scope check of READ_COUNTERS, by KIND (R343). -/
def State.kindScope (s : State) (c : Cmd) : Option Result :=
  if c.body.length = 0 then none
  else if u8 c.body 0 % 16 = 2 ∨ u8 c.body 0 % 16 = 3 then scopeFault (s.scoped c) else noScope c

/-- The record that READ_COUNTERS writes, or the status it fails with. DESC counts the descriptors of the job's main or
standalone graph and then those of its draft graph (DESIGN CHOICE, notes/assumptions/16.md). -/
def State.countersAsked (s : State) (c : Cmd) : Except Result Bytes :=
  match u8 c.body 0 % 16 with
  | 0 => .ok (s.counterRecord c.p)
  | 1 => .ok (s.stageRecord c.p (u8 c.body 1))
  | 2 =>
    match s.job c.job with
    | none => .error (fail 0x8005)
    | some j => match j.seqs.find? (fun e => e.req.id == u32 c.body 4) with
      | none => .error (fail 0x8306)
      | some e => .ok e.bytes
  | 3 =>
    match s.job c.job with
    | none => .error (fail 0x8005)
    | some j => match (j.descs.filter (fun d => !d.draft) ++ j.descs.filter (·.draft))[u16 c.body 2]? with
      | none => .error (failAt 0x8003 2)
      | some d => .ok d.bytes
  | _ => .ok s.portRecord

/-- The fields of READ_COUNTERS that have a range (R346). -/
def counterChecks (b : Bytes) : List (Nat × Bool) :=
  [(0, decide (u8 b 0 < 5)), (1, decide (u8 b 0 % 16 ≠ 1 ∨ u8 b 1 < 128))]

/-- READ_COUNTERS, accepted. -/
def acceptReadCounters (c : Cmd) (s : State) : State :=
  let check := firstFault [s.kindScope c, bodyFault c.body (bodyFields 0x50) (counterChecks c.body)]
  let asked : Option Result := match s.countersAsked c with | .error r => some r | .ok _ => none
  s.immediate c (firstFault [check, asked]) (fun c s =>
    match s.countersAsked c with
    | .error r => (s, r)
    | .ok bs => (s.slotWrite c.p (u32 c.body 8) bs, ok (leBytes 4 bs.length)))

/-- READ_COUNTERS (R346, R370). -/
def execReadCounters (p : PartId) (m : BoxId) (s : State) : Host.Outcome State Fault Refusal :=
  .next (s.serve p m 0x50 acceptReadCounters)

/-! ## READ_EVENTS (R346) -/

/-- READ_EVENTS, accepted: up to MAX records, oldest first, leave the queue. -/
def acceptReadEvents (c : Cmd) (s : State) : State :=
  let n := u32 c.body 4
  s.immediate c (firstFault [noScope c, bodyFault c.body (bodyFields 0x51) [(4, decide (1 ≤ n ∧ n ≤ 65536))]])
    (fun c s =>
      let q := s.parts[c.p.val].events
      let s := s.updPart c.p (fun x => { x with events := x.events.drop n, evEmptied := (x.events.drop n).isEmpty })
      (s.slotWrite c.p (u32 c.body 0) ((q.take n).flatMap Event.bytes),
        ok (leBytes 4 (q.take n).length ++ leBytes 4 (b2n !(q.drop n).isEmpty))))

/-- READ_EVENTS (R346, R367). -/
def execReadEvents (p : PartId) (m : BoxId) (s : State) : Host.Outcome State Fault Refusal :=
  .next (s.serve p m 0x51 acceptReadEvents)

/-! ## QUERY_PLACEMENT (R168-R171) -/

/-- A stage record (R169). -/
def Stage.bytes (x : Stage) : Bytes :=
  leBytes 1 x.number ++ leBytes 1 x.kind ++ leBytes 1 x.cells.length ++ zeros 5 ++ leBytes 4 x.spread ++ zeros 4
    ++ bitSet 16 x.cells

/-- A stack record (R170). -/
def State.stackRecord (s : State) (st : Nat) : Bytes :=
  let u := s.stackUnitsBy st
  leBytes 4 u.1 ++ leBytes 4 u.2.1 ++ leBytes 4 u.2.2.1 ++ leBytes 4 u.2.2.2

/-- The descriptor records of one graph of a job's report (R171). -/
def State.descRecords (s : State) (j : Job) (g : Graph) : Bytes :=
  (List.range g.descs.length).flatMap (fun i =>
    let held := heldEntries g.descs j.nRanks j.rank i
    let mine := s.blocks.filter (fun b => b.gref == g.gref && b.desc == i && held.contains b.entry)
    descRecord g.descs j.nRanks j.rank i (j.layout.serves g.descs j.nRanks j.rank i)
      (leNat (bitSet 2 (mine.map Block.stack))) (g.role == 2))

/-- The placement report of a job on this rank as it stands at an instant (R168). -/
def State.placementReport (s : State) (j : Job) (t : Nat) : Bytes :=
  let gs := s.jobGraphs j
  let l := j.layout
  leBytes 4 j.handle ++ leBytes 1 j.rank ++ leBytes 1 j.nRanks ++ leBytes 2 j.planVersion ++ leBytes 4 j.planCrc
    ++ leBytes 4 l.epoch.toNat ++ leBytes 8 t ++ leBytes 2 l.stages.length
    ++ leBytes 2 (sumN (gs.map (fun g => g.descs.length))) ++ leBytes 1 (b2n l.pending.isSome + 2 * (j.cfg.replMode % 2))
    ++ zeros 3 ++ leBytes 4 j.framesUsed ++ leBytes 4 (j.framesTotal - j.framesUsed) ++ cnt l.replDone ++ cnt l.replAbandoned ++ zeros 16
    ++ l.stages.flatMap Stage.bytes ++ (List.range 12).flatMap s.stackRecord ++ gs.flatMap (s.descRecords j)

/-- The placement report of a boundary, kept until the next: every field of what QUERY_PLACEMENT writes is of one boundary
(R168). -/
def State.reportPlacement (s : State) (h t : Nat) : State :=
  s.updJob h (fun j => { j with layout := { j.layout with report := s.placementReport j t } })

/-- QUERY_PLACEMENT, accepted. -/
def acceptQueryPlacement (c : Cmd) (s : State) : State :=
  let n := u32 c.body 4
  let small : Option Result := match s.job c.job with
    | some j => if n * (s.planRec c.p).slotSize < j.layout.report.length then some (fail 0x8008) else none
    | none => none
  s.immediate c (firstFault [scopeFault (s.scoped c), bodyFault c.body (bodyFields 0x13) [(4, decide (1 ≤ n ∧ n ≤ 65536))],
      small]) (fun c s =>
    match s.job c.job with
    | none => (s, fail 0x8005)
    | some j => (s.slotWrite c.p (u32 c.body 0) j.layout.report, ok []))

/-- QUERY_PLACEMENT (R168). -/
def execQueryPlacement (p : PartId) (m : BoxId) (s : State) : Host.Outcome State Fault Refusal :=
  .next (s.serve p m 0x13 acceptQueryPlacement)

/-! ## ATTEST (R386) -/

/-- The boot report (R380). -/
def BootReport.bytes (r : BootReport) : Bytes :=
  leBytes 4 r.fwVersion ++ leBytes 4 r.configVersion
    ++ leBytes 1 (r.cause.toNat + 4 * b2n r.slotB + 8 * b2n r.fallback + 16 * b2n r.hbmDegraded + 32 * b2n r.pufFailed
        + 64 * r.failedBoots.toNat)
    ++ zeros 7 ++ leBytes 8 r.readyTime ++ leBytes 4 r.sparesTotal ++ zeros 4 ++ bitSet 24 r.failedChannels ++ zeros 8
    ++ bitSet 256 r.selfTest ++ (List.range 192).flatMap (fun c => leBytes 1 (lookupD 0 c r.spares))

/-- The signed bytes 0x000-0x37F of the report of R386, for a caller and a nonce. -/
def State.attestBody (s : State) (p : PartId) (nonce : Bytes) : Bytes :=
  leBytes 4 0x54535441 ++ leBytes 2 1 ++ zeros 2 ++ leBytes 8 s.flash.serial.toNat ++ leBytes 1 s.flash.grade
    ++ leBytes 1 p.val ++ zeros 2 ++ leBytes 4 s.fwVersion ++ leBytes 4 s.report.configVersion
    ++ leBytes 4 s.fw.activations.toNat ++ leBytes 8 s.now ++ leBytes 8 s.tb.state.code ++ fitBytes 32 nonce
    ++ [s.fw.mRom, s.fw.mFirst, s.fw.mImage, s.fw.mConfig, s.fw.mOwner, s.fw.mRunning].flatMap (fun d => leBytes 48 d.toNat)
    ++ zeros 16 ++ s.report.bytes

/-- The whole report with signatures and certificates (R386). -/
def State.attestReport (s : State) (p : PartId) (nonce : Bytes) : Bytes :=
  let b := s.attestBody p nonce
  b ++ leBytes 384 (Config.identityRsa s.draws b).toNat ++ leBytes 16224 (Config.identitySlh s.draws b).toNat
    ++ leBytes 4 s.flash.certRsa.length ++ leBytes 4 s.flash.certSlh.length ++ s.flash.certRsa ++ s.flash.certSlh

/-- ATTEST, accepted. -/
def acceptAttest (c : Cmd) (s : State) : State :=
  s.immediate c (firstFault [noScope c, bodyFault c.body (bodyFields 0x70) []]) (fun c s =>
    let r := s.attestReport c.p (sub c.body 0 32)
    ({ s with draws := s.draws + 1 }.slotWrite c.p (u32 c.body 0x20) r, ok []))

/-- ATTEST (R386). -/
def execAttest (p : PartId) (m : BoxId) (s : State) : Host.Outcome State Fault Refusal :=
  .next (s.serve p m 0x70 acceptAttest)

/-! ## DEBUG_ACCUM_READ (R113, R114, R346) -/

/-- Is a partition opened in debug mode (R113)? -/
def State.debugRefused (s : State) (p : PartId) : Option Result :=
  if (s.planRec p).debug then none else some (fail 0x8801)

/-- MODE of DEBUG_ACCUM_READ, 3 (invalid) or a body too short left to the arming row. -/
def debugMode (b : Bytes) : Nat := if b.length < (bodyFields 0x80).length then 0 else u8 b 0 % 4

/-- The fields of DEBUG_ACCUM_READ that have a range (R346): a pair names a cell of 0 to 127, or 0xFF. -/
def debugChecks (b : Bytes) : List (Nat × Bool) :=
  [(0, decide (u32 b 0 < 3))]
    ++ (List.range 4).flatMap (fun i =>
        [(8 + 2 * i, decide (u8 b (8 + 2 * i) < 128 ∨ u8 b (8 + 2 * i) = 0xFF)),
         (9 + 2 * i, decide (u8 b (9 + 2 * i) < 16))])

/-- The (cell, region) pairs that mode 0 names (R346). -/
def debugPairs (b : Bytes) : List (Nat × Nat) :=
  ((List.range 4).map (fun i => (u8 b (8 + 2 * i), u8 b (9 + 2 * i) % 16))).filter (fun x => x.1 != 0xFF)

/-- Every check of DEBUG_ACCUM_READ before its slots. -/
def State.debugCheck (s : State) (c : Cmd) : Option Result :=
  firstFault [scopeFault (s.scoped c), bodyFault c.body (bodyFields 0x80) (debugChecks c.body), s.debugRefused c.p]

/-- Arm a snapshot at the commit: the selection holds from then on (R113). -/
def commitDebugArm (c : Cmd) (t : Nat) (s : State) : State :=
  (s.updPart c.p (fun q => { q with snapSel := some ⟨c.job, u32 c.body 4, debugPairs c.body⟩ })).answer c t
    (ok (leBytes 4 0))

/-- Mode 0, accepted: it commits at a boundary. -/
def acceptDebugArm (c : Cmd) (s : State) : State := s.staged c (s.debugCheck c) (some c.job) commitDebugArm

/-- The bytes of a tile (R38): 4,096 elements of 48 bits, element 256 slot + output. -/
def tileImage (wide : List (Nat × Int)) : Bytes := (List.range 4096).flatMap (fun i => leBytes 6 (ofSigned 48 (lookupD 0 i wide)))

/-- What mode 1 returns: the snapshot, then the tiles that TILES requests of each named cell, cells in snapshot order
and tiles ascending (DESIGN CHOICE, notes/assumptions/17.md). The tiles stand as the snapshot captured them. -/
def Snap.answer (x : Snap) (mask : Nat) : Bytes :=
  x.bytes ++ x.tiles.flatMap (fun t =>
    ((List.range 64).filter (fun i => mask.testBit i)).flatMap (fun i => fitBytes tileBytes (lookupD [] i t.2)))

/-- Mode 1, accepted: the snapshot of the job, which is then read; refused when there is none (DEDUCED,
notes/assumptions/17.md). -/
def acceptDebugRead (c : Cmd) (s : State) : State :=
  let none_ : Option Result := match s.parts[c.p.val].snap with
    | some x => if x.job = c.job then none else some (fail 0x8801)
    | none => some (fail 0x8801)
  s.immediate c (firstFault [s.debugCheck c, none_]) (fun c s =>
    match s.parts[c.p.val].snap with
    | none => (s, fail 0x8801)
    | some x =>
      let bs := x.answer (u64 c.body 0x10)
      ((s.slotWrite c.p (u32 c.body 0x18) bs).updPart c.p (fun q => { q with snap := none }), ok (leBytes 4 bs.length)))

/-- Mode 2, accepted: the selection returns to none. -/
def acceptDebugClear (c : Cmd) (s : State) : State :=
  s.immediate c (s.debugCheck c) (fun c s => (s.updPart c.p (fun q => { q with snapSel := none }), ok (leBytes 4 0)))

/-- DEBUG_ACCUM_READ of any mode. -/
def acceptDebug (c : Cmd) (s : State) : State :=
  if debugMode c.body = 1 then acceptDebugRead c s
  else if debugMode c.body = 2 then acceptDebugClear c s else acceptDebugArm c s

/-- DEBUG_ARM_SNAPSHOT (R113). -/
def execDebugArmSnapshot (p : PartId) (m : BoxId) (s : State) : Host.Outcome State Fault Refusal :=
  .next (s.serveIf p m 0x80 (fun b => decide (debugMode b ≠ 1 ∧ debugMode b ≠ 2)) acceptDebug)

/-- DEBUG_READ_SNAPSHOT (R113). -/
def execDebugReadSnapshot (p : PartId) (m : BoxId) (s : State) : Host.Outcome State Fault Refusal :=
  .next (s.serveIf p m 0x80 (fun b => decide (debugMode b = 1)) acceptDebug)

/-- DEBUG_CLEAR_SELECTION (R114). -/
def execDebugClearSelection (p : PartId) (m : BoxId) (s : State) : Host.Outcome State Fault Refusal :=
  .next (s.serveIf p m 0x80 (fun b => decide (debugMode b = 2)) acceptDebug)

/-! ## Mailbox protocol violations (R339) -/

/-- The answer to a malformed header or an unknown code: 0x8001 or 0x8002, with no effect (R339). A header that does not
name a command names no slots (DEDUCED, notes/assumptions/8.md). -/
def State.violate (s : State) (p : PartId) (m : BoxId) : State :=
  if s.waits p m = true then
    match headerFault (s.header p m) with
    | some st => s.finish (s.flipped p m) (fail st)
    | none => s
  else s

/-- MAILBOX_PROTOCOL_VIOLATION (R339). -/
def execMailboxProtocolViolation (p : PartId) (m : BoxId) (s : State) : Host.Outcome State Fault Refusal :=
  .next (s.violate p m)

end Sys2Proof.Machine
end

