-- ==== Sys2Proof/Machine/Placement.lean ====
section
/-! DEFINITION. Placement: PLACE in both uses, the window ends and copies of a re-placement, and its install or
abandonment (R162-R167). -/
namespace Sys2Proof.Machine

/-- The reply body of PLACE: PLAN_CRC, PLACE_EPOCH and the outcome (R343). -/
def placeReply (crc epoch outcome : Nat) : Bytes := leBytes 4 crc ++ leBytes 4 epoch ++ leBytes 4 outcome

/-! ## PLACE, preview (R167) -/

/-- The graphs a preview covers: the one named, then its draft, or the status it fails with (R344). -/
def State.previewGraphs (s : State) (c : Cmd) : Except Result (List Graph) :=
  match s.graphOf c.p (u32 c.body 4) with
  | none => .error (fail 0x8106)
  | some g =>
    if u32 c.body 0x10 = 0 then .ok [g]
    else match s.graphOf c.p (u32 c.body 0x10) with
      | none => .error (fail 0x8106)
      | some d => if d.role = 2 ∧ d.draftOf = g.id then .ok [g, d] else .error (fail 0x8203)

/-- The descriptor records of a preview: STAGE 0xFF and STACKS 0 (R167). -/
def previewRecords (gs : List Graph) (n rank : Nat) : Bytes :=
  gs.flatMap (fun g => (List.range g.descs.length).flatMap (fun i => descRecord g.descs n rank i 0xFF 0 (g.role == 2)))

/-- The fields of a preview's body that have a range (R344). -/
def previewChecks (b : Bytes) : List (Nat × Bool) :=
  [(0, decide (u32 b 0 < 2)), (8, decide (1 ≤ u8 b 8 ∧ u8 b 8 ≤ 64)), (9, decide (u8 b 9 < u8 b 8))] ++ zeroRun b 0x0A 2

/-- A PLACE preview, accepted. -/
def acceptPreview (c : Cmd) (s : State) : State :=
  let gs := s.previewGraphs c
  let bad : Option Result := match gs with | .error r => some r | .ok _ => none
  s.immediate c (firstFault [noScope c, bodyFault c.body (bodyFields 0x12) (previewChecks c.body), bad]) (fun c s =>
    match gs with
    | .error r => (s, r)
    | .ok xs =>
      let n := u8 c.body 8
      (s.slotWrite c.p (u32 c.body 0x0C) (previewRecords xs n (u8 c.body 9)),
        ok (placeReply (planCrc (xs.map (·.descs)) n) 0 0)))

/-- MODE of a PLACE body, a body too short left to the preview's row. -/
def placeMode (b : Bytes) : Bool := decide ((bodyFields 0x12).length ≤ b.length) && bit (u8 b 0) 0

/-- PLACE_PREVIEW (R167). -/
def execPlacePreview (p : PartId) (m : BoxId) (s : State) : Host.Outcome State Fault Refusal :=
  .next (s.serveIf p m 0x12 (fun b => !placeMode b) acceptPreview)

/-! ## Re-placement on this rank (R164-R166) -/

/-- Answer the PLACEs that a re-placement carries (R167). -/
def State.answerPlaces (s : State) (j : Job) (places : List (PartId × BoxId)) (t epoch outcome : Nat) : State :=
  places.foldl (fun s x => match s.cmdAt x.1 x.2 with
    | none => s
    | some c => s.answer c t (ok (placeReply j.planCrc epoch outcome))) s

/-- The frames that a re-placement took for its pages, let go: those that no entry maps are free again. -/
def State.dropPages (s : State) (h : Nat) (r : Repl) : State :=
  (s.updJob h (fun j => j.pin (r.pages.map (fun x => (x.1, x.2.2))) false)).tidyJob h

/-- The copies of a re-placement, discarded: its blocks' places are cleared and its frames are free (R166, R252). -/
def State.dropCopies (s : State) (h : Nat) (r : Repl) : State :=
  let s := s.clearBlocks (if r.copied then r.blocks.map (·.2) else [])
  (s.dropPages h r).fixW

/-- Abandon a job's pending re-placement: its copies are discarded, only the counter shows it, and a PLACE is answered with
outcome 1 (R166). -/
def State.abandonRepl (s : State) (h t : Nat) : State :=
  match s.job h with
  | none => s
  | some j => match j.layout.pending with
    | none => s
    | some r =>
      let s := s.updJob h (fun j => { j with layout :=
        { j.layout with pending := none, replAbandoned := satInc j.layout.replAbandoned } })
      (s.dropCopies h r).answerPlaces j r.places t j.layout.epoch.toNat 1

/-- An entry pointed at a new frame, with that frame's generation (R228). -/
def Pte.moved (e : Pte) (frame gen17 : Nat) : Pte :=
  ({ e with frame := frame, epoch := (genParts gen17).2, gen := (genParts gen17).1 } : Pte).sealed

/-- Entries with the moved pages' frames; a page that has come to be pinned since its copy stays where it is (R143, R228). -/
def Job.movePages (j : Job) (g dg : Option Graph) (ps : List (Nat × Nat × Nat)) : Job :=
  let still := ps.filter (fun x => !j.frames.any (fun f => f.b == x.1 && f.frame == x.2.1 && f.pins != 0))
  let f (b : Nat → Nat) (k : KvState) : KvState :=
    { k with pt := k.pt.map (fun e => match still.find? (fun x => e.valid && x.1 == b e.desc && x.2.1 == e.frame) with
        | some x => e.moved x.2.2 (j.genOf x.1 x.2.2)
        | none => e) }
  let both (e : DSeq) : DSeq := { e with main := f (j.kvB g) e.main, draft := f (j.kvB dg) e.draft }
  { j with
    seqs := j.seqs.map (fun e => { e with main := f (j.kvB g) e.main, draft := f (j.kvB dg) e.draft }),
    direct := j.direct.map both, step := j.step.map (fun x => { x with kept := x.kept.map both }) }

/-- Point the block table and the page tables at what a re-placement has copied, then free what it copied from (R165). -/
def State.moveCopies (s : State) (h : Nat) (r : Repl) : State :=
  let s := s.clearBlocks (r.blocks.map (·.1))
  let s : State := { s with blocks := s.blocks.map (fun b => ((r.blocks.find? (fun x => x.1 == b)).map (·.2)).getD b) }
  let s := s.updJob h (fun j => j.movePages (s.mainOf j) (s.draftOf j) r.pages)
  (s.dropPages h r).fixW

/-- The step that a new layout is planned for: the mean of the last window's steps, or the uniform batch (R158). -/
def Layout.demand (l : Layout) : Demand :=
  if l.past.steps = 0 then uniformBatch else ⟨ceilDiv l.past.toks l.past.steps, l.past.pos / l.past.steps⟩

/-- The stages that the placement engine plans for a job as it stands (R158, R165). -/
def State.planStages (s : State) (j : Job) : List Stage :=
  stagesOf ((s.jobGraphs j).map (·.descs)) j.nRanks j.rank j.layout.demand s.fenced

/-- Install a new layout at item 4 of a boundary (R165): the stages planned, over cells that are not fenced, and what was
copied; PLACE_EPOCH one higher, the first step in credit mode (R95). -/
def State.installRepl (s : State) (h t : Nat) : State :=
  match s.job h with
  | none => s
  | some j =>
    let l := j.layout
    let planned := match l.pending with
      | some r => if r.stages.any (fun x => x.cells.any (s.fenced.contains ·)) then s.planStages j else r.stages
      | none => s.planStages j
    let new := { l with stages := planned, epoch := l.epoch + 1, replDone := satInc l.replDone, pending := none,
                        sinceInstall := 0 }
    let s := s.updJob h (fun j => { j with layout := new, credit := true })
    match l.pending with
    | none => s
    | some r => (if r.copied then s.moveCopies h r else s.dropCopies h r).answerPlaces j r.places t new.epoch.toNat 0

/-- Does a stage's spread exceed REPL_RATIO (Q8.8 against Q16.16) (R164)? -/
def overRatio (ratio spread : Nat) : Bool := decide (ratio * 256 < spread)

/-- A layout at a window end: the spreads of the window, and whether each stage was over in this window (R164). -/
def Layout.windowEnd (l : Layout) (ratio : Nat) (spreads : List (Nat × Nat)) : Layout :=
  { l with
    stages := l.stages.map (fun x =>
      let v := lookupD 0 x.number spreads
      { x with spread := v % 2 ^ 32, hot := overRatio ratio v }),
    sinceInstall := l.sinceInstall + 1,
    window := ⟨0, 0, 0⟩,
    past := l.window,
    flowStalled := false }

/-- Was a stage over in this window and in the one before (R164)? -/
def Layout.twiceOver (l : Layout) (ratio : Nat) (spreads : List (Nat × Nat)) : Bool :=
  l.stages.any (fun x => x.hot && overRatio ratio (lookupD 0 x.number spreads))

/-- Free frames and frames of a job on a stack. -/
def Job.framesOnStack (j : Job) (st : Nat) : Nat × Nat :=
  let ps := j.pools.filter (fun p => p.stack == st)
  (sumN (ps.map j.freeIn), sumN (ps.map (·.count)))

/-- The stacks whose free frames have fallen below one-sixteenth of their S region while another stack of the same die has at
least a quarter free (R164). -/
def Job.lowStacks (j : Job) : List Nat :=
  (List.range 12).filter (fun st =>
    let x := j.framesOnStack st
    decide (16 * x.1 < x.2) && (List.range 12).any (fun o =>
      let y := j.framesOnStack o
      o != st && stackDie o == stackDie st && decide (0 < y.2 ∧ y.2 ≤ 4 * y.1)))

/-- The pages of a job's sequences that may move: they hold only committed positions and are neither TENTATIVE nor PINNED:
(B, frame) (R228). -/
def Job.movable (j : Job) (g dg : Option Graph) : List (Nat × Nat) :=
  (j.kvStates.flatMap (fun x => (x.2.pt.filter (fun e =>
    e.valid && !e.tentative && !e.pinned && decide (16 * e.page + 16 ≤ x.2.len))).map (fun e =>
      (j.kvB (if x.1 then dg else g) e.desc, e.frame)))).eraseDups

/-- Choose a new frame for each page that stands on one of some stacks, on the stack of its die with the most free frames, while
that has more free than the page's own; the new frames are taken and held (R162, R165). -/
def planPages (low : List Nat) : Job → List (Nat × Nat) → Job × List (Nat × Nat × Nat)
  | j, [] => (j, [])
  | j, p :: ps =>
    let st := frameStack p.2
    match (if low.contains st then j.pickFrame (stackDie st) p.1 else none) with
    | none => planPages low j ps
    | some f =>
      if (j.framesOnStack st).1 + 1 < (j.framesOnStack (frameStack f)).1 then
        let r := planPages low ((j.take p.1 f false).pin [(p.1, f)] true) ps
        (r.1, (p.1, p.2, f) :: r.2)
      else planPages low j ps

/-- Move blocks one by one from a die's stack with the most weight bytes to the one with the fewest, while that makes the most
smaller (R159, R162): old and new. `used` is what stands. -/
def planBlocks (die : Nat) : List Block → List Block → List (Block × Block)
  | _, [] => []
  | used, b :: bs =>
    let most := maxN ((List.range' (6 * die) 6).map (blockBytesOn used))
    let to_ := lightestStack die used
    if stackDie b.stack = die ∧ blockBytesOn used b.stack = most ∧ blockBytesOn used to_ + b.bytes < most ∧ b.poison = .clean then
      let b' := placeBlock die used b
      (b, b') :: planBlocks die (b' :: used.filter (· != b)) bs
    else planBlocks die used bs

/-- The blocks that a re-placement of a job moves: none where W space is too short for a copy (R165). -/
def State.planMoves (s : State) (j : Job) : List (Block × Block) :=
  let mine := s.blocks.filter (fun b => b.gref == j.gref || j.dref == some b.gref)
  let ms := planBlocks 0 s.allBlocks mine ++ planBlocks 1 s.allBlocks mine
  if s.blocksFit j.part (ms.map (·.2)) then ms else []

/-- Start a re-placement: the new layout is planned, and places are taken for what moves (R164, R165). -/
def State.startRepl (s : State) (j : Job) (l : Layout) (places : List (PartId × BoxId)) (byPlace : Bool) : State :=
  let p := planPages j.lowStacks j (j.movable (s.mainOf j) (s.draftOf j))
  let r : Repl := ⟨places, byPlace, false, s.planStages { j with layout := l }, s.planMoves j, p.2⟩
  (s.updJob j.handle (fun _ => { p.1 with layout := { l with pending := some r } })).fixW

/-- A job at a window end, REPL_WINDOW steps after the last: a re-placement starts for a waiting PLACE, or in the background,
when none is pending and two windows have passed since the last install (R164, R167). -/
def State.windowEnd (s : State) (h : Nat) (spreads : List (Nat × Nat)) : State :=
  match s.job h with
  | none => s
  | some j =>
    if j.layout.window.steps < j.cfg.replWindow then s
    else
      let l := j.layout.windowEnd j.cfg.replRatio spreads
      let free := l.pending.isNone && decide (2 ≤ l.sinceInstall)
      let back := j.cfg.replMode == 0
        && (j.layout.twiceOver j.cfg.replRatio spreads || j.layout.flowStalled || !j.lowStacks.isEmpty)
      if free && !l.placeWaiting.isEmpty then s.startRepl j { l with placeWaiting := [] } l.placeWaiting true
      else if free && back then s.startRepl j l [] false
      else s.updJob h (fun j => { j with layout := l })

/-- A stage's spread in Q16.16, rounded down: its most loaded cell's load in the window by the mean of its cells'. The window's
steps divide out. Where no cell had any load the spec states none (R164, R169; DESIGN CHOICE, notes/assumptions/78.md). -/
def spreadOf (x : Stage) (top total : Nat) : Nat :=
  if total = 0 then (Config.idleSpread x.number).toNat else top * x.cells.length * 65536 / total

/-- The spreads of a job's stages: `tops` and `totals` hold, by stage, the load over the window of its most loaded cell and of all
its cells, in ticks (R164). -/
def Layout.spreads (l : Layout) (tops totals : List (Nat × Nat)) : List (Nat × Nat) :=
  l.stages.map (fun x => (x.number, spreadOf x (lookupD 0 x.number tops) (lookupD 0 x.number totals)))

/-- REPL_WINDOW_END (R164): the loads measured over the window. -/
def execReplWindowEnd (job : Nat) (tops totals : List (Nat × Nat)) (s : State) : Host.Outcome State Fault Refusal :=
  .next (match s.job job with
    | none => s
    | some j => s.windowEnd job (j.layout.spreads tops totals))

/-- Does a copy read something that is poisoned or uncorrectable (R166)? -/
def State.copyFails (s : State) (j : Job) (r : Repl) : Bool :=
  r.blocks.any (fun x => x.1.poison != .clean || !(s.hbm.badLines x.1.addr x.1.bytes).isEmpty)
    || r.pages.any (fun x => s.hbm.sBadRange (j.frameAddr x.1 x.2.1) (640 * x.1))

/-- The copies themselves (R165, R270). -/
def State.copyAll (s : State) (h : Nat) (r : Repl) : State :=
  let s := s.storeBlocks (r.blocks.map (fun x => (x.2, s.blockBytes x.1)))
  s.updJobHbm h (fun j hb =>
    (r.pages.foldl (fun j x => j.fill x.1 x.2.2 (j.filledOf x.1 x.2.1)) j,
     r.pages.foldl (fun hb x => hb.sWrite (j.frameAddr x.1 x.2.2) (hb.read (j.frameAddr x.1 x.2.1) (640 * x.1))) hb))

/-- The copies of a job's re-placement are done, unless one of them reads bad data (R165, R166). -/
def State.copiesDone (s : State) (h : Nat) : State :=
  match s.job h with
  | none => s
  | some j => match j.layout.pending with
    | none => s
    | some r =>
      if r.copied then s
      else if s.copyFails j r then s.abandonRepl h s.now
      else (s.copyAll h r).updJob h (fun j => { j with layout := { j.layout with pending := some { r with copied := true } } })

/-- REPLACEMENT_COPIES_DONE (R165): the re-placement installs at the next boundary. -/
def execReplacementCopiesDone (job : Nat) (s : State) : Host.Outcome State Fault Refusal := .next (s.copiesDone job)

/-! ## PLACE, request (R167) -/

/-- A PLACE request joins a pending background re-placement, or waits for the next window end (R166, R167). -/
def Job.askPlace (x : PartId × BoxId) (j : Job) : Job :=
  match j.layout.pending with
  | some r => { j with layout := { j.layout with pending := some { r with places := r.places ++ [x] } } }
  | none => { j with layout := { j.layout with placeWaiting := j.layout.placeWaiting ++ [x] } }

/-- The fields that must be 0 in a request (R344). -/
def requestChecks (b : Bytes) : List (Nat × Bool) :=
  [(0, decide (u32 b 0 < 2)), (4, u32 b 4 == 0), (8, u8 b 8 == 0), (9, u8 b 9 == 0)] ++ zeroRun b 0x0A 2
    ++ [(0x0C, u32 b 0x0C == 0), (0x10, u32 b 0x10 == 0)]

/-- A PLACE request, accepted: it waits for the re-placement of this rank (notes/assumptions/18.md). -/
def acceptRequest (c : Cmd) (s : State) : State :=
  match firstFault [scopeFault (s.scoped c), bodyFault c.body (bodyFields 0x12) (requestChecks c.body)] with
  | some r => (s.finish (s.named c) r)
  | none => (s.stage (s.named c)).updJob c.job (Job.askPlace (c.p, c.m))

/-- PLACE of either mode. -/
def acceptPlace (c : Cmd) (s : State) : State := if placeMode c.body then acceptRequest c s else acceptPreview c s

/-- PLACE_REQUEST (R167). -/
def execPlaceRequest (p : PartId) (m : BoxId) (s : State) : Host.Outcome State Fault Refusal :=
  .next (s.serveIf p m 0x12 placeMode acceptRequest)

end Sys2Proof.Machine
end

