-- ==== Sys2Proof/Machine/ConfigSet.lean ====
section
/-! DEFINITION. Configuration sets: their fields, queue-pair records, checks and application (R287-R290, R348-R350). -/
namespace Sys2Proof.Machine

/-! ## Fields (R349) -/

/-- Is a FIELD a job-scope field? -/
def jobField (f : Nat) : Bool := decide (1 ≤ f ∧ f ≤ 0x0B)

/-- Is a FIELD a module-scope field? -/
def moduleField (f : Nat) : Bool := decide (0x0100 ≤ f ∧ f ≤ 0x0109) || decide (0x0110 ≤ f ∧ f ≤ 0x0116)

/-- Is INDEX right for a FIELD: 4 · port + i, i = 1-3, for HOST_GID, else 0 (R349)? -/
def indexOk (f i : Nat) : Bool := if f = 0x0102 ∨ f = 0x0103 then decide (i < 16 ∧ i % 4 ≠ 0) else i == 0

/-- Is a VALUE in the range of its FIELD (R96, R163, R182, R235, R275, R288, R305)? -/
def valueOk (f v : Nat) : Bool :=
  let within (lo hi : Nat) : Bool := decide (lo ≤ v ∧ v ≤ hi)
  match f with
  | 0x01 => within 0 1
  | 0x02 => within 16 4096
  | 0x03 => within 0x0110 0x0400
  | 0x04 => within 1 25
  | 0x05 => within 1 4096
  | 0x06 => within 16 8192
  | 0x07 => within 16 8192 && v % 16 == 0
  | 0x08 => within 0 1048576
  | 0x09 => within 15625 156250000
  | 0x0A => within 1 0x8000
  | 0x0B => within 1 1024
  | 0x0100 => within 65536 16777216
  | 0x0101 => v == 0 || within 15625 156250000
  | 0x0102 => true
  | 0x0103 => true
  | 0x0104 => within 0 4094
  | 0x0105 => within 0 7
  | 0x0106 => within 0 63
  | 0x0107 => within 0 63
  | 0x0108 => within 625 156250
  | 0x0109 => within 15625 156250000
  | 0x0110 => within 0 4094
  | 0x0111 => within 0 7
  | 0x0112 => within 625 156250
  | 0x0113 => within 156 62500
  | 0x0114 => within 1 64
  | 0x0115 => within 1 1024
  | 0x0116 => within 15625 1562500000
  | _ => false

/-- The defaults of the job-scope fields (R163, R182, R235). -/
def JobCfg.default : JobCfg := ⟨0, 256, 0x0140, 5, 16, 8192, 512, 15625, 4062500, 0x2000, 64⟩

/-- Set one job-scope field. -/
def JobCfg.set (c : JobCfg) (e : CfgEntry) : JobCfg :=
  match e.field with
  | 0x01 => { c with replMode := e.value }
  | 0x02 => { c with replWindow := e.value }
  | 0x03 => { c with replRatio := e.value }
  | 0x04 => { c with replShare := e.value }
  | 0x05 => { c with predWiden := e.value }
  | 0x06 => { c with stepBudget := e.value }
  | 0x07 => { c with chunkMax := e.value }
  | 0x08 => { c with agingTicks := e.value }
  | 0x09 => { c with tEstInit := e.value }
  | 0x0A => { c with specMin := e.value }
  | 0x0B => { c with specCooldown := e.value }
  | _ => c

/-- Set one module-scope field; a GID is set half by half (R349). A GID stands in transmission order, byte 0 first (R11), so
bits [63:0] of HOST_GID are its first eight bytes. -/
def ModCfg.set (c : ModCfg) (e : CfgEntry) : ModCfg :=
  match e.field with
  | 0x0100 => { c with stallLimit := e.value }
  | 0x0101 => { c with scrubInterval := e.value }
  | 0x0102 => { c with gids := assocSet e.index (c.gid e.index % 2 ^ 64 + beNat (leBytes 8 e.value) * 2 ^ 64) c.gids }
  | 0x0103 => { c with gids := assocSet e.index (c.gid e.index / 2 ^ 64 * 2 ^ 64 + beNat (leBytes 8 e.value)) c.gids }
  | 0x0104 => { c with hostVlan := e.value }
  | 0x0105 => { c with pfcPrio := e.value }
  | 0x0106 => { c with rdmaDscp := e.value }
  | 0x0107 => { c with cnpDscp := e.value }
  | 0x0108 => { c with cnpInterval := e.value }
  | 0x0109 => { c with qpRestart := e.value }
  | 0x0110 => { c with fabVlan := e.value }
  | 0x0111 => { c with fabPcp := e.value }
  | 0x0112 => { c with fabRto := e.value }
  | 0x0113 => { c with fabGap := e.value }
  | 0x0114 => { c with fabRetries := e.value }
  | 0x0115 => { c with fabViolLimit := e.value }
  | 0x0116 => { c with fabViolWindow := e.value }
  | _ => c

/-- The values that entries leave, in set order (R348). -/
def JobCfg.apply (c : JobCfg) (es : List CfgEntry) : JobCfg := es.foldl JobCfg.set c

/-- The values that entries leave, in set order (R348). -/
def ModCfg.apply (c : ModCfg) (es : List CfgEntry) : ModCfg := es.foldl ModCfg.set c

/-! ## Queue-pair records (R290) -/

/-- Is an address in the IPv4-mapped form of R287? -/
def gidIsV4 (g : Nat) : Bool := g / 2 ^ 32 == 0xFFFF

/-- The entry of a port's GID table: entry 0 is the link-local address, never empty and of IPv6 type (R287). -/
def ModCfg.gidEntry (c : ModCfg) (port i : Nat) : Option Nat :=
  if i = 0 then some (0xFE80 * 2 ^ 112)
  else if c.gid (4 * port + i) = 0 then none else some (c.gid (4 * port + i))

/-- A QP record as a queue pair at its initial PSNs (R290). -/
def qpOf (r : Bytes) : Qp where
  index := u16 r 0
  part := ⟨u8 r 2 % 8, Nat.mod_lt _ (by decide)⟩
  port := ⟨fld (u8 r 2) 3 2, Nat.mod_lt _ (by decide)⟩
  notice := fld (u8 r 2) 6 2
  pmtu := u8 r 3 % 8
  sgid := fld (u8 r 3) 3 2
  remoteQpn := leNat (sub r 4 3)
  initSend := BitVec.ofNat 24 (leNat (sub r 8 3))
  initRecv := BitVec.ofNat 24 (leNat (sub r 0x0C 3))
  remoteGid := beNat (sub r 0x10 16)
  remoteMac := BitVec.ofNat 48 (beNat (sub r 0x20 6))
  timeout := u8 r 0x26 % 32
  retryCnt := u8 r 0x26 / 32
  maxRd := u8 r 0x27 % 32
  noticeRkey := BitVec.ofNat 32 (u32 r 0x28)
  noticeVa := BitVec.ofNat 64 (u64 r 0x30)
  sendPsn := BitVec.ofNat 24 (leNat (sub r 8 3))
  recvPsn := BitVec.ofNat 24 (leNat (sub r 0x0C 3))
  inError := none
  nakSent := false
  rate := ⟨400, 0⟩
  cnpSentAt := none
  cnpRecvAt := none
  rateAt := 0
  notices := []
  flips := []
  lastEvents := []

/-- VALID of a QP record. -/
def qpValid (r : Bytes) : Bool := bit (u8 r 2) 5

/-- The checks of a QP record under the values a set leaves, by offset in the record (R290). -/
def qpChecks (c : ModCfg) (r : Bytes) : List (Nat × Bool) :=
  let q := qpOf r
  let src := c.gidEntry q.port.val q.sgid
  [(0, decide (q.index < 1024)), (2, decide (q.notice < 3)),
   (3, decide (1 ≤ q.pmtu ∧ q.pmtu ≤ 5) && decide (u8 r 3 < 32) && src.isSome), (7, u8 r 7 == 0), (0x0B, u8 r 0x0B == 0),
   (0x0F, u8 r 0x0F == 0),
   (0x10, match src with | some g => gidIsV4 g == gidIsV4 q.remoteGid | none => true),
   (0x26, decide (1 ≤ q.timeout)), (0x27, decide (1 ≤ q.maxRd ∧ q.maxRd ≤ 16 ∧ u8 r 0x27 < 32))]
    ++ zeroRun r 0x2C 4 ++ zeroRun r 0x38 8

/-- Apply a QP record: create or reset the queue pair, or destroy it (R290). -/
def applyQp (qs : List Qp) (r : Bytes) : List Qp :=
  let rest := qs.filter (fun q => !(q.index == u16 r 0))
  if qpValid r then rest ++ [qpOf r] else rest

/-! ## A set (R348) -/

/-- The parts of a set. -/
structure CfgSet where
  isModule : Bool
  nFields : Nat
  nQp : Nat
  entries : List CfgEntry
  qps : List Bytes
  deriving DecidableEq, Repr

/-- Read a set (R348). -/
def cfgSet (b : Bytes) : CfgSet :=
  let nf := u16 b 2
  let nq := u16 b 4
  ⟨bit (u8 b 0) 0, nf, nq,
   (List.range nf).map (fun k => let o := 16 + 16 * k; ⟨u16 b o, u16 b (o + 2), u64 b (o + 8)⟩),
   (List.range nq).map (fun k => sub b (16 + 16 * nf + 64 * k) 64)⟩

/-- The first byte of the field of a QP record that byte `o` of it lies in (R290). -/
def qpFieldAt (o : Nat) : Nat :=
  ([0, 2, 3, 4, 7, 8, 0x0B, 0x0C, 0x0F, 0x10, 0x20, 0x26, 0x27, 0x28, 0x2C, 0x30, 0x38].filter (· ≤ o)).getLastD 0

/-- The offset of the first field of a set not wholly within its bytes (R350). -/
def uncovered (b : Bytes) : Option Nat :=
  let n := b.length
  if n < 16 then some (([0, 1, 2, 4, 6].filter (· ≤ n)).getLastD 0)
  else
    let x := 16 + 16 * u16 b 2
    if x + 64 * u16 b 4 ≤ n then none
    else if n < x then
      let o := (n - 16) / 16 * 16 + 16
      some (([o, o + 2, o + 4, o + 8].filter (· ≤ n)).getLastD o)
    else
      let o := x + (n - x) / 64 * 64
      some (o + qpFieldAt (n - o))

/-- The checks of a set's fields and records, by offset in the set (R349, R350). The bits of the header that R348 reserves
beside its three fields are taken as fields at bytes 0, 1 and 6 (DESIGN CHOICE, notes/assumptions/84.md). -/
def setChecks (cfg : ModCfg) (b : Bytes) : List (Nat × Bool) :=
  let x := cfgSet b
  let after := cfg.apply x.entries
  [(0, decide (u8 b 0 < 2)), (1, u8 b 1 == 0), (4, x.isModule || x.nQp == 0)] ++ zeroRun b 6 10
    ++ x.entries.zipIdx.flatMap (fun e =>
        let o := 16 + 16 * e.2
        [(o, if x.isModule then moduleField e.1.field else jobField e.1.field), (o + 2, indexOk e.1.field e.1.index)]
          ++ zeroRun b (o + 4) 4 ++ [(o + 8, valueOk e.1.field e.1.value)])
    ++ x.qps.zipIdx.flatMap (fun r => (qpChecks after r.1).map (fun k => (16 + 16 * x.nFields + 64 * r.2 + k.1, k.2)))

/-- The break of R324 that a set's values would leave: the offset of the last entry that names FAB_RTO or FAB_RETRIES
(DEDUCED, notes/assumptions/19.md). -/
def State.boundBreak (s : State) (b : Bytes) : Option Nat :=
  let x := cfgSet b
  let after := s.cfg.apply x.entries
  if x.isModule = true ∧ s.jobs.any (fun j => decide (1 < j.nRanks ∧ j.period < after.fabRetries * after.fabRto + 625)) = true
  then ((x.entries.zipIdx.filter (fun e => e.1.field == 0x0112 || e.1.field == 0x0114)).getLast?).map (fun e => 24 + 16 * e.2)
  else none

/-- What a set fails with, or none: coverage, limits, fields and records, R324, rights (R350). -/
def State.setFault (s : State) (p : PartId) (b : Bytes) : Option Result :=
  let x := cfgSet b
  let limits := if b.length < 16 then none else firstBad [(2, decide (x.nFields ≤ 512)), (4, decide (x.nQp ≤ 1024))]
  firstFault [limits.map (failAt 0x8201), (uncovered b).map (failAt 0x8201), (firstBad (setChecks s.cfg b)).map (failAt 0x8201),
    (s.boundBreak b).map (failAt 0x8201),
    needs (!x.isModule || (s.planRec p).moduleCfg || x.nFields == 0),
    needs (x.qps.all (fun r => (qpOf r).part == p))]

/-- Apply a set, whole (R350): to the job it names, or to the module. -/
def State.applySet (s : State) (job : Nat) (b : Bytes) : State :=
  let x := cfgSet b
  if x.isModule then { s with cfg := s.cfg.apply x.entries, net := { s.net with qps := x.qps.foldl applyQp s.net.qps } }
  else s.updJob job (fun j => { j with cfg := j.cfg.apply x.entries })

/-- After a set that leaves REPL_MODE 1, a pending background re-placement is abandoned (R166). -/
def State.replModeCheck (s : State) (job t : Nat) : State :=
  match s.job job with
  | none => s
  | some j => match j.layout.pending with
    | none => s
    | some r => if j.cfg.replMode = 1 ∧ r.byPlace = false then s.abandonRepl job t else s

/-- APPLY_CONFIG_SET at the instant it applies: checked again against the values in force (R356), then applied. -/
def commitConfigSet (c : Cmd) (t : Nat) (s : State) : State :=
  match (s.boundBreak c.data).map (failAt 0x8201) with
  | some r => s.answer c t r
  | none => ((s.applySet c.job c.data).replModeCheck c.job t).answer c t (ok [])

/-- The scope check of APPLY_CONFIG_SET, by the set's SCOPE bit (R343). -/
def State.setScope (s : State) (c : Cmd) (b : Bytes) : Option Result :=
  if bit (u8 b 0) 0 then noScope c else scopeFault (s.scoped c)

/-- APPLY_CONFIG_SET, accepted: the set is read when the command is checked, no further than the largest set. -/
def acceptConfigSet (c : Cmd) (s : State) : State :=
  let b := s.slotRead c.p (u32 c.body 0) (Nat.min 73744 (u32 c.body 4))
  let c := { c with data := b }
  let job := if bit (u8 b 0) 0 then s.active else some c.job
  s.staged c (firstFault [bodyFault c.body (bodyFields 0x02) [], statusFault (s.areaStatus c.p (s.areas c.p 0x02 c.body)),
    s.setScope c b, s.setFault c.p b]) job commitConfigSet

/-- APPLY_CONFIG_SET (R348-R350). -/
def execApplyConfigSet (p : PartId) (m : BoxId) (s : State) : Host.Outcome State Fault Refusal :=
  .next (s.serve p m 0x02 acceptConfigSet)

end Sys2Proof.Machine
end

