-- ==== Sys2Proof/Machine/Loads.lean ====
section
/-! DEFINITION. LOAD_GRAPH and LOAD_WEIGHTS (R115-R118, R137, R138, R144, R336, R364). -/
namespace Sys2Proof.Machine

/-- A partition by number. -/
def partOf (n : Nat) : PartId := ⟨n % 8, Nat.mod_lt _ (by decide)⟩

/-- The partitions that receive an event about a graph's structures (R365, R367). -/
def State.graphReceivers (s : State) (g : Graph) : List PartId :=
  if g.shared then allParts.filter s.enabled else [partOf g.owner]

/-- Is HBM degraded: the loads and OPEN_JOB fail (R277)? -/
def State.hbmUnavailable (s : State) : Option Result := if s.hbm.degraded then some (fail 0x8501) else none

/-- Does an open job use a graph? -/
def State.graphUsed (s : State) (gref : Nat) : Bool := s.jobs.any (fun j => j.gref == gref || j.dref == some gref)

/-- Is a traffic generator running (R278)? -/
def State.generating (s : State) : Bool := s.hbm.gens.any (fun g => g.2.status == 1)

/-- Is LOAD_WEIGHTS refused while a generator runs (R278)? -/
def State.generatorHolds (s : State) : Option Result := if s.generating then some (fail 0x8501) else none

/-! ## LOAD_GRAPH -/

/-- The image that LOAD_GRAPH names: IMAGE_BYTES of it when in range, else its header. -/
def State.imageAt (s : State) (c : Cmd) : Bytes :=
  let slot := u32 c.body 0
  let n := u32 (s.slotRead c.p slot 64) 0x0C
  s.slotRead c.p slot (if imageBytesOk n then n else 64)

/-- The earlier graph that a load of an id replaces. -/
def State.replaced (s : State) (p : PartId) (id : Nat) (shared : Bool) : Option Graph :=
  s.graphs.find? (fun g => g.id == id && g.shared == shared && (shared || g.owner == p.val))

/-- What R336, R118 and R115 refuse: a shared id of another loader, an id that is both shared and private, a graph in use,
a seventeenth graph. -/
def State.idFault (s : State) (p : PartId) (id : Nat) (shared : Bool) : Option Result :=
  if s.graphs.any (fun g => g.id == id && g.shared != shared && (shared || g.shared)) then some (fail 0x8103)
  else match s.replaced p id shared with
    | some g =>
      if shared = true ∧ g.owner ≠ p.val then some (fail 0x8004)
      else if s.graphUsed g.gref then some (fail 0x8103) else none
    | none => if 16 ≤ (s.graphs.filter (fun g => g.owner == p.val)).length then some (fail 0x8107) else none

/-- A graph from a checked image. -/
def graphFrom (gref owner : Nat) (shared : Bool) (h : GraphHdr) (ds : List Desc) : Graph :=
  ⟨gref, owner, shared, h.id, h.role, h.hidden, h.vocab, h.maxCtx, h.draftOf, ds⟩

/-- The data section of an image as W holds it: a block of its own, listed under no descriptor; none where it is empty (R115, R253,
R270). -/
def dataBlock (gref : Nat) (image : Bytes) : List (Block × Bytes) :=
  let bs := image.drop (u32 image 0x24)
  if bs.isEmpty then [] else [(⟨gref, dataDesc, 0, .wide2, bs.length / 64, 0, .clean⟩, bs)]

/-- The data section of a graph about to be loaded, in its place (R159). -/
def State.placedData (s : State) (g : Graph) (image : Bytes) : List (Block × Bytes) :=
  let bs := dataBlock g.gref image
  (placeBlocks g s.allBlocks (bs.map (·.1))).zip (bs.map (·.2))

/-- Commit a graph: its data section is written, the id names it, the earlier graph and its weights are gone (R118, R144, R270). -/
def State.commitGraph (s : State) (p : PartId) (g : Graph) (data : List (Block × Bytes)) : State :=
  let s := s.storeBlocks data
  let s : State := { s with blocks := s.blocks ++ data.map (·.1) }
  let s : State := match s.replaced p g.id g.shared with
    | some o => { (s.dropBlocks (fun b => b.gref == o.gref)) with graphs := s.graphs.filter (fun x => x.gref != o.gref) }
    | none => s
  { s with graphs := s.graphs ++ [g], nextGref := s.nextGref + 1 }.fixW

/-- The fields of LOAD_GRAPH's body that have a range (R344). -/
def loadGraphChecks (b : Bytes) : List (Nat × Bool) := [(4, decide (u32 b 4 < 2))]

/-- LOAD_GRAPH, accepted: its data section needs W units of the partition's quota (R143, R334). -/
def acceptLoadGraph (c : Cmd) (s : State) : State :=
  let shared := bit (u8 c.body 4) 0
  let pre := firstFault [noScope c, bodyFault c.body (bodyFields 0x10) (loadGraphChecks c.body),
    needs (!shared || (s.planRec c.p).sharedWriter), s.hbmUnavailable,
    statusFault (s.areaStatus c.p (s.areas c.p 0x10 c.body))]
  match pre with
  | some r => s.immediate c (some r) (fun _ s => (s, r))
  | none =>
    match parseGraph (s.imageAt c) with
    | .error x => s.immediate c (some (failAt x.1 x.2)) (fun _ s => (s, fail 0x8101))
    | .ok (h, ds) =>
      let g := graphFrom s.nextGref c.p.val shared h ds
      let data := s.placedData g (s.imageAt c)
      let fits := if s.blocksFit c.p (data.map (·.1)) then none else some (fail 0x8202)
      s.immediate c (firstFault [s.idFault c.p h.id shared, fits]) (fun c s => (s.commitGraph c.p g data, ok (leBytes 4 h.id)))

/-- LOAD_GRAPH (R117). -/
def execLoadGraph (p : PartId) (m : BoxId) (s : State) : Host.Outcome State Fault Refusal :=
  .next (s.serve p m 0x10 acceptLoadGraph)

/-! ## LOAD_WEIGHTS -/

/-- The entries of a packet whose header stands. -/
def pkEntries (pk : Bytes) : List PkEntry := (List.range (u32 pk 0x0C)).map (pkEntry pk)

/-- The first failure of a packet: its graph, the right to write it, its header, its entries (R137, R138, R336). -/
def State.packetFault (s : State) (p : PartId) (pk : Bytes) : Option Result :=
  match s.graphOf p (u32 pk 0) with
  | none => some (fail 0x8106)
  | some g =>
    if g.owner ≠ p.val then some (fail 0x8004)
    else match firstBad (packetHdrChecks pk g.descs[u16 pk 4]?) with
      | some o => some (failAt 0x8104 o)
      | none => match g.descs[u16 pk 4]? with
        | none => some (failAt 0x8104 4)
        | some d => (firstBadEntry d (u32 pk 8) (u32 pk 0x10) pk.length 0 [] (pkEntries pk)).map
            (fun k => failAt 0x8104 (0x40 + 8 * k))

/-- The blocks that a good packet stages, with their bytes, not yet placed (R138). -/
def packetBlocks (g : Graph) (pk : Bytes) : List (Block × Bytes) :=
  (pkEntries pk).zipIdx.filterMap (fun e => match wfmtOfCode e.1.fmtCode with
    | none => none
    | some f =>
      let bs := stagedBlock f e.1.blk
      some (⟨g.gref, u16 pk 4, u32 pk 8 + e.2, f, bs.length / 64, 0, .clean⟩, bs))

/-- Does parity rebuild a block that staged blocks replace? -/
def State.rebuildsFor (s : State) (bs : List Block) : Bool :=
  s.blocks.any (fun o => o.poison == .rebuilding && bs.any (fun n => n.gref == o.gref && n.desc == o.desc && n.entry == o.entry))

/-- Commit staged blocks: their entries replace those loaded before, a pending re-placement of a job that uses the graph is
abandoned (R166), and a poisoned block's poison clears with WEIGHT_REPAIR, outcome 1 (R364). While parity rebuilds a block
that it replaces, the command waits (R280, R374, notes/assumptions/81.md). -/
def commitLoadWeights (c : Cmd) (t : Nat) (s : State) : State :=
  if s.rebuildsFor c.blocks then s
  else match c.blocks with
  | [] => s.answer c t (ok [])
  | b :: _ =>
    match s.graph b.gref with
    | none => (s.dropStaged c).answer c t (fail 0x8106)
    | some g =>
      let old := s.blocks.filter (fun o => o.poison != .clean && c.blocks.any (fun n =>
        n.gref == o.gref && n.desc == o.desc && n.entry == o.entry))
      let s : State := { s with cmds := s.cmds.map (fun d => if d.p == c.p && d.m == c.m then { d with blocks := [] } else d) }
      let s := (s.refetchBlocks old c.blocks).commitBlocks c.blocks
      let s : State := { s with counters := { s.counters with blocksRefetched := satAdd s.counters.blocksRefetched old.length } }
      let s := old.foldl (fun s o => s.postParts (s.graphReceivers g)
        { event 0x0020 t with arg0 := g.id, arg1 := o.desc, arg2 := o.entry, arg3 := 1 }) s
      let s := (s.jobs.filter (fun j => j.gref == g.gref || j.dref == some g.gref)).foldl
        (fun s j => s.abandonRepl j.handle t) s
      s.answer c t (ok [])

/-- The fields of LOAD_WEIGHTS' body that have a range (R344). -/
def loadWeightsChecks (b : Bytes) : List (Nat × Bool) := [(4, decide (u32 b 4 % 64 = 0 ∧ 128 ≤ u32 b 4))]

/-- Does the active job use a graph: then LOAD_WEIGHTS commits at its boundary (R343)? -/
def State.activeUses (s : State) (gref : Nat) : Bool :=
  match s.active with
  | none => false
  | some h => s.jobs.any (fun j => j.handle == h && (j.gref == gref || j.dref == some gref))

/-- LOAD_WEIGHTS, accepted: the blocks and their parity are written where nothing refers to them, then committed (R144). -/
def acceptLoadWeights (c : Cmd) (s : State) : State :=
  let c := s.named c
  let pre := firstFault [noScope c, bodyFault c.body (bodyFields 0x11) (loadWeightsChecks c.body), s.hbmUnavailable,
    s.generatorHolds]
  match s.vet c pre with
  | some x => s.refuse c x.2 x.1
  | none =>
    let pk := s.slotRead c.p (u32 c.body 0) (u32 c.body 4)
    match s.packetFault c.p pk, s.graphOf c.p (u32 pk 0) with
    | some r, _ => s.finish c r
    | none, none => s.finish c (fail 0x8106)
    | none, some g =>
      let bs := packetBlocks g pk
      let placed := placeBlocks g s.allBlocks (bs.map (·.1))
      if s.blocksFit c.p placed = false then s.finish c (fail 0x8202)
      else
        let c := { c with blocks := placed }
        let s := s.storeBlocks (placed.zip (bs.map (·.2)))
        if s.activeUses g.gref || s.rebuildsFor placed then (s.stage c).fixW else commitLoadWeights c s.now s

/-- LOAD_WEIGHTS (R137, R138). -/
def execLoadWeights (p : PartId) (m : BoxId) (s : State) : Host.Outcome State Fault Refusal :=
  .next (s.serve p m 0x11 acceptLoadWeights)

end Sys2Proof.Machine
end

