-- ==== Sys2Proof/Machine/Ships.lean ====
section
/-! DEFINITION. KV ships: SHIP_KV, ACCEPT_KV, the ship stream, its acknowledgement and its failures (R221-R226). -/
namespace Sys2Proof.Machine

/-! ## KV state of a job's sequences -/

/-- No KV state. -/
def KvState.empty : KvState := ⟨0, [], ⟨[], [], []⟩⟩

/-- The main graph's KV state of a sequence id: in the table, or direct-mode or accepted (R205). -/
def Job.kvOf (j : Job) (id : Nat) : Option KvState :=
  match j.seqs.find? (fun e => e.req.id == id) with
  | some e => some e.main
  | none => (j.direct.find? (fun e => e.id == id)).map (·.main)

/-- PINNED of an entry as its frame's pins leave it (R202). -/
def fixPinned (j : Job) (b : Nat → Nat) (e : Pte) : Pte :=
  let p := j.frames.any (fun f => f.b == b e.desc && f.frame == e.frame && decide (0 < f.pins))
  if e.valid && e.pinned != p then ({ e with pinned := p } : Pte).sealed else e

/-- Set PINNED on every entry from its frame's pins. -/
def Job.markPins (j : Job) (g dg : Option Graph) : Job :=
  let fm (k : KvState) : KvState := { k with pt := k.pt.map (fixPinned j (j.kvB g)) }
  let fd (k : KvState) : KvState := { k with pt := k.pt.map (fixPinned j (j.kvB dg)) }
  { j with
    seqs := j.seqs.map (fun e => { e with main := fm e.main, draft := fd e.draft }),
    direct := j.direct.map (fun e => { e with main := fm e.main, draft := fd e.draft }) }

/-- Pin or unpin frames of a job, mark its entries and tidy its frames. -/
def State.pinFrames (s : State) (h : Nat) (fs : List (Nat × Nat)) (up : Bool) : State :=
  s.updJob h (fun j => (((j.pin fs up).markPins (s.mainOf j) (s.draftOf j)).tidy (s.mainOf j) (s.draftOf j)))

/-- ATTEND descriptors of a graph with their index and the B of a rank (R198). -/
def attends (g : Graph) (n rank : Nat) : List (Nat × Nat) :=
  (g.descs.zipIdx.filter (fun x => x.1.opcode == 6)).map (fun x => (x.2, x.1.kvB n rank))

/-- GEOM_CRC (R221). -/
def geomCrc (g : Graph) (n : Nat) : Nat :=
  crc32 (leBytes 2 n ++ (g.descs.filter (fun d => d.opcode == 6)).flatMap (fun d => match d.heads with
    | some (_, nkv, hd) => leBytes 2 nkv ++ leBytes 2 hd
    | none => []))

/-! ## The scale record (R222) -/

/-- A sequence's window for a descriptor, oldest entry first; the initial maximum where nothing was shifted (R69). -/
def NumState.win (x : NumState) (di : Nat) (d : Desc) : List Nat := lookupD (List.replicate d.window d.initMax) di x.wins

/-- A sequence's countdowns for a descriptor, by 1,024-element block. -/
def NumState.cd (x : NumState) (di : Nat) (d : Desc) : List Nat :=
  let c := lookupD [] di x.cds
  (List.range d.wideBlocks).map (fun b => c.getD b 0)

/-- Two countdowns a byte, the lower block in the low four bits. -/
def nibbles : List Nat → Bytes
  | [] => []
  | [a] => leBytes 1 (a % 16)
  | a :: b :: xs => leBytes 1 (a % 16 + 16 * (b % 16)) ++ nibbles xs

/-- The scale record of a sequence (R222). -/
def scaleRecord (g : Graph) (x : NumState) : Bytes :=
  (g.descs.zipIdx.filter (fun d => d.1.keepsWin)).flatMap (fun d => (x.win d.2 d.1).flatMap (leBytes 4))
    ++ (g.descs.zipIdx.filter (fun d => d.1.keepsCd)).flatMap (fun d => nibbles (x.cd d.2 d.1))

/-- The windows of a scale record, descriptor by descriptor from offset `o`. -/
def readWins (bs : Bytes) : Nat → List (Desc × Nat) → List (Nat × List Nat)
  | _, [] => []
  | o, d :: ds => (d.2, (List.range d.1.window).map (fun k => u32 bs (o + 4 * k))) :: readWins bs (o + 4 * d.1.window) ds

/-- The countdowns of a scale record, descriptor by descriptor from offset `o`. -/
def readCds (bs : Bytes) : Nat → List (Desc × Nat) → List (Nat × List Nat)
  | _, [] => []
  | o, d :: ds =>
    (d.2, (List.range d.1.wideBlocks).map (fun b => fld (u8 bs (o + b / 2)) (4 * (b % 2)) 4))
      :: readCds bs (o + ceilDiv d.1.wideBlocks 2) ds

/-- The numeric state that a scale record carries. -/
def numOf (g : Graph) (bs : Bytes) : NumState :=
  let ws := g.descs.zipIdx.filter (fun d => d.1.keepsWin)
  ⟨readWins bs 0 ws, readCds bs (sumN (ws.map (fun d => 4 * d.1.window))) (g.descs.zipIdx.filter (fun d => d.1.keepsCd)), []⟩

/-! ## Failing a ship (R226) -/

/-- End a send: its pins go, it leaves the list, and SHIP_KV is answered. -/
def State.endShipOut (s : State) (x : ShipOut) (t : Nat) (r : Result) : State :=
  let s : State := { s with shipsOut := s.shipsOut.filter (fun y => !(y.p == x.p && y.m == x.m)) }
  let s := s.pinFrames x.job x.frames false
  match s.cmdAt x.p x.m with
  | none => s
  | some c => s.answer c t r

/-- End a receive: its frames go back, it leaves the list, and ACCEPT_KV is answered. -/
def State.endShipIn (s : State) (x : ShipRecv) (t : Nat) (r : Result) : State :=
  let s : State := { s with shipsIn := s.shipsIn.filter (fun y => !(y.p == x.p && y.m == x.m)) }
  let s := s.pinFrames x.job x.frames false
  match s.cmdAt x.p x.m with
  | none => s
  | some c => s.answer c t r

/-- Does a send feed a receive: the same ship, from its source job to its destination job, on one module? -/
def State.feeds (s : State) (x : ShipOut) (y : ShipRecv) : Bool :=
  x.shipId == y.shipId && x.job == y.srcJob && x.destJob == y.job && x.dest == s.coord.member

/-- Fail a send, and with it the receive on this module that it feeds (R226). -/
def State.failSend (s : State) (x : ShipOut) (t : Nat) (r : Result) : State :=
  (s.shipsIn.filter (fun y => y.arrived && s.feeds x y)).foldl (fun s y => s.endShipIn y t r) (s.endShipOut x t r)

/-- Fail a receive, and with it the send on this module that feeds it (R226). -/
def State.failRecv (s : State) (y : ShipRecv) (t : Nat) (r : Result) : State :=
  (s.shipsOut.filter (fun x => s.feeds x y)).foldl (fun s x => s.endShipOut x t r) (s.endShipIn y t r)

/-- Fail every ship of a job that is under way: both its commands end with 0x8405, whichever job is the other's (R226). -/
def State.failShipping (s : State) (h t : Nat) : State :=
  let s := (s.shipsOut.filter (fun x => x.job == h)).foldl (fun s x => s.failSend x t (fail 0x8405)) s
  (s.shipsIn.filter (fun y => y.job == h && y.arrived)).foldl (fun s y => s.failRecv y t (fail 0x8405)) s

/-- Fail the receives of a job that wait for their manifest as well: a switch-out, a reset and entry to Calm end them under
R226 (R224). -/
def State.failReceives (s : State) (h t : Nat) : State :=
  (s.shipsIn.filter (fun y => y.job == h)).foldl (fun s y => s.failRecv y t (fail 0x8405)) (s.failShipping h t)

/-- Fail every ship of a job, those of its SHIP_KVs that wait for their boundary among them (R226, R353). -/
def State.failShips (s : State) (h t : Nat) : State :=
  ((s.failReceives h t).cmds.filter (fun c => c.job == h && c.code == 0x35 && !c.sched)).foldl
    (fun s c => s.answer c t (fail 0x8405)) (s.failReceives h t)

/-! ## The receive (R223-R226) -/

/-- The pages a ship brings, in stream order: (descriptor, B, page) (R222). -/
def shipPages (g : Graph) (n rank pages : Nat) : List (Nat × Nat × Nat) :=
  (attends g n rank).flatMap (fun a => if a.2 = 0 then [] else (List.range pages).map (fun p => (a.1, a.2, p)))

/-- Does a manifest agree with the destination job (R221, R222, R225)? -/
def manifestOk (j : Job) (g : Graph) (x : ShipIn) : Bool :=
  let m := x.manifest
  let len := u32 m 8
  let pages := u32 m 0x18
  let as_ := attends g j.nRanks j.rank
  decide (1 ≤ len ∧ len ≤ g.maxCtx) && u8 m 0x0C == j.rank && u8 m 0x0D == j.nRanks && u16 m 0x0E == as_.length
    && u32 m 0x10 == geomCrc g j.nRanks && u16 m 0x14 == (as_.map (·.2)).headD 0 && pages == ceilDiv len 16
    && u32 m 0x1C == (scaleRecord g ⟨[], [], []⟩).length && x.scale.length == u32 m 0x1C
    && u64 m 0x20 == sumN ((shipPages g j.nRanks j.rank pages).map (fun p => 640 * p.2.1)) && x.pages.length == u64 m 0x20
    && zeroAt m 0x16 2 && zeroAt m 0x28 24

/-- Reserve a frame for each page; none when a pool runs short (R223). -/
def reservePages (g : Graph) (j : Job) : List (Nat × Nat × Nat) → Option (Job × List (Nat × Nat × Nat × Nat))
  | [] => some (j, [])
  | p :: ps =>
    match j.pickFrame (attendDie g.descs j.nRanks j.rank p.1) p.2.1 with
    | none => none
    | some f => match reservePages g (j.take p.2.1 f false) ps with
      | none => none
      | some (j', fs) => some (j', (p.1, p.2.1, p.2.2, f) :: fs)

/-- Write received pages into their frames: (B, frame) in stream order. -/
def storePages (j : Job) : List (Nat × Nat) → Bytes → Hbm → Hbm
  | [], _, h => h
  | f :: fs, bs, h => storePages j fs (bs.drop (640 * f.1)) (h.sWrite (j.frameAddr f.1 f.2) (bs.take (640 * f.1)))

/-- The pages for which an open receive reserves frames: PAGES stands in no field of ACCEPT_KV, so it is the largest that
the manifest may bring, the whole context of the job's graph (R222, R223, R225; DEDUCED, notes/assumptions/20.md). -/
def Job.openPages (j : Job) (g : Graph) : List (Nat × Nat × Nat) := shipPages g j.nRanks j.rank (ceilDiv g.maxCtx 16)

/-- Publish an accepted ship: entries, committed length, windows and countdowns, as accepted KV state (R225). -/
def State.publishShip (s : State) (x : ShipRecv) : State :=
  match s.job x.job with
  | none => s
  | some j =>
    let num := match s.mainOf j with | some g => numOf g x.scale | none => ⟨[], [], []⟩
    (s.updJob x.job (fun j => { j with direct := j.direct ++ [⟨x.seq, true, ⟨x.length, x.ptes, num⟩, KvState.empty⟩] }))

/-- ACCEPT_KV commits: what it staged is published, and a source on this module learns of it (R225). -/
def State.commitAccept (s : State) (x : ShipRecv) (t : Nat) : State :=
  let s := (s.publishShip x).endShipIn x t (ok [])
  { s with
    out := s.out ++ [.shipAck x.shipId],
    shipsOut := s.shipsOut.map (fun y => if y.shipId == x.shipId then { y with acked := true } else y) }

/-- A receive with its stream: the frames of the pages it brings, with their staged entries; the others are left over. -/
def ShipRecv.take (x : ShipRecv) (ship : ShipIn) : ShipRecv :=
  let keep := (x.frames.zip x.ptes).filter (fun f => decide (f.2.page < u32 ship.manifest 0x18))
  { x with arrived := true, length := u32 ship.manifest 8, scale := ship.scale, frames := keep.map (·.1),
           ptes := keep.map (·.2) }

/-- A ship's stream at its receive: cut short it fails; at odds with the job it fails with 0x8404; else its pages are staged
in the reserved frames, those left over go back, and the receive commits at the job's boundary, or at once when the job is
not active (R225, R226). -/
def State.shipArrive (s : State) (x : ShipRecv) (ship : ShipIn) (t : Nat) : State :=
  match s.job x.job with
  | none => s
  | some j =>
    match s.mainOf j with
    | none => s
    | some g =>
      if ship.cutShort then s.failRecv x t (fail 0x8405)
      else if u32 ship.manifest 0 ≠ x.shipId ∨ manifestOk j g ship = false then s.failRecv x t (fail 0x8404)
      else
        let y := x.take ship
        let s : State := { s with
          hbm := storePages j y.frames ship.pages s.hbm,
          shipsIn := updIf (fun z => z.p == x.p && z.m == x.m) (fun _ => y) s.shipsIn }
        let s := s.updJob x.job (fun j => y.frames.foldl (fun j f => j.fill f.1 f.2 16) j)
        let s := s.pinFrames x.job (x.frames.filter (fun f => !y.frames.contains f)) false
        if s.isActive x.job then s else s.commitAccept y t

/-- The open receive of a ship id that waits for its manifest. -/
def State.openReceive (s : State) (shipId : Nat) : Option ShipRecv :=
  s.shipsIn.find? (fun x => x.shipId == shipId && !x.arrived)

/-- SHIP_STREAM (R222, R225). -/
def execShipStream (shipId : Nat) (ship : ShipIn) (s : State) : Host.Outcome State Fault Refusal :=
  .next (match s.openReceive shipId with
    | none => s
    | some x => s.shipArrive x ship s.now)

/-- A time of OPEN_WAIT in ticks (R224). -/
def openWaitTicks (units : Nat) : Nat := 65536 * (if units = 0 then 23842 else units)

/-- Fail a receive whose manifest did not come in time (R224). -/
def State.acceptTimeout (s : State) (p : PartId) (m : BoxId) : State :=
  match s.shipsIn.find? (fun x => x.p == p && x.m == m && !x.arrived) with
  | none => s
  | some x => if x.openTime + x.wait ≤ s.now then s.endShipIn x s.now (fail 0x8405) else s

/-- ACCEPT_KV_OPEN_WAIT_EXPIRY (R224). -/
def execAcceptKvOpenWaitExpiry (p : PartId) (m : BoxId) (t : Nat) (s : State) : Host.Outcome State Fault Refusal :=
  .next ((advance t s).acceptTimeout p m)

/-- Is a peer of the job quarantined (R312)? -/
def State.peerLost (s : State) (h : Nat) : Option Result :=
  if s.net.quarantined.any (fun q => q.1 == h) then some (fail 0x8601) else none

/-- The checks of ACCEPT_KV before its slots (R223, R345): the statuses of a sequence id that holds KV state and of a ship
id already open are DETAILs of 0x8003 (DESIGN CHOICE, notes/assumptions/20.md). -/
def State.acceptKvCheck (s : State) (c : Cmd) : Option Result :=
  let holds := match s.job c.job with | some j => (j.kvOf (u32 c.body 4)).isSome | none => false
  let open_ := s.shipsIn.any (fun x => x.shipId == u32 c.body 0)
  firstFault [scopeFault (s.scoped c),
    bodyFault c.body (bodyFields 0x36) ([(0, u32 c.body 0 != 0 && !open_), (4, u32 c.body 4 != 0xFFFFFFFF && !holds)]
      ++ memberChecks c.body 0x10),
    s.peerLost c.job]

/-- The job of an ACCEPT_KV with the frames of its receive reserved, and those frames; none when they are short (R223). -/
def State.acceptReserve (s : State) (c : Cmd) : Option (Job × List (Nat × Nat × Nat × Nat)) :=
  match s.job c.job with
  | none => none
  | some j => match s.mainOf j with
    | none => none
    | some g => reservePages g j (j.openPages g)

/-- Open a receive over reserved frames, which stay pinned until it ends (R143, R223). -/
def State.openRecv (s : State) (c : Cmd) (j : Job) (fs : List (Nat × Nat × Nat × Nat)) : State :=
  let bf := fs.map (fun f => (f.2.1, f.2.2.2))
  let ptes := fs.map (fun f => Pte.make f.2.2.2 (j.genOf f.2.1 f.2.2.2) f.1 f.2.2.1 false)
  let x : ShipRecv := ⟨u32 c.body 0, c.p, c.m, c.job, u32 c.body 4, u32 c.body 8, c.flip, openWaitTicks (u32 c.body 0x0C),
    false, 0, [], bf, ptes⟩
  let s := (s.stage c).updJob c.job (fun _ => j.pin bf true)
  { s with shipsIn := s.shipsIn ++ [x] }

/-- ACCEPT_KV, accepted: its frames are reserved and the receive is open from now; short of frames it fails with 0x8202
(R223). -/
def acceptAcceptKv (c : Cmd) (s : State) : State :=
  match s.acceptKvCheck c with
  | some r => s.finish (s.named c) r
  | none => match s.acceptReserve c with
    | none => s.finish (s.named c) (fail 0x8202)
    | some (j, fs) => s.openRecv (s.named c) j fs

/-- ACCEPT_KV (R223). -/
def execAcceptKv (p : PartId) (m : BoxId) (s : State) : Host.Outcome State Fault Refusal :=
  .next (s.serve p m 0x36 acceptAcceptKv)

/-! ## The send (R225) -/

/-- The bytes of one page as stored; position slots that were never written, and a page released under SPAN, are undefined
bytes (R200, R222). -/
def State.pageBytes (s : State) (j : Job) (k : KvState) (d b page : Nat) : Bytes :=
  let undef (i : Nat) : Byte := Config.unwrittenPageByte (s.draws + i)
  match k.pt.find? (fun e => e.valid && e.desc == d && e.page == page) with
  | none => (List.range (640 * b)).map undef
  | some e =>
    let good := 40 * b * Nat.min 16 (j.filledOf b e.frame)
    s.hbm.read (j.frameAddr b e.frame) good ++ (List.range (640 * b - good)).map undef

/-- The manifest of a ship (R222). -/
def shipManifest (g : Graph) (j : Job) (shipId seq len scaleBytes pageBytes : Nat) : Bytes :=
  let as_ := attends g j.nRanks j.rank
  leBytes 4 shipId ++ leBytes 4 seq ++ leBytes 4 len ++ leBytes 1 j.rank ++ leBytes 1 j.nRanks ++ leBytes 2 as_.length
    ++ leBytes 4 (geomCrc g j.nRanks) ++ leBytes 2 ((as_.map (·.2)).headD 0) ++ zeros 2 ++ leBytes 4 (ceilDiv len 16)
    ++ leBytes 4 scaleBytes ++ leBytes 8 pageBytes ++ zeros 24

/-- Does a page of a sequence read as uncorrectable (R226)? -/
def State.badPage (s : State) (j : Job) (b : Nat) (e : Pte) : Bool := s.hbm.sBadRange (j.frameAddr b e.frame) (640 * b)

/-- Stage a SHIP_KV at its boundary: the committed length is fixed, its pages are pinned and the stream goes out; a receive
on this module takes it, and where there is none the ship fails with 0x8403 (R223, R225, notes/assumptions/20.md). -/
def State.shipStart (s : State) (c : Cmd) (t : Nat) : State :=
  match s.job c.job with
  | none => s.answer c t (fail 0x8405)
  | some j =>
    match s.mainOf j, j.kvOf (u32 c.body 4) with
    | some g, some k =>
      let id := u32 c.body 0
      let own := memberAt c.body 0x10 == s.coord.member
      let pages := ceilDiv k.len 16
      let ps := shipPages g j.nRanks j.rank pages
      let es := k.pt.filter (fun e => e.valid && decide (e.page < pages))
      if k.len = 0 then s.answer c t (fail 0x8405)
      else if own = true ∧ ((s.openReceive id).any (fun x => x.job == u32 c.body 8 && x.srcJob == j.handle)) = false then
        s.answer c t (fail 0x8403)
      else if es.any (fun e => s.badPage j (j.kvB (some g) e.desc) e) then
        (if own then (s.openReceive id).toList.foldl (fun s y => s.failRecv y t (fail 0x8405)) s else s).answer c t (fail 0x8405)
      else
        let bs := ps.flatMap (fun p => s.pageBytes j k p.1 p.2.1 p.2.2)
        let sc := scaleRecord g k.num
        let m := shipManifest g j id (u32 c.body 4) k.len sc.length bs.length
        let bf := es.map (fun e => (j.kvB (some g) e.desc, e.frame))
        let x : ShipOut := ⟨id, c.p, c.m, j.handle, u32 c.body 4, u32 c.body 8, memberAt c.body 0x10, k.len,
          bit (u8 c.body 0x0C) 0, bf, false⟩
        let s : State := { s with draws := s.draws + bs.length, shipsOut := s.shipsOut ++ [x] }
        let s := s.pinFrames j.handle bf true
        if own then
          match s.openReceive id with
          | some r => s.shipArrive r ⟨m, sc, bs, false⟩ t
          | none => s
        else
          let s : State := { s with out := s.out ++ [.shipOffer id, .shipStream id m sc bs] }
          s.transmit ⟨0, (memberAt c.body 0x10).code, 5⟩ (j.rank, j.rank) (m :: (objPayloads sc ++ objPayloads bs))
    | _, _ => s.answer c t (fail 0x8405)

/-- Release a sequence's KV state in its job: a direct-mode or accepted record goes, a table entry keeps none (R225). -/
def Job.releaseSeq (j : Job) (id : Nat) : Job :=
  { j with
    direct := j.direct.filter (fun e => e.id != id),
    seqs := updIf (fun e => e.req.id == id) (fun e => { e with
      main := { e.main with len := 0, pt := [] }, draft := { e.draft with len := 0, pt := [] } }) j.seqs }

/-- SHIP_KV commits after its acknowledgement: the pins go, END releases the source's pages, and it replies (R225). -/
def State.commitShip (s : State) (x : ShipOut) (t : Nat) : State :=
  let s := if x.fin then s.updJob x.job (fun j => j.releaseSeq x.seq) else s
  s.endShipOut x t (ok [])

/-- SHIP_KV at a boundary: staged at the first, committed at one after its acknowledgement (R225). -/
def commitShipKv (c : Cmd) (t : Nat) (s : State) : State :=
  match s.shipsOut.find? (fun x => x.p == c.p && x.m == c.m) with
  | none => s.shipStart c t
  | some x => if x.acked then s.commitShip x t else s

/-- ACCEPT_KV at a boundary: it commits once its pages are staged (R225). -/
def commitAcceptKv (c : Cmd) (t : Nat) (s : State) : State :=
  match s.shipsIn.find? (fun x => x.p == c.p && x.m == c.m) with
  | none => s
  | some x => if x.arrived then s.commitAccept x t else s

/-- The checks of SHIP_KV (R345); an id of no sequence with KV state is DETAIL 4 of 0x8003 (DESIGN CHOICE,
notes/assumptions/20.md). -/
def State.shipKvCheck (s : State) (c : Cmd) : Option Result :=
  let holds := match s.job c.job with
    | some j => (match j.kvOf (u32 c.body 4) with | some k => decide (0 < k.len) | none => false)
    | none => false
  let busy := s.shipsOut.any (fun x => x.shipId == u32 c.body 0)
  firstFault [scopeFault (s.scoped c),
    bodyFault c.body (bodyFields 0x35) ([(0, u32 c.body 0 != 0 && !busy), (4, holds), (0x0C, decide (u32 c.body 0x0C < 2))]
      ++ memberChecks c.body 0x10),
    s.peerLost c.job]

/-- SHIP_KV, accepted: staged at the next boundary of its job, or at once when the job is not active. -/
def acceptShipKv (c : Cmd) (s : State) : State :=
  match s.shipKvCheck c with
  | some r => s.finish (s.named c) r
  | none =>
    let s := s.stage (s.named c)
    if s.isActive c.job then s else commitShipKv (s.named c) s.now s

/-- SHIP_KV (R225). -/
def execShipKv (p : PartId) (m : BoxId) (s : State) : Host.Outcome State Fault Refusal :=
  .next (s.serve p m 0x35 acceptShipKv)

/-- The destination's commit is acknowledged: SHIP_KV may commit at its job's next boundary, or at once when the job is not
active (R225). -/
def State.shipAcked (s : State) (shipId : Nat) : State :=
  let s : State := { s with
    shipsOut := s.shipsOut.map (fun y => if y.shipId == shipId then { y with acked := true } else y) }
  match s.shipsOut.find? (fun x => x.shipId == shipId) with
  | none => s
  | some x => if s.isActive x.job then s else s.commitShip x s.now

/-- SHIP_COMMIT_ACKNOWLEDGED (R225). -/
def execShipCommitAcknowledged (shipId : Nat) (s : State) : Host.Outcome State Fault Refusal := .next (s.shipAcked shipId)

end Sys2Proof.Machine
end

