-- ==== Sys2Proof/Machine/Jobs.lean ====
section
/-! DEFINITION. The life of a job: OPEN_JOB, SWITCH_JOB and CLOSE_JOB, and the streaming of stage programs (R351-R355). -/
namespace Sys2Proof.Machine

/-! ## Cells of a job -/

/-- The job's cells go to IDLE, their units cleared (R353). -/
def State.idleCells (s : State) (h t : Nat) : State := s.updCells (fun c => c.job == some h) (Cell.idle t)

/-- A cell into which the program of a stage streams. -/
def Cell.loading (h stage t : Nat) : Cell :=
  { Cell.reset with base := .loading, job := some h, stage := some stage, stateTime := t }

/-- Begin streaming a job's stage programs into its cells (R353). -/
def State.streamIn (s : State) (h t : Nat) : State :=
  match s.job h with
  | none => s
  | some j =>
    let s : State := { s with cells := Vector.ofFn (fun n => match j.layout.stageOf n.val with
      | some k => Cell.loading h k t
      | none => s.cells[n]) }
    s.updJob h (fun j => { j with prog := .streaming, credit := true })

/-- Does a module's partition selection of a debug snapshot end (R114)? -/
def State.clearSelections (s : State) : State :=
  { s with parts := s.parts.map (fun q => { q with snapSel := none }) }

/-! ## SWITCH_JOB (R353) -/

/-- May a partition make a job active now (R353)? -/
def State.switchAllowed (s : State) (p : PartId) : Bool :=
  match s.active with
  | none => true
  | some h => match s.job h with
    | none => true
    | some j => j.part == p || decide ((s.planRec j.part).priority < (s.planRec p).priority)

/-- Take a job out of the cells: its step is killed without counting and waits for the next switch in, its cells go to
IDLE, its pending re-placement is abandoned, its ships fail (R166, R226, R353). -/
def State.switchOut (s : State) (h t : Nat) : State :=
  let s := s.killStep h 10 true
  let s := s.idleCells h t
  let s := s.abandonRepl h t
  let s := s.failShips h t
  (s.updJob h (fun j => { j with prog := .none, credit := false })).clearSelections

/-- Make a job active at an instant (R353). -/
def State.switchTo (s : State) (h t : Nat) : State :=
  let s := match s.active with
    | none => s
    | some o => if o = h then s else s.switchOut o t
  let s := (s.failShips h t).clearSelections
  ({ s with active := some h } : State).streamIn h t

/-- SWITCH_JOB at its commit: the last of several at one boundary decides (R356). -/
def commitSwitch (c : Cmd) (t : Nat) (s : State) : State :=
  if (s.job c.job).isNone then s.answer c t (fail 0x8005)
  else if s.cmds.any (fun d => d.code == 0x22 && !d.sched && !(d.p == c.p && d.m == c.m)) then s.answer c t (fail 0x8006)
  else if s.active = some c.job then s.answer c t (ok [])
  else (s.switchTo c.job t).answer c t (ok [])

/-- SWITCH_JOB, accepted. -/
def acceptSwitch (c : Cmd) (s : State) : State :=
  let refused := if s.switchAllowed c.p then none else some (fail 0x8206)
  match scopeFault (s.scoped c) with
  | some r => s.finish (s.named c) r
  | none =>
    if s.active = some c.job then s.finish (s.named c) (ok [])
    else s.staged c refused s.active commitSwitch

/-- SWITCH_JOB (R353). -/
def execSwitchJob (p : PartId) (m : BoxId) (s : State) : Host.Outcome State Fault Refusal :=
  .next (s.serve p m 0x22 acceptSwitch)

/-! ## OPEN_JOB (R352) -/

/-- The fixed layout of OPEN_JOB's body with its members, where N_RANKS is in range (R344). -/
def openFields (b : Bytes) : Fields :=
  bodyFields 0x20 ++ (List.range (if u8 b 0x0C ≤ 64 then u8 b 0x0C else 0)).flatMap (fun r =>
    let o := 0x40 + 8 * r
    [(o, 2), (o + 2, 1), (o + 3, 1), (o + 4, 2), (o + 6, 2)])

/-- The fields of OPEN_JOB that have a range (R344). -/
def openChecks (b : Bytes) : List (Nat × Bool) :=
  let n := u8 b 0x0C
  [(0, u32 b 0 != 0), (0x0C, decide (1 ≤ n ∧ n ≤ 64)), (0x0D, decide (u8 b 0x0D < n))] ++ zeroRun b 0x0E 2
    ++ [(0x18, decide (u32 b 0x18 ≤ 2 ^ 31)), (0x1C, decide (u32 b 0x1C < 2))] ++ zeroRun b 0x20 32
    ++ (List.range (if n ≤ 64 then n else 0)).flatMap (fun r => memberChecks b (0x40 + 8 * r))

/-- The graphs that OPEN_JOB names, or the status they fail with (R115, R118, R344). -/
def State.openGraphs (s : State) (p : PartId) (b : Bytes) : Except Result (Graph × Option Graph) :=
  match s.graphOf p (u32 b 4) with
  | none => .error (fail 0x8106)
  | some g =>
    if u32 b 8 = 0 then (if g.role = 0 then .ok (g, none) else .error (fail 0x8203))
    else match s.graphOf p (u32 b 8) with
      | none => .error (fail 0x8106)
      | some d => if g.role = 1 ∧ d.role = 2 ∧ d.draftOf = g.id ∧ d.vocab = g.vocab then .ok (g, some d)
          else .error (fail 0x8203)

/-- Does every descriptor of a graph hold every entry, none awaiting a refetch (R138, R364)? -/
def State.weightsWhole (s : State) (g : Graph) : Bool :=
  let bs := s.blocks.filter (fun b => b.gref == g.gref)
  g.descs.zipIdx.all (fun d => (bs.filter (fun b => b.desc == d.2 && !b.isData)).length == d.1.entries)
    && bs.all (fun b => b.poison != .refetch)

/-- PERIOD in force: 0 selects the default (R323). -/
def periodOf (b : Bytes) : Nat := if u32 b 0x10 = 0 then 31250 else u32 b 0x10

/-- The members that OPEN_JOB names (R344). -/
def openMembers (b : Bytes) : List Member := (List.range (u8 b 0x0C)).map (fun r => memberAt b (0x40 + 8 * r))

/-- The member and period conditions of R352: this module at RANK, no member twice, R323, R324, coordinates committed. -/
def State.openFieldsOk (s : State) (b : Bytes) : Bool :=
  let ms := openMembers b
  let period := periodOf b
  ms[u8 b 0x0D]? == some s.coord.member && ms.eraseDups.length == ms.length
    && decide (15625 ≤ period ∧ period ≤ 156250000 ∧ u32 b 0x14 < period)
    && decide (u8 b 0x0C = 1 ∨ (s.cfg.fabRetries * s.cfg.fabRto + 625 ≤ period ∧ s.coord.committed = true))

/-- The conditions of R352 in the order of its table. -/
def State.openFault (s : State) (p : PartId) (b : Bytes) : Option Result :=
  let st (good : Bool) (x : Nat) : Option Result := if good then none else some (fail x)
  match firstFault [st (s.job (u32 b 0)).isNone 0x8205,
      st (decide ((s.jobsOf p).length < (s.planRec p).maxJobs ∧ s.jobs.length < 16)) 0x8204] with
  | some r => some r
  | none => match s.openGraphs p b with
    | .error r => some r
    | .ok (g, d) =>
      let gs := g :: d.toList
      let res := reserveOf gs (u8 b 0x0C) (u8 b 0x0D) (u32 b 0x18)
      firstFault [st (gs.all s.weightsWhole) 0x8105, st (s.openFieldsOk b) 0x8203,
        st (decide (u8 b 0x0C = 1) || s.tb.state == .synced) 0x8602, st (s.reserveFits p res) 0x8202,
        st (!s.hbm.degraded && !s.generating) 0x8501]

/-- MARGIN of a descriptor (R131), where Meff starts (R181). -/
def Desc.margin (d : Desc) : Int := match d.par with | .expert _ _ _ _ _ _ _ m _ _ => m | _ => 0

/-- The counters of a graph's descriptors at OPEN_JOB (R372). -/
def freshDescs (draft : Bool) (ds : List Desc) : List DescState :=
  ds.zipIdx.map (fun d => ⟨draft, d.2, 0, 0, 0, 0, 0, 0, 0, 0, 0, 0, d.1.margin, 0, []⟩)

/-- The first layout of a job, for the uniform decode batch (R158, R161, R168). -/
def firstLayout (gs : List (List Desc)) (n rank : Nat) (fenced : List Nat) : Layout :=
  ⟨stagesOf gs n rank uniformBatch fenced, 0, 0, 0, none, [], 2, false, ⟨0, 0, 0⟩, ⟨0, 0, 0⟩, []⟩

/-- The starting values of a new job's configuration: the signed block's job-scope entries over the defaults (R348). -/
def State.newJobCfg (s : State) : JobCfg := JobCfg.default.apply (s.flash.config.fields.filter (fun e => jobField e.field))

/-- A job as OPEN_JOB's commit makes it (R352). -/
def State.newJob (s : State) (p : PartId) (b : Bytes) (g : Graph) (d : Option Graph) (t : Nat) (pools : List Pool) : Job :=
  let ds := g.descs :: (d.map (·.descs)).toList
  let n := u8 b 0x0C
  let rank := u8 b 0x0D
  let cfg := s.newJobCfg
  { handle := u32 b 0, part := p, gref := g.gref, dref := d.map (·.gref), nRanks := n, rank := rank,
    period := periodOf b, phase := u32 b 0x14, openTime := t, members := openMembers b, kvTokens := u32 b 0x18,
    planVersion := s.planVersion, planCrc := planCrc ds n, cfg := cfg, seqs := [], direct := [],
    pools := pools, frames := [], descs := freshDescs false g.descs ++ (match d with
      | some x => freshDescs true x.descs
      | none => []),
    nextStep := 0, lastCommitted := none, step := none, serving := ⟨none, [], [], none, [], 0, (cfg.specMin, cfg.specCooldown)⟩,
    layout := firstLayout ds n rank s.fenced, prog := .none, credit := false, lost := false,
    seqLost := [], lastBoundary := none }

/-- OPEN_JOB at its commit, with or without the switch (R352): checked against the state at the commit. -/
def State.openJob (s : State) (c : Cmd) (t : Nat) (switch : Bool) : State :=
  match s.openFault c.p c.body, s.openGraphs c.p c.body with
  | some r, _ => s.answer c t r
  | none, .error r => s.answer c t r
  | none, .ok (g, d) =>
    let b := c.body
    let h := u32 b 0
    let res := reserveOf (g :: d.toList) (u8 b 0x0C) (u8 b 0x0D) (u32 b 0x18)
    let rs := s.newRanges c.p h res
    let j := s.newJob c.p b g d t (poolsOf rs res)
    let s : State := { s with jobs := s.jobs ++ [j], hbm := { s.hbm with ranges := s.hbm.ranges ++ rs } }
    let s := s.reportPlacement h t
    let s := if switch then s.switchTo h t else s
    s.answer c t (ok (leBytes 4 h ++ leBytes 4 j.planCrc ++ leBytes 4 j.planVersion ++ leBytes 4 (b2n (s.active == some h))))

/-- OPEN_JOB at a boundary, with the switch; while a traffic generator runs, its units wait for the end of the run (R280). -/
def commitOpen (c : Cmd) (t : Nat) (s : State) : State := if s.generating then s else s.openJob c t true

/-- OPEN_JOB, accepted: with no active job it opens active at once; with ACTIVATE and a permitted switch it waits for the
active job's boundary; else it opens suspended at once (R352). -/
def acceptOpen (c : Cmd) (s : State) : State :=
  let c := s.named c
  match firstFault [noScope c, bodyFault c.body (openFields c.body) (openChecks c.body), s.openFault c.p c.body] with
  | some r => s.finish c r
  | none =>
    if s.active.isNone then s.openJob c s.now true
    else if bit (u8 c.body 0x1C) 0 && s.switchAllowed c.p then s.stage c
    else s.openJob c s.now false

/-- OPEN_JOB (R352). -/
def execOpenJob (p : PartId) (m : BoxId) (s : State) : Host.Outcome State Fault Refusal :=
  .next (s.serve p m 0x20 acceptOpen)

/-! ## CLOSE_JOB (R354) -/

/-- Zero the units of freed ranges (R252). -/
def Hbm.wipe (h : Hbm) (rs : List URange) : Hbm :=
  let inside (a : Nat) : Bool := rs.any (fun r =>
    decide (r.stack * stackBytes + r.first * 65536 ≤ a ∧ a < r.stack * stackBytes + (r.first + r.count) * 65536))
  { h with mem := h.mem.filter (fun x => !inside x.1), side := h.side.filter (fun x => !inside (32 * x.1)),
           mixed := h.mixed.filter (fun x => !inside x.1) }

/-- The commands of a job in any mailbox, enclosed ones among them, apart from one (R354). -/
def State.cmdsOf (s : State) (h : Nat) (c : Cmd) : List Cmd :=
  s.cmds.filter (fun d => !(d.p == c.p && d.m == c.m)
    && (if d.code == 0x40 then u32 d.body 0x10 == h else d.job == h))

/-- End commands with a status; what they staged is dropped. -/
def State.endCmds (s : State) (cs : List Cmd) (t : Nat) (r : Result) : State :=
  cs.foldl (fun s c => (s.dropStaged c).answer c t r) s

/-- Free everything a job holds: its handle, ranges, streams, quarantine, ships (R354). -/
def State.freeJob (s : State) (h t : Nat) : State :=
  let mine := s.hbm.ranges.filter (fun r => r.job == h)
  let s : State := { s.idleCells h t with
    jobs := s.jobs.filter (fun j => j.handle != h),
    active := if s.active = some h then none else s.active,
    hbm := { s.hbm.wipe mine with ranges := updIf (fun r => r.job == h) (fun r => { r with job := 0, use := .leaving }) s.hbm.ranges },
    shipsOut := s.shipsOut.filter (fun x => x.job != h),
    shipsIn := s.shipsIn.filter (fun x => x.job != h),
    parts := s.parts.map (fun q => match q.snapSel with
      | some x => if x.job = h then { q with snapSel := none } else q
      | none => q),
    net := { s.net with
      tx := s.net.tx.filter (fun x => x.key.job != h), rx := s.net.rx.filter (fun x => x.key.job != h),
      viols := s.net.viols.filter (fun v => v.1 != h), quarantined := s.net.quarantined.filter (fun v => v.1 != h) } }
  s.fixW

/-- CLOSE_JOB at its commit: ships under way fail under R226, an open receive ends with every other command (R224, R354). -/
def commitClose (c : Cmd) (t : Nat) (s : State) : State :=
  let s := s.killStep c.job 10 true
  let s := s.failShipping c.job t
  let s := (s.shipsIn.filter (fun x => x.job == c.job)).foldl (fun s x => s.endShipIn x t (fail 0x8006)) s
  let s := s.endCmds (s.cmdsOf c.job c) t (fail 0x8006)
  (s.freeJob c.job t).answer c t (ok [])

/-- The scope check of CLOSE_JOB, which a lost job does not fail (R327). -/
def State.closeScope (s : State) (c : Cmd) : Option Result :=
  if c.job = 0 then some (failAt 0x8003 0x10)
  else match s.job c.job with
    | none => some (fail 0x8005)
    | some j => if j.part = c.p then none else some (fail 0x8005)

/-- CLOSE_JOB, accepted. -/
def acceptClose (c : Cmd) (s : State) : State := s.staged c (s.closeScope c) (some c.job) commitClose

/-- CLOSE_JOB (R354). -/
def execCloseJob (p : PartId) (m : BoxId) (s : State) : Host.Outcome State Fault Refusal :=
  .next (s.serve p m 0x21 acceptClose)

/-! ## Streaming (R353) -/

/-- Streaming into the cells is done: the active job's next boundary installs and launches. -/
def State.streamed (s : State) : State :=
  match s.active with
  | none => s
  | some h => s.updJob h (fun j => if j.prog = .streaming then { j with prog := .streamed } else j)

/-- STREAMING_COMPLETE (R353). -/
def execStreamingComplete (t : Nat) (s : State) : Host.Outcome State Fault Refusal := .next (advance t s).streamed

end Sys2Proof.Machine
end

