-- ==== Sys2Proof/Machine/Sequences.lean ====
section
/-! DEFINITION. The serving commands: RUN_STEP as it is checked, ADMIT_SEQUENCE, and the cancelling, pausing and resuming
of a sequence (R139-R141, R229-R234, R241, R243). -/
namespace Sys2Proof.Machine

/-! ## RUN_STEP, first stage (R139-R141) -/

/-- A token entry of a step descriptor (R140). -/
def tokOf (bs : Bytes) (k : Nat) : Tok :=
  let b := tokenEntry bs k
  ⟨u32 b 0, u32 b 4, u32 b 8, bit (u8 b 0x0C) 0, bit (u8 b 0x0C) 1, u8 b 0x0D, u16 b 0x0E⟩

/-- The SELECT parameters of a graph: TOPK and INV_TEMP of its last descriptor (R120, R136). -/
def Graph.select (g : Graph) : Nat × Nat :=
  match g.descs.getLast? with
  | some d => (match d.par with | .select k t => (k, t) | _ => (0, lnsZero))
  | none => (0, lnsZero)

/-- TOPK of 2 or more with a zero INV_TEMP, both as resolved against a graph's SELECT (R141, R233). -/
def badTemp (g : Graph) (topk invTemp : Nat) : Bool :=
  let s := g.select
  let k := if topk = 0 then s.1 else topk
  let t := if invTemp = 0x4000 then s.2 else invTemp
  decide (2 ≤ k) && lnsIsZero t

/-- The checks of one token entry by itself, by offset in it (R140, R141). The break of TOPK and INV_TEMP together names
TOPK, the first of the two (DEDUCED, notes/assumptions/21.md). -/
def tokChecks (g : Graph) (bs : Bytes) (k : Nat) : List (Nat × Bool) :=
  let t := tokOf bs k
  [(4, decide (t.pos < g.maxCtx)), (8, decide (t.token < g.vocab)), (0x0C, decide (u8 (tokenEntry bs k) 0x0C < 4)),
   (0x0D, decide (t.topk ≤ 64) && !badTemp g t.topk t.invTemp), (0x0E, t.invTemp != 0xC000)]

/-- The order checks of a work list from entry `k`: a sequence's entries are contiguous and its POS rises by one (R141);
`done` holds the sequences whose run has ended, `last` the entry before. -/
def orderChecks : Nat → List Nat → Option Tok → List Tok → List (Nat × Bool)
  | _, _, _, [] => []
  | k, done, last, t :: ts =>
    match last with
    | none => orderChecks (k + 1) done (some t) ts
    | some l =>
      if l.seq = t.seq then (16 * k + 4, decide (t.pos = l.pos + 1)) :: orderChecks (k + 1) done (some t) ts
      else (16 * k, !(l.seq :: done).contains t.seq) :: orderChecks (k + 1) (l.seq :: done) (some t) ts

/-- The header of a step descriptor (R139): the fields that have a range. -/
def stepHdrChecks (c : Cmd) (paired : Bool) : List (Nat × Bool) :=
  let b := c.body
  [(0, u32 b 0 == c.job), (4, decide (1 ≤ u16 b 4 ∧ u16 b 4 ≤ 8192)), (6, decide (1 ≤ u16 b 6 ∧ u16 b 6 ≤ 6144)),
   (8, decide (u8 b 8 < 2 ∧ (u8 b 8 = 0 ∨ paired = true)))] ++ zeroRun b 9 3 ++ zeroRun b 0x14 44

/-- The graph a RUN_STEP runs. -/
def State.stepGraph (s : State) (j : Job) (b : Bytes) : Option Graph := if u8 b 8 % 4 = 1 then s.draftOf j else s.mainOf j

/-- The sequences of a work list in order of their first tokens. -/
def seqsOf (toks : List Tok) : List Nat := (toks.map (·.seq)).eraseDups

/-- The first failing check of a RUN_STEP's token entries (R141). -/
def entriesFault (g : Graph) (b bs : Bytes) : Option Result :=
  let n := u16 b 4
  let toks := (List.range n).map (tokOf bs)
  match firstBad ((List.range n).flatMap (fun k => (tokChecks g bs k).map (fun x => (16 * k + x.1, x.2)))
      ++ orderChecks 0 [] none toks) with
  | some o => some (failAt 0x8301 o)
  | none => if (seqsOf toks).length = u16 b 6 then none else some (failAt 0x8301 noField)

/-- The peers that a command of a job of several ranks needs are all in reach (R312). -/
def State.fabricOk (s : State) (j : Job) : Option Result := if j.nRanks = 1 then none else s.peerLost j.handle

/-- RUN_STEP, accepted: checked, its work list read, and left waiting in its mailbox for a launch (R141, R340). -/
def acceptRunStep (c : Cmd) (s : State) : State :=
  let c := s.named c
  match s.scoped c with
  | .error r => s.finish c r
  | .ok j =>
    match s.vet c (firstFault [bodyFault c.body (bodyFields 0x30) (stepHdrChecks c j.dref.isSome), s.fabricOk j]) with
    | some x => s.refuse c x.2 x.1
    | none =>
      match s.stepGraph j c.body with
      | none => s.finish c (failAt 0x8003 8)
      | some g =>
        let bs := s.slotRead c.p (u32 c.body 0x10) (16 * u16 c.body 4)
        match firstFault [if s.weightsWhole g || s.blocks.any (fun b => b.gref == g.gref && b.poison == .refetch) then none
            else some (fail 0x8105), entriesFault g c.body bs] with
        | some r => s.finish c r
        | none => s.stage { c with toks := (List.range (u16 c.body 4)).map (tokOf bs) }

/-- RUN_STEP (R141). -/
def execRunStep (p : PartId) (m : BoxId) (s : State) : Host.Outcome State Fault Refusal :=
  .next (s.serve p m 0x30 acceptRunStep)

/-! ## Modes and leaving (R229, R241) -/

/-- Is a job in direct mode: direct-mode KV state for any sequence (R229)? -/
def Job.directMode (j : Job) : Bool := j.direct.any (fun e => !e.accepted)

/-- Is a job in sequence mode (R229)? -/
def Job.seqMode (j : Job) : Bool := !j.seqs.isEmpty

/-- Post SEQ_END for an entry (R241). -/
def State.seqEnd (s : State) (j : Job) (e : SeqEntry) (reason step t : Nat) : State :=
  s.postPart j.part { event 0x0001 t with job := j.handle, step := step, arg0 := e.req.id, arg1 := reason, arg2 := e.emitted,
                                          arg3 := e.main.len }

/-- An entry leaves the table: its pages are released, its slot is FREE, SEQ_END is posted (R214, R241). -/
def State.seqLeave (s : State) (j : Job) (e : SeqEntry) (reason step t : Nat) : State :=
  ((s.updJob j.handle (fun j => { j with seqs := j.seqs.filter (fun x => x.req.id != e.req.id) })).tidyJob j.handle).seqEnd
    j e reason step t

/-! ## ADMIT_SEQUENCE (R233, R234) -/

/-- The admission that a body carries (R345). -/
def admitReq (b : Bytes) : AdmitReq where
  id := u32 b 0
  specOk := bit (u8 b 4) 0
  accepted := bit (u8 b 4) 1
  draftK := u8 b 5 % 16
  topk := u8 b 6
  promptLen := u32 b 8
  maxNew := u32 b 0x0C
  invTemp := u16 b 0x10
  ttft := u32 b 0x14
  tbt := u32 b 0x18
  stop0 := u32 b 0x1C
  stop1 := u32 b 0x20
  parent := u32 b 0x24
  pfxLen := u32 b 0x28
  outRing := u32 b 0x2C
  outSlots := u16 b 0x30

/-- The reserved fields of an admission (R345). -/
def admitChecks (b : Bytes) : List (Nat × Bool) :=
  [(4, decide (u8 b 4 < 4)), (5, decide (u8 b 5 < 16)), (7, u8 b 7 == 0), (0x12, u16 b 0x12 == 0), (0x32, u16 b 0x32 == 0)]
    ++ zeroRun b 0x38 8

/-- P0: the accepted committed length of an ACCEPTED admission, else 0 (R233). -/
def Job.p0 (j : Job) (r : AdmitReq) : Nat :=
  if r.accepted then (match j.direct.find? (fun e => e.id == r.id && e.accepted) with | some e => e.main.len | none => 0) else 0

/-- Is a stop token in range (R233)? -/
def stopOk (g : Graph) (t : Nat) : Bool := t == 0xFFFFFFFF || decide (t < g.vocab)

/-- Does a new ring overlap a ring of a sequence of the partition (R233)? -/
def State.ringTaken (s : State) (p : PartId) (r : AdmitReq) : Bool :=
  (s.jobsOf p).any (fun j => j.seqs.any (fun e =>
    decide (r.outRing < e.req.outRing + e.req.outSlots ∧ e.req.outRing < r.outRing + r.outSlots)))

/-- Rows 4 to 7 of R233: the admission fields. -/
def State.admitFieldsOk (s : State) (j : Job) (gs : List Graph) (r : AdmitReq) (prompt : List Nat) : Bool :=
  let runs := if r.specOk then gs else gs.take 1
  decide (r.topk ≤ 64) && r.invTemp != 0xC000 && decide (r.draftK ≤ 8) && (!r.specOk || (j.dref.isSome && !r.accepted))
    && runs.all (fun g => !badTemp g r.topk r.invTemp)
    && decide (1 ≤ r.promptLen ∧ 1 ≤ r.maxNew)
    && (gs.take 1).all (fun g => decide (j.p0 r + r.promptLen + r.maxNew ≤ g.maxCtx) && prompt.all (fun t => decide (t < g.vocab))
          && stopOk g r.stop0 && stopOk g r.stop1)
    && decide (1 ≤ r.outSlots ∧ r.outSlots ≤ 4096 ∧ r.outRing + r.outSlots ≤ (s.planRec j.part).slots)
    && !s.ringTaken j.part r

/-- Row 9 of R233: PARENT and PREFIX_LEN under R215. -/
def Job.pfxOk (j : Job) (r : AdmitReq) : Bool :=
  if r.parent = 0xFFFFFFFF then r.pfxLen == 0
  else match j.seqs.find? (fun e => e.req.id == r.parent) with
    | none => false
    | some e => decide (r.pfxLen % 16 = 0 ∧ r.pfxLen ≤ 16 * (e.main.len / 16) ∧ r.pfxLen + 1 ≤ r.promptLen)
        && (!r.specOk || e.req.specOk)

/-- The conditions of R233 in the order of its table. -/
def State.admitFault (s : State) (j : Job) (r : AdmitReq) (prompt : List Nat) : Option Result :=
  let st (good : Bool) (x : Nat) : Option Result := if good then none else some (fail x)
  let dup := j.seqs.any (fun e => e.req.id == r.id) || j.direct.any (fun e => e.id == r.id && !(e.accepted && r.accepted))
  firstFault [st (!j.directMode) 0x8302, st (decide (j.seqs.length < seqSlots)) 0x8303,
    st (r.id != 0xFFFFFFFF && !dup) 0x8304, st (s.admitFieldsOk j (s.jobGraphs j) r prompt) 0x8305,
    st (!r.accepted || (r.parent == 0xFFFFFFFF && j.direct.any (fun e => e.id == r.id && e.accepted))) 0x8402,
    st (j.pfxOk r) 0x8401]

/-- The child's entries below a prefix, mapping the parent's frames (R215). -/
def sharePt (k : KvState) (n : Nat) : List Pte :=
  (k.pt.filter (fun e => e.valid && decide (e.page < n / 16))).map (fun e =>
    ({ e with sharedPfx := true, tentative := false } : Pte).sealed)

/-- A parent's entries with SHARED_PREFIX set below a prefix (R215). -/
def markShared (k : KvState) (n : Nat) : KvState :=
  { k with pt := k.pt.map (fun e => if e.valid ∧ e.page < n / 16 then ({ e with sharedPfx := true } : Pte).sealed else e) }

/-- The lowest FREE slot of the table (DEDUCED, notes/assumptions/22.md). -/
def Job.freeSlot (j : Job) : Nat := (lowestFree (j.seqs.map (·.slot)) seqSlots 0).getD 0

/-- The timing fields of a new entry (R234). -/
def SeqTimes.fresh (t : Nat) : SeqTimes := ⟨t, 0, 0, 0, 0, 0, 0x8000, 0, 0, 0⟩

/-- The KV states a new entry starts with: the accepted state, the parent's shared pages, or none (R234). -/
def Job.admitKv (j : Job) (r : AdmitReq) : KvState × KvState :=
  if r.accepted then
    ((match j.direct.find? (fun e => e.id == r.id && e.accepted) with | some e => e.main | none => KvState.empty), KvState.empty)
  else match j.seqs.find? (fun e => e.req.id == r.parent) with
    | some e => if r.parent = 0xFFFFFFFF then (KvState.empty, KvState.empty)
      else (⟨r.pfxLen, sharePt e.main r.pfxLen, ⟨[], [], []⟩⟩,
            if r.specOk then ⟨r.pfxLen, sharePt e.draft r.pfxLen, ⟨[], [], []⟩⟩ else KvState.empty)
    | none => (KvState.empty, KvState.empty)

/-- A job with a sequence admitted at a time (R234). DIRECTORY and PROMPT_ROW are running row numbers (DESIGN CHOICE,
notes/assumptions/22.md). -/
def Job.takeIn (j : Job) (r : AdmitReq) (prompt : List Nat) (t : Nat) : Job :=
  let kv := j.admitKv r
  let row := j.serving.draftCount
  let e : SeqEntry := ⟨j.freeSlot, r, .waiting, none, false, 0, 0, 0, row, row, prompt, j.p0 r, SeqTimes.fresh t, kv.1, kv.2⟩
  { j with
    seqs := j.seqs.map (fun x => if r.pfxLen ≠ 0 ∧ x.req.id = r.parent then
        { x with main := markShared x.main r.pfxLen, draft := if r.specOk then markShared x.draft r.pfxLen else x.draft }
      else x) ++ [e],
    direct := if r.accepted then j.direct.filter (fun x => x.id != r.id) else j.direct,
    serving := { j.serving with draftCount := row + 1 } }

/-- The prompt tokens that an admission names (R345). -/
def State.promptOf (s : State) (c : Cmd) : List Nat :=
  let n := u32 c.body 8
  let bs := s.slotRead c.p (u32 c.body 0x34) (4 * n)
  (List.range n).map (fun k => u32 bs (4 * k))

/-- ADMIT_SEQUENCE at its commit (R233, R234). -/
def commitAdmit (c : Cmd) (t : Nat) (s : State) : State :=
  match s.job c.job with
  | none => s.answer c t (fail 0x8005)
  | some j =>
    let r := admitReq c.body
    let prompt := s.promptOf c
    match s.admitFault j r prompt with
    | some x => s.answer c t x
    | none => (s.updJob c.job (fun j => j.takeIn r prompt t)).answer c t (ok (leBytes 4 j.freeSlot ++ leBytes 8 t))

/-- ADMIT_SEQUENCE, accepted. -/
def acceptAdmit (c : Cmd) (s : State) : State :=
  s.staged c (firstFault [scopeFault (s.scoped c), bodyFault c.body (bodyFields 0x31) (admitChecks c.body)]) (some c.job)
    commitAdmit

/-- ADMIT_SEQUENCE (R233). -/
def execAdmitSequence (p : PartId) (m : BoxId) (s : State) : Host.Outcome State Fault Refusal :=
  .next (s.serve p m 0x31 acceptAdmit)

/-! ## CANCEL, PAUSE and RESUME (R243) -/

/-- Change the entry of a sequence id. -/
def Job.updSeq (j : Job) (id : Nat) (f : SeqEntry → SeqEntry) : Job :=
  { j with seqs := updIf (fun e => e.req.id == id) f j.seqs }

/-- What a command of R243 finds at its commit: the job and the entry, or the status it ends with. -/
def State.seqAt (s : State) (c : Cmd) : Except Result (Job × SeqEntry) :=
  match s.job c.job with
  | none => .error (fail 0x8005)
  | some j => match j.seqs.find? (fun e => e.req.id == u32 c.body 0) with
    | none => .error (fail 0x8306)
    | some e => .ok (j, e)

/-- The step in flight keeps the KV state of a sequence that leaves while the step carries it: its work list stands (R249). -/
def Job.keepFor (j : Job) (e : SeqEntry) : Job :=
  { j with step := j.step.map (fun x =>
      if x.lens.any (fun l => l.seq == e.req.id) then { x with kept := x.kept ++ [⟨e.req.id, false, e.main, e.draft⟩] } else x) }

/-- CANCEL_SEQUENCE at its commit (R243, R249). -/
def commitCancel (c : Cmd) (t : Nat) (s : State) : State :=
  match s.seqAt c with
  | .error r => s.answer c t r
  | .ok (j, e) =>
    match e.state with
    | .waiting => ((s.updJob c.job (fun j => j.keepFor e)).seqLeave j e 5 noField t).answer c t (ok [])
    | .draining => s.answer c t (ok [])
    | _ => (s.updJob c.job (fun j => j.updSeq e.req.id (fun e =>
        { e with cancel := true, state := .draining, resume := none,
                 times := { e.times with pauseTime := 0 } }))).answer c t (ok [])

/-- PAUSE_SEQUENCE at its commit (R243). -/
def commitPause (c : Cmd) (t : Nat) (s : State) : State :=
  match s.seqAt c with
  | .error r => s.answer c t r
  | .ok (_, e) =>
    match e.state with
    | .draining => s.answer c t (fail 0x8307)
    | .paused => s.answer c t (ok [])
    | st => (s.updJob c.job (fun j => j.updSeq e.req.id (fun e =>
        { e with state := .paused, resume := some st, times := { e.times with pauseTime := t } }))).answer c t (ok [])

/-- An entry resumed at an instant (R243). -/
def SeqEntry.resumed (e : SeqEntry) (t : Nat) : SeqEntry :=
  let d := t - e.times.pauseTime
  { e with
    state := e.resume.getD .waiting, resume := none,
    times := { e.times with
      admitTime := e.times.admitTime + d, lastEmit := if e.times.lastEmit = 0 then 0 else e.times.lastEmit + d,
      pauseTime := 0, age := 0 } }

/-- RESUME_SEQUENCE at its commit (R243). -/
def commitResume (c : Cmd) (t : Nat) (s : State) : State :=
  match s.seqAt c with
  | .error r => s.answer c t r
  | .ok (_, e) =>
    match e.state with
    | .paused => (s.updJob c.job (fun j => j.updSeq e.req.id (fun e => e.resumed t))).answer c t (ok [])
    | _ => s.answer c t (ok [])

/-- The checks of the three commands of R243. -/
def State.seqCmdCheck (s : State) (c : Cmd) : Option Result :=
  firstFault [scopeFault (s.scoped c), bodyFault c.body (bodyFields 0x32) []]

/-- CANCEL_SEQUENCE, accepted. -/
def acceptCancel (c : Cmd) (s : State) : State := s.staged c (s.seqCmdCheck c) (some c.job) commitCancel

/-- PAUSE_SEQUENCE, accepted. -/
def acceptPause (c : Cmd) (s : State) : State := s.staged c (s.seqCmdCheck c) (some c.job) commitPause

/-- RESUME_SEQUENCE, accepted. -/
def acceptResume (c : Cmd) (s : State) : State := s.staged c (s.seqCmdCheck c) (some c.job) commitResume

/-- CANCEL_SEQUENCE (R243). -/
def execCancelSequence (p : PartId) (m : BoxId) (s : State) : Host.Outcome State Fault Refusal :=
  .next (s.serve p m 0x32 acceptCancel)

/-- PAUSE_SEQUENCE (R243). -/
def execPauseSequence (p : PartId) (m : BoxId) (s : State) : Host.Outcome State Fault Refusal :=
  .next (s.serve p m 0x33 acceptPause)

/-- RESUME_SEQUENCE (R243). -/
def execResumeSequence (p : PartId) (m : BoxId) (s : State) : Host.Outcome State Fault Refusal :=
  .next (s.serve p m 0x34 acceptResume)

end Sys2Proof.Machine
end

