-- ==== Sys2Proof/Machine/Launch.lean ====
section
/-! DEFINITION. The launch of a step (R146, R206, R213): pages, the snapshot it runs against, and what it sets in the cells
(R82, R91, R94, R95, R99). -/
namespace Sys2Proof.Machine

/-! ## KV state by graph -/

/-- A sequence's KV state in one graph of its job (R205, R220), or that which the step in flight keeps of one that has left
(R249). -/
def Job.kvIn (j : Job) (draft : Bool) (id : Nat) : KvState :=
  match j.seqs.find? (fun e => e.req.id == id) with
  | some e => if draft then e.draft else e.main
  | none => match (j.direct ++ (match j.step with | some x => x.kept | none => [])).find? (fun e => e.id == id) with
    | some e => if draft then e.draft else e.main
    | none => KvState.empty

/-- Put a sequence's KV state in one graph of its job; a sequence in neither table becomes a direct-mode one, and accepted
state that a step fed is direct-mode state (R229). -/
def Job.setKv (j : Job) (draft : Bool) (id : Nat) (k : KvState) : Job :=
  if j.seqs.any (fun e => e.req.id == id) then
    j.updSeq id (fun e => if draft then { e with draft := k } else { e with main := k })
  else if j.direct.any (fun e => e.id == id) then
    let f (e : DSeq) : DSeq :=
      if draft then { e with accepted := false, draft := k } else { e with accepted := false, main := k }
    { j with direct := updIf (fun e => e.id == id) f j.direct }
  else { j with direct := j.direct ++ [if draft then ⟨id, false, KvState.empty, k⟩ else ⟨id, false, k, KvState.empty⟩] }

/-- The graph that a step of a job runs. -/
def State.stepGraphOf (s : State) (j : Job) (draft : Bool) : Option Graph := if draft then s.draftOf j else s.mainOf j

/-! ## Pages (R213, R218) -/

/-- A page that a step's positions reach and that has no entry. -/
structure NewPage where
  seq : Nat
  desc : Nat
  b : Nat
  die : Nat                            -- whose attention cells serve its heads (R160)
  page : Nat
  tentative : Bool
  deriving DecidableEq, Repr

/-- The pages that one sequence of a step needs (R213); those wholly beyond L of a sequence with drafts are TENTATIVE
(R218). -/
def newPages (g : Graph) (j : Job) (draft : Bool) (l : LenRec) : List NewPage :=
  let old := if l.discard then [] else (j.kvIn draft l.seq).pt.filter (·.valid)
  let first := l.base / 16
  let pages := List.range' first ((l.base + l.count - 1) / 16 + 1 - first)
  (attends g j.nRanks j.rank).flatMap (fun a =>
    if a.2 = 0 then []
    else (pages.filter (fun p => !old.any (fun e => e.desc == a.1 && e.page == p))).map (fun p =>
      ⟨l.seq, a.1, a.2, attendDie g.descs j.nRanks j.rank a.1, p, decide (0 < l.spec ∧ l.base + 1 ≤ 16 * p)⟩))

/-- Allocate a staged frame for each page; none when a pool runs short (R213). -/
def allocPages (j : Job) : List NewPage → Option (Job × List (Nat × Pte))
  | [] => some (j, [])
  | p :: ps =>
    match j.pickFrame p.die p.b with
    | none => none
    | some f =>
      match allocPages (j.take p.b f true) ps with
      | none => none
      | some (j', es) => some (j', (p.seq, Pte.make f (j.genOf p.b f) p.desc p.page p.tentative) :: es)

/-- Allocate for a whole step (R213). -/
def allocStep (g : Graph) (j : Job) (draft : Bool) (lens : List LenRec) : Option (Job × List (Nat × Pte)) :=
  allocPages j (lens.flatMap (newPages g j draft))

/-! ## The snapshot (R146) -/

/-- The committed KV blocks of a sequence below a position (R200, R208). -/
def State.kvSnapshot (s : State) (g : Graph) (j : Job) (draft : Bool) (l : LenRec) : List (Nat × Nat × Nat × Bytes) :=
  if l.discard then []
  else (attends g j.nRanks j.rank).flatMap (fun a =>
    if a.2 = 0 then []
    else ((j.kvIn draft l.seq).pt.filter (fun e => e.valid && e.desc == a.1)).flatMap (fun e =>
      ((List.range 16).filter (fun i => decide (16 * e.page + i < l.base))).map (fun i =>
        (a.1, l.seq, 16 * e.page + i, s.hbm.read (j.frameAddr a.2 e.frame + 40 * a.2 * i) (40 * a.2)))))

/-- What a step runs against: weights, numeric state, committed KV and margins as they stand (R73, R146). -/
def State.stepEnv (s : State) (g : Graph) (j : Job) (draft : Bool) (lens : List LenRec) : StepEnv where
  graph := g
  blocks := (s.blocks.filter (fun b => b.gref == g.gref)).map (fun b => (b.desc, b.entry, b.fmt, s.blockBytes b))
  nums := lens.map (fun l => (l.seq, if l.discard then KvState.empty.num else (j.kvIn draft l.seq).num))
  kv := lens.flatMap (s.kvSnapshot g j draft)
  meff := (j.descs.filter (fun d => d.draft == draft)).map (fun d => (d.desc, d.meff))

/-! ## The stage program in a cell (R81, R82, R89, R91, R99) -/

/-- A region as a stage program sets it when it is installed: BASE, SIZE_M1, KIND and PRODUCER from its plan, the counts at
0 (R89, R91). -/
def planRegion (kind r : Nat) : Region :=
  let w := (Config.regionPlan kind r).toNat
  let base := fld w 0 16
  { Region.reset with
    base := BitVec.ofNat 16 base,
    sizeM1 := BitVec.ofNat 16 (Nat.min (fld w 16 16) (65535 - base)),
    kind := fld w 32 3 % 6,
    producer := match fld w 35 3 % 6 with
      | 0 => .none
      | 1 => .updraft0
      | 2 => .updraft1
      | 3 => .mesh
      | 4 => .seam
      | _ => .ownCell }

/-- A cell in which a stage program has been installed; its first step runs in credit mode (R91, R95). -/
def Cell.install (job stage kind t : Nat) (c : Cell) : Cell :=
  { Cell.reset with
    base := if c.base = .parked then .parked else .waitBoundary,
    job := some job, stage := some stage, credit := true,
    stateTime := t, traps := c.traps, trapped := c.trapped,
    regions := Vector.ofFn (fun r => planRegion kind r.val) }

/-- Install the stage programs of a job's layout into its cells (R82, R353). -/
def State.installCells (s : State) (h t : Nat) : State :=
  match s.job h with
  | none => s
  | some j =>
    { s with cells := Vector.ofFn (fun n => match j.layout.stages.find? (fun x => x.cells.contains n.val) with
        | some x => s.cells[n].install h x.number x.kind t
        | none => if s.cells[n].job = some h then Cell.idle t s.cells[n] else s.cells[n]) }

/-- The cells of a stage that hold its work on a die: those that lie there, every cell where none does (R153, R158). -/
def Stage.cellsOn (st : Stage) (die : Nat) : List Nat :=
  let here := st.cells.filter (fun c => cellDie c == die)
  if here.isEmpty then st.cells else here

/-- The share of a list that cell number `i` of `k` takes: every k-th item (DESIGN CHOICE, notes/assumptions/5.md). -/
def share {α : Type} (i k : Nat) (xs : List α) : List α := (xs.zipIdx.filter (fun x => x.2 % k == i)).map (·.1)

/-- What a cell of a stage takes of a list of its stage on a die. -/
def Stage.shareOf {α : Type} (st : Stage) (die cell : Nat) (xs : List α) : List α :=
  let cs := st.cellsOn die
  if cs.contains cell then share (cs.findIdx (· == cell)) cs.length xs else []

/-- The runs of input blocks that a cell holds whole in the steps of a graph, in descriptor order (R153, R157). -/
def Graph.heldBy (g : Graph) (n rank : Nat) (st : Stage) (cell : Nat) : List Held :=
  [0, 1].flatMap (fun die => st.shareOf die cell (heldOn g.descs n rank st.kind die))

/-- What the entry of a block waits for: every block of a routed expert for the expert's token list, and gate and up blocks of
a predicted bank for its predictor pass, row by row but for sparse ones (R178, R190). -/
def Desc.gateOf (d : Desc) (desc : Nat) (r : Row) (f : WFmt) : Option Gate :=
  if d.predicts && decide (r.j ≤ 1) then some (.expert desc r.e (if f = .sparse then none else some (r.ob, f)))
  else if d.routed then some (.expert desc r.e none)
  else none

/-- The entries of what a cell holds of one output block, in block-list order (R84, R98). -/
def State.heldFetches (s : State) (g : Graph) (reg : RegionId) (x : Held) : List FetchEntry :=
  match g.descs[x.desc]? with
  | none => []
  | some d => (x.row.entries d x.first x.count).filterMap (fun k =>
      (s.blocks.find? (fun b => b.gref == g.gref && b.desc == x.desc && b.entry == k)).map (fun b =>
        ⟨b.addr, b.lines, reg, .plain, d.gateOf x.desc x.row b.fmt⟩))

/-- The data section of a graph, whose channel scales the cells' register files take (R34, R98). -/
def State.scaleFetches (s : State) (g : Graph) (reg : RegionId) : List FetchEntry :=
  (s.blocks.filter (fun b => b.gref == g.gref && b.isData)).map (fun b => ⟨b.addr, b.lines, reg, .plain, none⟩)

/-- Engine 0's list for a step in a cell: channel scales, then weight blocks; nothing where the cell holds none (R98). -/
def State.weightList (s : State) (g : Graph) (j : Job) (st : Stage) (cell : Nat) : List FetchEntry :=
  let reg : RegionId := (Config.fetchRegion st.kind 0).toFin
  match (g.heldBy j.nRanks j.rank st cell).flatMap (s.heldFetches g reg) with
  | [] => []
  | xs => s.scaleFetches g reg ++ xs

/-- SPAN of descriptor `di` of a graph (R129). -/
def Graph.spanOf (g : Graph) (di : Nat) : Nat :=
  match g.descs[di]? with
  | some d => (match d.par with | .attend _ _ _ _ _ _ _ sp => sp | _ => 0)
  | none => 0

/-- The entries that a step's tokens read of one sequence: those published below BASE_LEN, but for DISCARD, and those staged;
none that lies wholly below the lowest position that a token reads (R208, R212). -/
def pagesRead (g : Graph) (j : Job) (draft : Bool) (staged : List (Nat × Pte)) (l : LenRec) : List Pte :=
  let old := if l.discard then [] else (j.kvIn draft l.seq).pt.filter (·.valid)
  (old ++ (staged.filter (fun x => x.1 == l.seq)).map (·.2)).filter (fun e =>
    decide (visibleFrom (g.spanOf e.desc) l.base < 16 * e.page + 16))

/-- The frames that a step reads for the heads of one die, each once: (B, frame) (R84, R160, R212). -/
def framesRead (g : Graph) (j : Job) (draft : Bool) (staged : List (Nat × Pte)) (lens : List LenRec) (die : Nat) :
    List (Nat × Nat) :=
  ((lens.flatMap (pagesRead g j draft staged)).filter (fun e => attendDie g.descs j.nRanks j.rank e.desc == die)).map
    (fun e => (j.kvB (some g) e.desc, e.frame)) |>.eraseDups

/-- The entries that bring the routing records of a ROUTE for `n` tokens, run by run of the tables' units (R98, R186). -/
def State.routeFetches (s : State) (j : Job) (draft : Bool) (reg : RegionId) (n desc : Nat) : List FetchEntry :=
  (piecesOf (s.routeTable j draft desc) (toLines (96 * n))).map (fun x =>
    ⟨s.tableAddr j.handle x.1, x.2 / 64, reg, .plain, some (.route desc)⟩)

/-- Engine 1's list for a step in a cell: of an attention stage the pages that the step's tokens read, of a routed expert stage
the routing records (R98, R212). Outlier lists and activations do not leave State (notes/assumptions/86.md). -/
def State.stateList (s : State) (g : Graph) (j : Job) (draft : Bool) (lens : List LenRec) (staged : List (Nat × Pte))
    (st : Stage) (cell : Nat) : List FetchEntry :=
  let reg : RegionId := (Config.fetchRegion st.kind 1).toFin
  if st.kind = 1 then
    [0, 1].flatMap (fun die => (st.shareOf die cell (framesRead g j draft staged lens die)).map (fun f =>
      ⟨j.frameAddr f.1 f.2, 10 * f.1, reg, .pageWalk, none⟩))
  else if st.kind = 3 ∧ g.heldBy j.nRanks j.rank st cell ≠ [] then
    (routesOf g).flatMap (s.routeFetches j draft reg (sumN (lens.map (·.count))))
  else []

/-- The entries of a list that are not in another. -/
def entriesLeft (done xs : List FetchEntry) : List FetchEntry := xs.filter (fun x => !done.contains x)

/-- An engine at a boundary that launches a step: a list it began early goes on where it stands, with what the step needs beyond
it; any other list starts (R100, R102). The next step's list is published with it: what the next step reads is not known before
its launch, so it is this step's own list again (DESIGN CHOICE, notes/assumptions/86.md). -/
def Updraft.launch (number : BitVec 32) (cur : List FetchEntry) (u : Updraft) : Updraft :=
  let next := some (cur.filter (fun x => x.gate.isNone))
  if u.ahead then
    let done := (u.next.getD []).take u.pos
    { u with cur := done ++ entriesLeft done cur, curStep := number, next := next, ahead := false }
  else { u with cur := cur, curStep := number, next := next, pos := 0, waitSpace := false }

/-- Free lines of a region that no credit covers yet (R94). -/
def Region.toGrant (r : Region) : Nat := r.sizeM1.toNat + 1 - r.lines.length - r.credits.toNat

/-- Set a region's mode: credit mode begins with every free line granted that no credit covers (R94). -/
def Region.setMode (credit : Bool) (x : Region) : Region :=
  { x with credit := credit, credits := if credit then satAdd x.credits x.toGrant else 0 }

/-- While a test runs, every cell that runs no step is in credit mode; afterwards a cell that serves no job leaves it (R95). -/
def State.testMode (s : State) (on : Bool) : State :=
  s.updCells (fun c => c.base != .running) (fun c =>
    let credit := on || (c.credit && c.job.isSome)
    { c with credit := credit, regions := c.regions.map (Region.setMode credit) })

/-- A region at a step boundary: ARRIVED 0, and no wait of the new step has completed (R91, R92). -/
def Region.boundary (x : Region) : Region := { x with arrived := 0, waited := none }

/-- A region at a launch: EXPECT for the step, and its mode (R91, R94). -/
def Region.launch (kind cell r number : Nat) (credit : Bool) (x : Region) : Region :=
  { x.boundary.setMode credit with expect := Config.stepExpect kind cell r number }

/-- A cell at the boundary that launches a step; during a test it is in credit mode (R91, R95, R111). -/
def Cell.launch (s : State) (g : Graph) (j : Job) (draft : Bool) (lens : List LenRec) (staged : List (Nat × Pte))
    (number : BitVec 32) (credit : Bool) (t : Nat) (st : Stage) (n : Nat) (c : Cell) : Cell :=
  let c := c.setBase .running t
  let cr := credit || c.credit || s.generating
  { c with
    step := number, boundary := number, pass := none, passK := [], planeSteps := 0, planesSkipped := 0, waitTicks := 0,
    stallTicks := 0, stallSince := c.stallSince.map (fun _ => t), opened := [], passed := [], clamps := [], zs := [], maxima := [],
    lnsSats := 0, credit := cr,
    regions := c.regions.mapFinIdx (fun r x _ => x.launch st.kind n r number.toNat cr),
    upd := c.upd.mapFinIdx (fun e u _ =>
      u.launch number (if e = 0 then s.weightList g j st n else s.stateList g j draft lens staged st n)) }

/-- Launch in every cell of the job; the reductions of an earlier attempt are gone (R97, R108). -/
def State.launchCells (s : State) (g : Graph) (j : Job) (draft : Bool) (lens : List LenRec) (staged : List (Nat × Pte))
    (number : BitVec 32) (credit : Bool) (t : Nat) : State :=
  { s with contexts := Vector.replicate 2 [], waitingReds := Vector.replicate 2 [], moduleSums := [], cells := Vector.ofFn (fun n => match j.layout.stages.find? (fun x => x.cells.contains n.val) with
      | some st => if s.cells[n].job = some j.handle then
          s.cells[n].launch s g j draft lens staged number credit t st n.val else s.cells[n]
      | none => s.cells[n]) }

/-- The cells of a job return to service mode at the boundary that commits the step that needed credit (R95,
notes/assumptions/25.md). -/
def State.serviceMode (s : State) (h : Nat) : State :=
  s.updCells (fun c => c.job == some h) (fun c =>
    { c with credit := false, regions := c.regions.map (Region.setMode false) })

/-! ## Starting a step -/

/-- A step as it is launched for the first time. -/
def Step.fresh (number : BitVec 32) (kind : StepKind) (draft : Bool) (toks : List Tok) (lens : List LenRec)
    (prefill : List Nat) (pages : List (Nat × Pte)) (env : StepEnv) (t : Nat) : Step where
  number := number
  kind := kind
  isDraft := draft
  toks := toks
  lens := lens
  prefill := prefill
  launched := t
  phase := .running
  kills := 0
  cause := 0
  noRerun := false
  countless := false
  rerun := false
  stagedPages := pages
  kept := []
  env := env
  reduces := []
  gathers := []
  terms := []
  results := none
  ready := false
  sent := []
  statsIn := []
  merged := none
  doneFrom := []
  doneTimes := []
  b0 := none

/-- The bad bursts of a range of class S memory. -/
def Hbm.badBursts (h : Hbm) (a n : Nat) : List Nat :=
  (h.side.filter (fun e => decide (a ≤ e.1 * 32 ∧ e.1 * 32 < a + n) && sPoison e.2)).map (·.1)

/-- The KV page manager writes every bad burst of the frames that a step takes for new pages, whole and with the undefined bytes
of unwritten slots: no error of theirs is left (R200, R204, R258; DEDUCED, notes/assumptions/82.md). -/
def State.freshFrames (s : State) (j : Job) (g : Graph) (pages : List (Nat × Pte)) : State :=
  let bad := pages.flatMap (fun e => let b := j.kvB (some g) e.2.desc; s.hbm.badBursts (j.frameAddr b e.2.frame) (640 * b))
  { s with
    draws := s.draws + 32 * bad.length,
    hbm := bad.zipIdx.foldl (fun h x =>
      h.sWrite (32 * x.1) ((List.range 32).map (fun i => Config.unwrittenPageByte (s.draws + 32 * x.2 + i)))) s.hbm }

/-- Launch a new step over a job whose pages have been allocated: the next step number is taken (R142, R146). -/
def State.startStep (s : State) (j : Job) (g : Graph) (kind : StepKind) (draft : Bool) (toks : List Tok)
    (lens : List LenRec) (prefill : List Nat) (pages : List (Nat × Pte)) (t : Nat) : State :=
  let env := s.stepEnv g j draft lens
  let s := s.freshFrames j g pages
  let x := Step.fresh j.nextStep kind draft toks lens prefill pages env t
  let s := s.launchCells g j draft lens pages j.nextStep j.credit t
  s.updJob j.handle (fun _ => { j with step := some x, nextStep := j.nextStep + 1, credit := false })

/-- Launch the re-run of a killed step: same number and work list, credit mode (R95, R148); it runs against the state after
item 4 of its own launch boundary. -/
def State.restartStep (s : State) (j : Job) (g : Graph) (x : Step) (pages : List (Nat × Pte)) (t : Nat) : State :=
  let env := s.stepEnv g j x.isDraft x.lens
  let s := s.freshFrames j g pages
  let x : Step := { x with phase := .running, launched := t, rerun := true, stagedPages := pages, env := env }
  let s := s.launchCells g j x.isDraft x.lens pages x.number true t
  s.updJob j.handle (fun _ => { j with step := some x, credit := false })

end Sys2Proof.Machine
end

