-- ==== Sys2Proof/Machine/StepRun.lean ====
section
/-! DEFINITION. A step in flight: its completion on this rank, the merging of statistics over the rank tree, and the
records by which the ranks agree on its commit (R147, R204, R227, R313-R316, R326, R327). -/
namespace Sys2Proof.Machine

/-! ## The page-table walk (R204, R212, R227) -/

/-- Does an entry break a check of R204: CHECK, VALID, frame number, generation? -/
def Job.entryBad (j : Job) (b : Nat) (e : Pte) : Bool :=
  e.check != crc8 e.body || !e.valid || !j.frameIn b e.frame || e.gen17 != j.genOf b e.frame

/-- Does a frame hold an uncorrectable class S error? -/
def State.frameBad (s : State) (j : Job) (b : Nat) (e : Pte) : Bool := s.hbm.sBadRange (j.frameAddr b e.frame) (640 * b)

/-- A failing page: sequence, frame, descriptor, page, B, and whether a check of R204 failed. -/
structure BadPage where
  seq : Nat
  frame : Nat
  desc : Nat
  page : Nat
  b : Nat
  stateError : Bool
  deriving DecidableEq, Repr

/-- What one published page index of a sequence gives the walk. -/
def State.walkPage (s : State) (j : Job) (k : KvState) (seq desc b page : Nat) : Option BadPage :=
  match k.pt.find? (fun e => e.desc == desc && e.page == page) with
  | none => some ⟨seq, noField, desc, page, b, true⟩
  | some e =>
    if j.entryBad b e then some ⟨seq, e.frame, desc, page, b, true⟩
    else if s.frameBad j b e then some ⟨seq, e.frame, desc, page, b, false⟩
    else none

/-- The failing published pages of a step: those that hold a position below BASE_LEN that some token reads (R204, R208). -/
def State.walkPublished (s : State) (j : Job) (g : Graph) (x : Step) : List BadPage :=
  x.lens.flatMap (fun l =>
    if l.discard || l.base == 0 then []
    else (attends g j.nRanks j.rank).flatMap (fun a =>
      let lo := visibleFrom (g.spanOf a.1) l.base / 16
      if a.2 = 0 then []
      else (List.range' lo ((l.base - 1) / 16 + 1 - lo)).filterMap (fun p =>
        s.walkPage j (j.kvIn x.isDraft l.seq) l.seq a.1 a.2 p)))

/-- The failing staged pages of a step (R204). -/
def State.walkStaged (s : State) (j : Job) (g : Graph) (x : Step) : List BadPage :=
  x.stagedPages.filterMap (fun e =>
    let b := j.kvB (some g) e.2.desc
    if j.entryBad b e.2 then some ⟨e.1, e.2.frame, e.2.desc, e.2.page, b, true⟩
    else if s.frameBad j b e.2 then some ⟨e.1, e.2.frame, e.2.desc, e.2.page, b, false⟩
    else none)

/-- The entries of one sequence's table that map a frame, as the sequence loses them (R227). -/
def lostIn (id frame b : Nat) (kvB : Nat → Nat) (k : KvState) : List (Nat × Nat × Nat × Nat) :=
  (k.pt.filter (fun e => e.valid && e.frame == frame && kvB e.desc == b)).map (fun e => (id, frame, e.desc, e.page))

/-- Every sequence that loses its KV state to a failing page: the mappers of its frame, or its own sequence (R227). -/
def State.losers (s : State) (j : Job) (x : BadPage) : List (Nat × Nat × Nat × Nat) :=
  let m := j.kvB (s.mainOf j)
  let d := j.kvB (s.draftOf j)
  let xs := j.seqs.flatMap (fun e => lostIn e.req.id x.frame x.b m e.main ++ lostIn e.req.id x.frame x.b d e.draft)
    ++ j.direct.flatMap (fun e => lostIn e.id x.frame x.b m e.main ++ lostIn e.id x.frame x.b d e.draft)
  if xs.any (fun y => y.1 == x.seq) then xs else (x.seq, x.frame, x.desc, x.page) :: xs

/-- Count what a walk found: state errors of R204 and uncorrectable S bursts (R371). -/
def State.countBad (s : State) (xs : List BadPage) : State :=
  let st := (xs.filter (·.stateError)).length
  { s with counters := { s.counters with
      stateErrors := satAdd s.counters.stateErrors st,
      sUncorrectable := satAdd s.counters.sUncorrectable (xs.length - st) } }

/-! ## STATS (R316) -/

/-- The body that this rank's own results give (R316). -/
def statsOf (g : Graph) (audit : Bool) (r : Results) : StatsBody where
  ms := r.stats.map (fun x => x.2.map (·.2))
  trigs := r.trigs.map (fun x => x.2.flatMap (·.2))
  clamps := r.tally.map (fun x => x.2.clamps)
  lnsSats := r.tally.map (fun x => x.2.lnsSat)
  active := if audit then ((r.tally.zip g.descs).filter (fun x => x.2.predicts)).map (fun x => x.1.2.active) else []
  missed := if audit then ((r.tally.zip g.descs).filter (fun x => x.2.predicts)).map (fun x => x.1.2.missed) else []

/-- Two bodies merged field by field: maximum, OR, and addition modulo 2^32 (R316). -/
def mergeStats (a b : StatsBody) : StatsBody where
  ms := List.zipWith (List.zipWith Nat.max) a.ms b.ms
  trigs := List.zipWith (List.zipWith or) a.trigs b.trigs
  clamps := List.zipWith (fun x y => (x + y) % 2 ^ 32) a.clamps b.clamps
  lnsSats := List.zipWith (fun x y => (x + y) % 2 ^ 32) a.lnsSats b.lnsSats
  active := List.zipWith (fun x y => (x + y) % 2 ^ 32) a.active b.active
  missed := List.zipWith (fun x y => (x + y) % 2 ^ 32) a.missed b.missed

/-- Give the trigger bits of one sequence back to their descriptors. -/
def splitTrigs : List (Nat × List Bool) → List Bool → List (Nat × List Bool)
  | [], _ => []
  | x :: xs, bs => (x.1, bs.take x.2.length) :: splitTrigs xs (bs.drop x.2.length)

/-- Tallies with the merged audit counts, one for each predicted descriptor in order. -/
def adoptAudit : List ((Nat × DescTally) × Desc) → List Nat → List Nat → List (Nat × DescTally)
  | [], _, _ => []
  | x :: xs, as_, ms =>
    if x.2.predicts then
      (x.1.1, { x.1.2 with active := as_.headD 0, missed := ms.headD 0 }) :: adoptAudit xs as_.tail ms.tail
    else x.1 :: adoptAudit xs as_ ms

/-- Results with the merged body in place of this rank's own numbers (R316). -/
def adoptStats (g : Graph) (audit : Bool) (r : Results) (b : StatsBody) : Results :=
  let t := (r.tally.zip (b.clamps.zip b.lnsSats)).map (fun x => (x.1.1, { x.1.2 with clamps := x.2.1, lnsSat := x.2.2 }))
  { r with
    stats := (r.stats.zip b.ms).map (fun x => (x.1.1, (x.1.2.zip x.2).map (fun y => (y.1.1, y.2)))),
    trigs := (r.trigs.zip b.trigs).map (fun x => (x.1.1, splitTrigs x.1.2 x.2)),
    tally := if audit then adoptAudit (t.zip g.descs) b.active b.missed else t }

/-- Is a step an audit step (R179)? -/
def Step.audits (x : Step) : Bool := x.number.toNat % 256 == 0

/-- Change the step of a job. -/
def State.updStep (s : State) (h : Nat) (f : Step → Step) : State := s.updJob h (fun j => { j with step := j.step.map f })

/-- The children of this rank in the rank tree (R109). -/
def Job.kids (j : Job) : List Nat := (treeChildren j.rank j.nRanks).map (·.1)

/-- Send a STATS message to ranks. -/
def State.sendStats (s : State) (h : Nat) (ranks : List Nat) (step : Nat) (down : Bool) (b : StatsBody) : State :=
  s.send (ranks.map (fun r => .stats h r step down b))

/-- This rank holds the merged message: it adopts it, passes it down, and a rank other than 0 reports STEP_DONE (R316,
R326). -/
def State.holdStats (s : State) (j : Job) (x : Step) (b : StatsBody) : State :=
  let now := s.now
  let s := s.updStep j.handle (fun y =>
    { y with results := y.results.map (fun r => adoptStats y.env.graph y.audits r b), merged := some now })
  let s := s.sendStats j.handle j.kids x.number.toNat true b
  if j.rank = 0 then s else s.control j.handle [0] 1 j.rank 0 x.number.toNat 0

/-- Once this rank has completed and every child's message is here: the root holds the merged message, another rank sends
its merge to its parent (R316). -/
def State.tryStats (s : State) (h : Nat) : State :=
  match s.job h with
  | none => s
  | some j => match j.step with
    | none => s
    | some x => match x.results with
      | none => s
      | some r =>
        if j.nRanks = 1 ∨ x.merged.isSome = true ∨ j.kids.all (fun k => x.statsIn.any (fun y => y.1 == k)) = false then s
        else
          let b := (x.statsIn.map (·.2)).foldl mergeStats (statsOf x.env.graph x.audits r)
          if j.rank = 0 then s.holdStats j x b else s.sendStats h [treeParent j.rank] x.number.toNat false b

/-- A STATS message from a rank: up from a child, or down from the parent (R316). -/
def State.statsArrive (s : State) (job rank step : Nat) (down : Bool) (b : StatsBody) : State :=
  match s.job job with
  | none => s
  | some j => match j.step with
    | none => s
    | some x =>
      if x.number.toNat ≠ step ∨ x.phase = .killed ∨ j.lost = true then s
      else if down then
        if j.rank ≠ 0 ∧ rank = treeParent j.rank ∧ x.results.isSome = true ∧ x.merged = none then s.holdStats j x b else s
      else if j.kids.contains rank ∧ x.statsIn.any (fun y => y.1 == rank) = false then
        (s.updStep job (fun y => { y with statsIn := y.statsIn ++ [(rank, b)] })).tryStats job
      else s

/-! ## STEP_COMPLETE (R147, R204) -/

/-- What the evaluation of a step reads. -/
def stepCtx (j : Job) (x : Step) (draw : Nat) : Ctx :=
  ⟨x.env, j.handle, j.nRanks, j.rank, x.number.toNat, x.toks.length, x.prefill, x.reduces, x.gathers, x.terms, draw⟩

/-- Do the cells of a job hold open groups? -/
def State.holdsGroups (s : State) (h : Nat) : Bool := s.cells.toList.any (fun c => c.job == some h && !c.groups.isEmpty)

/-- Send the records of a step that have not gone out (R109, R110, R154, R192). -/
def State.sendNew (s : State) (j : Job) (x : Step) (os : List Out) : State :=
  (s.send (x.sent.foldl List.erase os)).updStep j.handle (fun y => { y with sent := os })

/-- Write routing records where the job's tables hold them, burst by burst on the narrow path (R186, R253, R265). -/
def State.storeRoutes (s : State) (j : Job) (draft : Bool) (rs : List (Nat × Nat × Bytes)) : State :=
  { s with hbm := rs.foldl (fun h r =>
      (List.range 3).foldl (fun h k =>
        h.sWrite (s.tableAddr j.handle (s.routeTable j draft r.1 + 96 * r.2.1 + 32 * k)) (sub r.2.2 (32 * k) 32)) h) s.hbm }

/-- What the input stages of a job's cells have clamped joins the counts and block triggers of the descriptors that wrote the
vectors (R50, R74, R372). -/
def Results.withClamps (r : Results) (cs : List ((Nat × Nat × Nat × Nat) × Nat)) : Results :=
  { r with
    tally := r.tally.map (fun t =>
      (t.1, { t.2 with clamps := t.2.clamps + sumN ((cs.filter (fun c => c.1.1 == t.1)).map (·.2)) })),
    trigs := r.trigs.map (fun q => (q.1, q.2.map (fun d =>
      (d.1, d.2.zipIdx.map (fun b => b.1 || cs.any (fun c => c.1.1 == d.1 && c.1.2.1 == q.1 && c.1.2.2.2 / 4 == b.2 && c.2 != 0)))))) }

/-- Everything that the input stages of a job's cells have clamped in the step; cells that loaded one vector found the same. -/
def State.cellClamps (s : State) (h : Nat) : List ((Nat × Nat × Nat × Nat) × Nat) :=
  ((s.cells.toList.filter (fun c => c.job == some h)).flatMap (·.clamps)).eraseDups

/-- The step is done on this rank: its results are staged, its cells wait for the boundary, and the statistics start up the tree
(R119, R143, R147, R316). -/
def State.stageResults (s : State) (j : Job) (r : Results) : State :=
  let now := s.now
  let s : State := { s with
    draws := s.draws + 1, contexts := Vector.replicate 2 [], waitingReds := Vector.replicate 2 [], moduleSums := [] }
  let s := s.storeRoutes j (match j.step with | some x => x.isDraft | none => false) r.routing
  let r := r.withClamps (s.cellClamps j.handle)
  let s := s.updStep j.handle (fun y => { y with results := some r, phase := .complete now })
  (s.updCells (fun c => c.job == some j.handle && c.base == .running) (Cell.setBase .waitBoundary now)).tryStats j.handle

/-- Run a step on this rank as far as the records that have arrived let it: what it forms for other ranks goes out, and once its
reductions, gathers and terms have all been delivered its results are staged (R103, R147). -/
def State.runOn (s : State) (j : Job) (x : Step) : State :=
  let r := evalStep (stepCtx j x s.draws) x.lens x.isDraft x.toks
  let s := s.sendNew j x r.2
  match r.1 with
  | some res => s.stageResults j res
  | none => s.updStep j.handle (fun y => { y with ready := true })

/-- What the ranks make of a module sum of this rank for one token slot of its group (R109, R110). -/
def sumReduced (c : Ctx) (r : Reduction) (shift token slot : Nat) : Reduced :=
  match c.env.graph.descs[r.key.layer]? with
  | none => ⟨none, 0, []⟩
  | some d => match (downLeaves d c.n r.key.expert).findIdx? (fun x => x.1 == c.rank) with
    | none => ⟨none, 0, []⟩
    | some k => acrossRanks c r.key.layer token d r.key.expert r.key.block shift k (r.sats.getD slot 0)
        ((List.range 256).map (fun o => r.sums.getD (256 * slot + o) 0))

/-- The group whose work a reduction is of, in a cell that still holds it. -/
def State.groupOf (s : State) (k : GroupKey) : Option Group :=
  s.cells.toList.findSome? (fun c => c.groups.find? (fun g => g.tag.key == k))

/-- The records that the module sums standing now give other ranks, each with its expert (R109, R110). -/
def State.sumSends (s : State) (c : Ctx) : List (Nat × Out) :=
  s.moduleSums.flatMap (fun r => match s.groupOf r.key with
    | none => []
    | some g => if g.tag.across then
        g.tag.index.zipIdx.flatMap (fun t =>
          ((sumReduced c r (g.tag.shifts.getD t.2 0) t.1 t.2).sends).map (fun o => (r.key.expert, o))) else [])

/-- Do two records stand in one run of records that their receiver tells apart by order alone? -/
def sameRun (a b : Out) : Bool :=
  match a, b with
  | .reduce _ to_ x, .reduce _ to2 y =>
    to_ == to2 && x.dir == y.dir && x.desc == y.desc && x.token == y.token && x.block == y.block
  | _, _ => false

/-- How many experts before expert `e` give a record of the same run: those whose record of that direction goes the same way. -/
def runPlace (c : Ctx) (e : Nat) : Out → Nat
  | .reduce _ to_ x => match c.env.graph.descs[x.desc]? with
    | none => 0
    | some d => ((List.range e).filter (fun k =>
        if x.dir = 0 then upTo d c.n c.rank k == some to_ else downFrom d c.n to_ k == some c.rank)).length
  | _ => 0

/-- Add to what has gone out the records whose turn it is: those of one run leave in the order of their experts
(notes/assumptions/14.md). -/
def inTurn (c : Ctx) : List (Nat × Out) → List Out → List Out
  | [], sent => sent
  | x :: xs, sent =>
    inTurn c xs (if !sent.contains x.2 && (sent.filter (sameRun x.2)).length == runPlace c x.1 x.2 then sent ++ [x.2] else sent)

/-- Send those of them that have not gone out: a rank's sums go up the tree as they are formed, F comes down it as it arrives
(R109, R110). -/
def State.offerSums (s : State) (j : Job) (x : Step) : State :=
  let c := stepCtx j x s.draws
  let all := inTurn c (sortBy (fun a b => decide (a.1 ≤ b.1)) (s.sumSends c)) x.sent
  (s.send (all.drop x.sent.length)).updStep j.handle (fun y => { y with sent := all })

/-- A record has arrived for a step: where only records were waited for, it runs on; else the module sums it completes go on
their way. -/
def State.runOnReady (s : State) (h : Nat) : State :=
  match s.job h with
  | none => s
  | some j => match j.step with
    | none => s
    | some x => if x.phase ≠ .running then s else if x.ready then s.runOn j x else s.offerSums j x

/-- The step of a job completes on this rank, unless its pages fail: a published page ends its sequences (R227), a staged
page kills the step for a re-run (R204). -/
def State.completeStep (s : State) (h : Nat) : State :=
  match s.job h with
  | none => s
  | some j => match j.step with
    | none => s
    | some x =>
      if x.phase ≠ .running ∨ s.holdsGroups h = true then s
      else
        let pub := s.walkPublished j x.env.graph x
        let stg := s.walkStaged j x.env.graph x
        if pub ≠ [] then
          ((s.countBad pub).killStep h 8 true).updJob h (fun y => { y with seqLost := y.seqLost ++ pub.flatMap (s.losers j) })
        else if stg ≠ [] then (s.countBad stg).killStep h 3 true
        else s.runOn j x

/-- STEP_COMPLETE (R147). -/
def execStepComplete (job : Nat) (s : State) : Host.Outcome State Fault Refusal := .next (s.completeStep job)

/-! ## Losing a job (R327) -/

/-- Every command of a lost job that waits fails with 0x8207, but for CLOSE_JOB; its ships fail with it (R327). -/
def State.failLost (s : State) (h t : Nat) : State :=
  let s := (s.shipsOut.filter (fun x => x.job == h)).foldl (fun s x => s.endShipOut x t (fail 0x8207)) s
  let s := (s.shipsIn.filter (fun x => x.job == h)).foldl (fun s x => s.endShipIn x t (fail 0x8207)) s
  (s.cmds.filter (fun c => c.job == h && c.code != 0x21 && !c.sched)).foldl (fun s c => s.answer c t (fail 0x8207)) s

/-- The job is lost: JOB_LOST is posted, and nothing of it runs on (R327). -/
def State.loseJob (s : State) (j : Job) (why : Nat) : State :=
  let e := { event 0x0004 s.now with job := j.handle, arg0 := j.rank, arg1 := why,
                                     step := match j.step with | some x => x.number.toNat | none => noField }
  let s := s.updCells (fun c => c.job == some j.handle) (Cell.kill s.now)
  let s := (s.updJob j.handle (fun j => { j.dropRound with lost := true })).tidyJob j.handle
  (s.failLost j.handle s.now).postPart j.part e

/-! ## CONTROL records (R313, R326, R327) -/

/-- A STEP_DONE: rank 0 keeps another rank's; another rank learns B0 from rank 0, or loses the job when it comes too late
(R326, R327). -/
def State.stepDone (s : State) (job rank step boundary : Nat) : State :=
  match s.job job with
  | none => s
  | some j => match j.step with
    | none => s
    | some x =>
      if j.lost = true ∨ x.number.toNat ≠ step ∨ x.phase = .killed then s
      else if j.rank = 0 then
        if rank ≠ 0 ∧ rank < j.nRanks ∧ x.doneFrom.contains rank = false then
          s.updStep job (fun y => { y with doneFrom := y.doneFrom ++ [rank], doneTimes := y.doneTimes ++ [s.now] })
        else s
      else if rank = 0 then
        if boundary + j.period ≤ s.now then s.loseJob j 1
        else s.updStep job (fun y => { y with b0 := some boundary })
      else s

/-- CONTROL_STEP_DONE (R326). -/
def execControlStepDone (job rank step boundary : Nat) (s : State) : Host.Outcome State Fault Refusal :=
  .next (s.stepDone job rank step boundary)

/-- Is a step number that of the last committed step of a job or earlier (R331, R332)? -/
def Job.committedStep (j : Job) (step : Nat) : Bool :=
  match j.lastCommitted with
  | none => false
  | some c => match serialCmp 32 step c.toNat with
    | .equal => true
    | .earlier => true
    | _ => false

/-- A KILL: for a step this rank has committed the job is lost; for the step in flight it is killed here too, and not told
on (R148, R313, R327). -/
def State.killArrive (s : State) (job step reason : Nat) : State :=
  match s.job job with
  | none => s
  | some j =>
    if j.lost then s
    else if j.committedStep step then s.loseJob j 2
    else match j.step with
      | none => s
      | some x => if x.number.toNat = step then s.killStep job reason false else s

/-- CONTROL_KILL (R148, R313). -/
def execControlKill (job rank step reason : Nat) (s : State) : Host.Outcome State Fault Refusal :=
  .next (match s.job job with
    | none => s
    | some j => if rank ≠ j.rank ∧ rank < j.nRanks then s.killArrive job step reason else s)

end Sys2Proof.Machine
end

