-- ==== Sys2Proof/Machine/Memory.lean ====
section
/-! DEFINITION. The memory system: code words and their decoding, reads, writes, the narrow path, the memory-side adders,
rebuilds from parity, the scrubber and the traffic generators (R250-R280, R357, R362-R365). -/
namespace Sys2Proof.Machine

/-! ## Reed-Solomon decoding (R255, R256) -/

/-- Multiply a field element of GF(2^w) by x, under a primitive polynomial. -/
def gfX (w poly a : Nat) : Nat := if (2 * a).testBit w then 2 * a ^^^ poly else 2 * a

/-- The product of two field elements; the first argument bounds the bits of `b`. -/
def gfMul (w poly : Nat) : Nat → Nat → Nat → Nat
  | 0, _, _ => 0
  | k + 1, a, b => let r := gfMul w poly k (gfX w poly a) (b / 2); if b % 2 = 1 then r ^^^ a else r

/-- α^k with α = x. -/
def gfPow (w poly : Nat) : Nat → Nat
  | 0 => 1
  | k + 1 => gfX w poly (gfPow w poly k)

/-- Syndrome j of an error pattern: errors given as (power of x, error). -/
def syndrome (w poly j : Nat) (es : List (Nat × Nat)) : Nat :=
  es.foldl (fun x e => x ^^^ gfMul w poly w e.2 (gfPow w poly (j * e.1))) 0

/-- What the decoder makes of a received word: no error, one symbol in error, or more. -/
inductive Decoded where
  | clean
  | one (power err : Nat)
  | bad
  deriving DecidableEq, Repr

/-- Decode an error pattern of a code of `n` symbols with the roots 1, α and α^2. -/
def rsDecode (w poly n : Nat) (es : List (Nat × Nat)) : Decoded :=
  let s0 := syndrome w poly 0 es
  let s1 := syndrome w poly 1 es
  let s2 := syndrome w poly 2 es
  if s0 = 0 ∧ s1 = 0 ∧ s2 = 0 then .clean
  else if s0 = 0 then .bad
  else match (List.range n).find? (fun k =>
      let a := gfPow w poly k
      gfMul w poly w s0 a == s1 && gfMul w poly w s1 a == s2) with
    | some k => .one k s0
    | none => .bad

/-- The W code: GF(2^16) under x^16 + x^12 + x^3 + x + 1, 134 symbols (R255). -/
def decodeW (es : List (Nat × Nat)) : Decoded := rsDecode 16 0x1100B 134 es

/-- The S code: GF(2^8) under x^8 + x^4 + x^3 + x^2 + 1, 41 symbols (R256). -/
def decodeS (es : List (Nat × Nat)) : Decoded := rsDecode 8 0x11D 41 es

/-! ## Code words in memory -/

/-- The end of memory (R250). -/
def memEnd : Nat := 12 * stackBytes

/-- The data disturbances that fall in a code word of `n` bytes at an address. -/
def dataIn (d : Disturb) (a n : Nat) : List (Nat × Byte) := d.data.filter (fun x => decide (a ≤ x.1 ∧ x.1 < a + n))

/-- What was found flipped in the side bits of a burst. -/
def sideFlips (d : Disturb) (b : Nat) : BitVec 32 :=
  (d.side.filter (fun x => x.1 == b)).foldl (fun m x => m ^^^ x.2) 0

/-- Flip stored bytes by masks. -/
def Hbm.flip (h : Hbm) (xs : List (Nat × Byte)) : Hbm :=
  { h with mem := xs.foldl (fun m x => Mem.write m x.1 [Mem.get m x.1 ^^^ x.2]) h.mem }

/-- How the check of a code word ends: it passes, a symbol was corrected and written back, or the word is uncorrectable;
`fresh` says that it was not poisoned before (R258, R259). -/
inductive Checked where
  | pass
  | corrected
  | bad (fresh : Bool)
  deriving DecidableEq, Repr

/-- Is an outcome uncorrectable? -/
def Checked.isBad : Checked → Bool
  | .bad _ => true
  | _ => false

/-- The 1 bits of a poison byte that stands at bit `lo` of the side bits (R258). -/
def poisonBits (d : BitVec 32) (lo : Nat) : Nat := ((List.range 8).filter (fun i => d.getLsbD (lo + i))).length

/-- Check W line `l`, with what has disturbed it: its errors are symbols of the W code (R255, R258, R259). Where they make another
code word, that word stands from then on. -/
def Hbm.checkW (h : Hbm) (l : Nat) (d : Disturb) : Hbm × Checked :=
  let a := 256 * l
  let xs := dataIn d a 256
  let d0 := lookupD 0 (8 * l) h.side ^^^ sideFlips d (8 * l)
  let d1 := lookupD 0 (8 * l + 1) h.side ^^^ sideFlips d (8 * l + 1)
  let was := h.wBad l
  let h := (h.flip xs).setSide (8 * l) d0 |>.setSide (8 * l + 1) d1
  let poisoned (h : Hbm) : Hbm × Checked := (h.poisonW l, .bad (!was))
  if 4 ≤ poisonBits d1 16 then poisoned h
  else
    let es := xs.map (fun x => (133 - (x.1 - a) / 2, x.2.toNat * 256 ^ (x.1 % 2)))
      ++ [(2, d0.toNat % 65536), (1, d0.toNat / 65536), (0, d1.toNat % 65536)]
    match decodeW es with
    | .clean => ((h.setSide (8 * l) 0).setSide (8 * l + 1) (d1 &&& 0x00FF0000), .pass)
    | .bad => poisoned h
    | .one k e =>
      if 3 ≤ k ∧ k ≤ 5 then poisoned h
      else
        let h := if k < 3 then h else
          h.flip [(a + 2 * (133 - k), BitVec.ofNat 8 e), (a + 2 * (133 - k) + 1, BitVec.ofNat 8 (e / 256))]
        ((h.setSide (8 * l) 0).setSide (8 * l + 1) 0, .corrected)

/-- Check S burst `b`, with what has disturbed it (R256, R258, R259). -/
def Hbm.checkS (h : Hbm) (b : Nat) (d : Disturb) : Hbm × Checked :=
  let a := 32 * b
  let xs := dataIn d a 32
  let v := lookupD 0 b h.side ^^^ sideFlips d b
  let was := h.sBad b
  let h := (h.flip xs).setSide b v
  let poisoned (h : Hbm) : Hbm × Checked := (h.setSide b 0xFF000000, .bad (!was))
  if 4 ≤ poisonBits v 24 then poisoned h
  else
    let es := xs.map (fun x => (40 - (x.1 - a), x.2.toNat))
      ++ [(2, v.toNat % 256), (1, v.toNat / 256 % 256), (0, v.toNat / 65536 % 256)]
    match decodeS es with
    | .clean => (h.setSide b (v &&& 0xFF000000), .pass)
    | .bad => poisoned h
    | .one k e =>
      if 3 ≤ k ∧ k ≤ 8 then poisoned h
      else
        let h := if k < 3 then h else h.flip [(a + (40 - k), BitVec.ofNat 8 e)]
        (h.setSide b 0, .corrected)

/-- The difference that flipped data bytes make to a line's CRC-16 (R257): the check is linear. -/
def crcDiff (a : Nat) (xs : List (Nat × Byte)) : Nat :=
  let e := xs.foldl (fun (bs : Bytes) x => bs.set (x.1 - a) (bs.getD (x.1 - a) 0 ^^^ x.2)) (zeros 256)
  crc16 (e ++ zeros 5) ^^^ crc16 (zeros 261)

/-- Check A line `l`: nothing is corrected, and a failed line keeps failing (R257, R259). -/
def Hbm.checkA (h : Hbm) (l : Nat) (d : Disturb) : Hbm × Checked :=
  let xs := dataIn d (256 * l) 256
  let v := lookupD 0 (8 * l) h.side ^^^ sideFlips d (8 * l) ^^^ BitVec.ofNat 32 (crcDiff (256 * l) xs)
  ((h.flip xs).setSide (8 * l) v, if 4 ≤ poisonBits v 16 ∨ v.toNat % 65536 ≠ 0 then .bad true else .pass)

/-- The code words that a range of addresses touches: the class of each, and its line or burst number (R254). A free unit
holds class-W encoding (R252). -/
def State.codeWords (s : State) (a n : Nat) : List (UnitClass × Nat) :=
  if n = 0 then []
  else (List.range' (a / 256) ((a + n - 1) / 256 + 1 - a / 256)).flatMap (fun l =>
    match s.classAt (256 * l) with
    | .s =>
      let lo := Nat.max (a / 32) (8 * l)
      let hi := Nat.min ((a + n - 1) / 32) (8 * l + 7)
      (List.range' lo (hi + 1 - lo)).map (fun b => (.s, b))
    | c => [(c, l)])

/-- Where a code word begins, and its length. -/
def wordSpan (w : UnitClass × Nat) : Nat × Nat := match w.1 with
  | .s => (32 * w.2, 32)
  | _ => (256 * w.2, 256)

/-- Check one code word. -/
def Hbm.check (h : Hbm) (w : UnitClass × Nat) (d : Disturb) : Hbm × Checked := match w.1 with
  | .s => h.checkS w.2 d
  | .a => h.checkA w.2 d
  | _ => h.checkW w.2 d

/-- Count the outcome of one check (R371). -/
def ModCounters.checked (c : ModCounters) (cls : UnitClass) (x : Checked) : ModCounters :=
  match cls, x with
  | .s, .corrected => { c with sCorrected := satInc c.sCorrected }
  | .s, .bad true => { c with sUncorrectable := satInc c.sUncorrectable }
  | .a, .bad _ => { c with aDetected := satInc c.aDetected }
  | .w, .corrected => { c with wCorrected := satInc c.wCorrected }
  | .w, .bad true => { c with wUncorrectable := satInc c.wUncorrectable }
  | .free, .corrected => { c with wCorrected := satInc c.wCorrected }
  | .free, .bad true => { c with wUncorrectable := satInc c.wUncorrectable }
  | _, _ => c

/-- Check one code word and count; the answer lists it when it failed. -/
def State.checkWord (s : State) (w : UnitClass × Nat) (d : Disturb) : State × Checked :=
  let r := s.hbm.check w d
  ({ s with hbm := r.1, counters := s.counters.checked w.1 r.2 }, r.2)

/-- Check code words in order; the answer names those that failed. -/
def State.checkWords (d : Disturb) : State → List (UnitClass × Nat) → State × List (UnitClass × Nat)
  | s, [] => (s, [])
  | s, w :: ws =>
    let r := s.checkWord w d
    let q := State.checkWords d r.1 ws
    (q.1, if r.2.isBad then w :: q.2 else q.2)

/-! ## What an uncorrectable word does (R227, R272, R357, R362) -/

/-- The code that ADDRESS_FAULT gives an agent (R369); the sequence engine and the page manager are the control core's, RoCE
placement is a hub DMA channel's (R360). -/
def agentCode : Agent → Nat
  | .cell => 0
  | .updraft _ => 1
  | .hubDma => 2
  | .roce => 2
  | .controlCore => 3
  | .sequenceEngine => 3
  | .pageManager => 3

/-- Is an agent one that works for the running step? -/
def stepAgent : Agent → Bool
  | .cell => true
  | .updraft _ => true
  | .pageManager => true
  | .sequenceEngine => true
  | _ => false

/-- Kill the step of the active job, if one runs. -/
def State.killActive (s : State) (cause : Nat) : State :=
  match s.active with
  | none => s
  | some h => s.killStep h cause true

/-- An address fault: the access is refused, the running command is killed and re-run (R250, R357). -/
def State.addressFault (s : State) (who : Agent) (a : Nat) : State :=
  let s : State := { s with counters := { s.counters with addressFaults := satInc s.counters.addressFaults } }
  (s.killActive 4).postModule { event 0x0013 s.now with
    loc := if a < memEnd then pcOf a else 0xFFFF, arg0 := a, arg1 := agentCode who }

/-- Does the step in flight of a job read a block: one of its graph that this rank holds (R362)? -/
def Job.stepReads (j : Job) (b : Block) : Bool :=
  match j.step with
  | none => false
  | some x => x.env.graph.gref == b.gref && holdsBlock x.env.graph.descs j.nRanks j.rank b

/-- Are two the block of one block-table entry? -/
def Block.same (b x : Block) : Bool := x.gref == b.gref && x.desc == b.desc && x.entry == b.entry

/-- Abandon the pending re-placements that satisfy a test (R166). -/
def State.abandonFor (s : State) (p : Job → Repl → Bool) : State :=
  (s.jobs.filter (fun j => j.layout.pending.any (p j))).foldl (fun s j => s.abandonRepl j.handle s.now) s

/-- Poison a block: its repair begins, a re-placement that copies it is abandoned, and every command in flight that reads it is
killed (R166, R272, R362). -/
def State.poisonBlock (s : State) (b : Block) : State :=
  let s := s.abandonFor (fun _ r => r.blocks.any (fun x => b.same x.1))
  let f (x : Block) : Block := { x with poison := if x.poison = .clean then .rebuilding else x.poison }
  let s : State := { s with blocks := updIf b.same f s.blocks }
  (s.jobs.filter (fun j => j.stepReads b)).foldl (fun s j => s.killStep j.handle 7 true) s

/-- Does a block hold a byte of a W line? -/
def Block.onLine (b : Block) (l : Nat) : Bool := decide (b.addr < 256 * l + 256 ∧ 256 * l < b.addr + b.bytes)

/-- A W line read uncorrectable: the blocks and data sections on it are poisoned (R272). -/
def State.badW (s : State) (l : Nat) : State := (s.blocks.filter (fun b => b.onLine l)).foldl (fun s b => s.poisonBlock b) s

/-- The frame of a job's pools that holds an address: (B, frame number). -/
def Job.frameAt (j : Job) (a : Nat) : Option (Nat × Nat) :=
  (j.pools.find? (fun p => decide (p.base ≤ a ∧ a < p.base + p.count * (640 * p.b)))).map
    (fun p => (p.b, p.stack * 2 ^ 22 + (a - p.base) / (640 * p.b)))

/-- The sequence whose own state stands at an address of a job's tables: slot k of them is the k-th run of the size of one
sequence's state; direct-mode records take the slots from 0 (R227, R231; DESIGN CHOICE, notes/assumptions/5.md). -/
def State.tableSeqAt (s : State) (j : Job) (r : URange) (a : Nat) : Option Nat :=
  let k := r.tableAt a / ownStateBytes (s.jobGraphs j)
  if seqSlots ≤ k then none
  else match j.seqs.find? (fun e => e.slot == k) with
    | some e => some e.req.id
    | none => (j.direct[k]?).map (·.id)

/-- Does a sequence take part in the step in flight of a job? -/
def Job.inStep (j : Job) (id : Nat) : Bool :=
  match j.step with
  | none => false
  | some x => x.lens.any (fun l => l.seq == id)

/-- Sequences lose their state: noted for the job's next boundary, and a step they take part in is killed for good (R227). -/
def State.loseStates (s : State) (j : Job) (xs : List (Nat × Nat × Nat × Nat)) : State :=
  let s := s.updJob j.handle (fun y => { y with seqLost := y.seqLost ++ xs })
  if xs.any (fun x => j.inStep x.1) then s.killStep j.handle 8 true else s

/-- Every entry of a job's tables that maps a frame, as its sequence loses it (R227). -/
def mappers (j : Job) (b frame : Nat) (m d : Nat → Nat) : List (Nat × Nat × Nat × Nat) :=
  j.seqs.flatMap (fun e => lostIn e.req.id frame b m e.main ++ lostIn e.req.id frame b d e.draft)
    ++ j.direct.flatMap (fun e => lostIn e.id frame b m e.main ++ lostIn e.id frame b d e.draft)

/-- A frame read uncorrectable: a step's read ends every sequence that maps it, a ship's read fails the ship, and a re-placement
that copies it is abandoned (R166, R226, R227). -/
def State.badFrame (s : State) (who : Agent) (j : Job) (b frame : Nat) : State :=
  let s := s.abandonFor (fun k r => k.handle == j.handle && r.pages.any (fun x => x.1 == b && x.2.1 == frame))
  if stepAgent who then
    s.loseStates j (mappers j b frame (j.kvB (s.mainOf j)) (j.kvB (s.draftOf j)))
  else if who = Agent.hubDma then
    (s.shipsOut.filter (fun x => x.job == j.handle && x.frames.contains (b, frame))).foldl
      (fun s x => s.failSend x s.now (fail 0x8405)) s
  else s

/-- An S burst read uncorrectable (R227, R357): a page, a sequence's state, a bulk slot, or other S data. -/
def State.badS (s : State) (who : Agent) (b : Nat) : State :=
  let a := 32 * b
  let u := a % stackBytes / 65536
  let e := memoryError s.now 1 a
  match s.hbm.ranges.find? (fun r => r.stack == a / stackBytes && decide (r.first ≤ u ∧ u < r.first + r.count)) with
  | none => s.postModule e
  | some r => match s.job r.job with
    | none => s.postModule e
    | some j => match j.frameAt a with
      | some f => s.badFrame who j f.1 f.2
      | none => match (if who = .sequenceEngine then s.tableSeqAt j r a else none) with
        | some id => s.loseStates j [(id, noField, noField, noField)]
        | none => (s.killStep j.handle 3 true).postModule { e with job := j.handle }

/-- An A line read uncorrectable: the consuming command is killed and re-run (R259, R357). -/
def State.badA (s : State) (l : Nat) : State :=
  let a := 256 * l
  let u := a % stackBytes / 65536
  match s.hbm.ranges.find? (fun r => r.stack == a / stackBytes && decide (r.first ≤ u ∧ u < r.first + r.count)) with
  | none => s.postModule (memoryError s.now 2 a)
  | some r => (s.killStep r.job 3 true).postModule { memoryError s.now 2 a with job := r.job }

/-- What the module does about a word that failed its check. -/
def State.badWord (who : Agent) (s : State) (w : UnitClass × Nat) : State := match w.1 with
  | .s => s.badS who w.2
  | .a => s.badA w.2
  | _ => s.badW w.2

/-! ## HBM_READ (R259) -/

/-- Is HBM in use: trained, and not in self-refresh (R276)? -/
def State.hbmUp (s : State) : Bool := s.hbm.trained && !s.hbm.selfRefresh

/-- Read a range: every code word is checked; data that failed is marked (R259). -/
def State.hbmRead (s : State) (who : Agent) (a n : Nat) (d : Disturb) : State :=
  if memEnd < a + n then s.addressFault who a
  else
    let r := s.checkWords d (s.codeWords a n)
    let s := r.2.foldl (State.badWord who) r.1
    s.emit (.hbmData a (r.1.hbm.read a n) (!r.2.isEmpty))

/-- HBM_READ (R259). -/
def execHbmRead (who : Agent) (a n : Nat) (d : Disturb) (s : State) : Host.Outcome State Fault Refusal :=
  .next (if s.hbmUp then s.hbmRead who a n d else s)

/-! ## HBM_WRITE (R261, R262, R270) -/

/-- May an agent write a unit of a class (R252, R265, R270)? Cells never write W; the parity units are the parity engine's,
and a free unit is kept at zero. -/
def State.mayWrite (s : State) (who : Agent) (a : Nat) : Bool :=
  match s.classAt a with
  | .free => false
  | .w => (who == .hubDma || who == .controlCore) && !isParityUnit (a / stackBytes) (a % stackBytes / 65536)
  | _ => true

/-- The addresses at which a range meets its units. -/
def unitStarts (a n : Nat) : List Nat := (piecesOf a n).map (·.1)

/-- Is a code word written whole? -/
def wholeWord (a n : Nat) (w : UnitClass × Nat) : Bool :=
  let x := wordSpan w
  decide (a ≤ x.1 ∧ x.1 + x.2 ≤ a + n)

/-- The part of a write that falls in a code word: where, and its bytes. -/
def wordPart (a : Nat) (bs : Bytes) (w : UnitClass × Nat) : Nat × Bytes :=
  let x := wordSpan w
  let lo := Nat.max a x.1
  let hi := Nat.min (a + bs.length) (x.1 + x.2)
  (lo, sub bs (lo - a) (hi - lo))

/-- Store bytes into a code word whose check has passed, or that is written whole: fresh check bits (R261). -/
def Hbm.store (h : Hbm) (w : UnitClass × Nat) (a : Nat) (bs : Bytes) : Hbm :=
  let x := wordSpan w
  ({ h with mem := Mem.write h.mem a bs,
            mixed := h.mixed.filter (fun y => !decide (a ≤ y.1 ∧ y.1 < a + bs.length)) } : Hbm).clean x.1 x.2

/-- Poison an A line whose merge found it uncorrectable (R258, R262); W and S words are poisoned by their check. -/
def Hbm.poisonA (h : Hbm) (w : UnitClass × Nat) : Hbm :=
  if w.1 = .a then h.setSide (8 * w.2) (BitVec.ofNat 32 0x00FF0000) else h

/-- Write the part of a write that falls in one S or A word: a partial write reads and merges, and stores nothing into a word
that reads uncorrectable (R261, R262). -/
def State.writeWord (a : Nat) (bs : Bytes) (d : Disturb) (s : State) (w : UnitClass × Nat) : State × List (UnitClass × Nat) :=
  let p := wordPart a bs w
  if wholeWord a bs.length w then ({ s with hbm := s.hbm.store w p.1 p.2 }, [])
  else
    let r := s.checkWord w d
    if r.2.isBad then ({ r.1 with hbm := r.1.hbm.poisonA w }, [w])
    else ({ r.1 with hbm := r.1.hbm.store w p.1 p.2 }, [])

/-- Write the words of a range in order. -/
def State.writeWords (a : Nat) (bs : Bytes) (d : Disturb) : State → List (UnitClass × Nat) → State × List (UnitClass × Nat)
  | s, [] => (s, [])
  | s, w :: ws =>
    let r := s.writeWord a bs d w
    let q := State.writeWords a bs d r.1 ws
    (q.1, r.2 ++ q.2)

/-- Write the part of a write that falls in one W line, under the stripe's parity: old data and parity are read, rebuilt where
they fail and parity can, and both are written; a part of a line that stays uncorrectable is not stored, and the blocks on it
are poisoned (R262, R270). -/
def State.writeW (a : Nat) (bs : Bytes) (d : Disturb) (s : State) (l : Nat) : State :=
  let p := wordPart a bs (.w, l)
  let pl := parityAddr (256 * l) / 256
  let r := s.checkWords d [(.w, l), (.w, pl)]
  let h := (r.1.hbm.mend l).mend pl
  let rebuilt := (r.2.filter (fun w => !h.wBad w.2)).length
  let s : State := { r.1 with
    counters := { r.1.counters with linesRebuilt := satAdd r.1.counters.linesRebuilt rebuilt }, hbm := h.wLine p.1 p.2 }
  if s.hbm.wBad l then s.badW l else s

/-- Write a range (R261, R270). -/
def State.hbmWrite (s : State) (who : Agent) (a : Nat) (bs : Bytes) (d : Disturb) : State :=
  if memEnd < a + bs.length then s.addressFault who a
  else match (unitStarts a bs.length).find? (fun x => !s.mayWrite who x) with
    | some x => s.addressFault who x
    | none =>
      let ws := s.codeWords a bs.length
      let s := (ws.filter (fun w => w.1 == .w)).foldl (fun s w => s.writeW a bs d w.2) s
      let r := State.writeWords a bs d s (ws.filter (fun w => w.1 != .w))
      r.2.foldl (State.badWord who) r.1

/-- HBM_WRITE (R261). -/
def execHbmWrite (who : Agent) (a : Nat) (bs : Bytes) (d : Disturb) (s : State) : Host.Outcome State Fault Refusal :=
  .next (if s.hbmUp then s.hbmWrite who a bs d else s)

/-! ## HBM_NARROW_ACCESS (R265) -/

/-- The agents that use the narrow path, and only they; of the updraft engines, engine 1 (R265). -/
def narrowAgent : Agent → Bool
  | .updraft e => e == 1
  | .sequenceEngine => true
  | .pageManager => true
  | .controlCore => true
  | .roce => true
  | _ => false

/-- Is an address in a unit of class S or A? -/
def State.narrowUnit (s : State) (a : Nat) : Bool := s.classAt a == .s || s.classAt a == .a

/-- Does an address lie in a bulk window of a partition (R294)? -/
def State.inBulk (s : State) (a : Nat) : Bool := decide (a < memEnd ∧ s.bulkFloor ≤ a % stackBytes / 65536)

/-- Does an agent take the narrow path for an access: the RoCE engine takes it for bulk-window writes only (R265)? -/
def State.takesNarrow (s : State) (who : Agent) (a : Nat) (write : Option Bytes) : Bool :=
  narrowAgent who && (who != .roce || (write.isSome && s.inBulk a))

/-- A narrow access of 32 bytes: W and free units are refused (R265). -/
def State.hbmNarrow (s : State) (who : Agent) (a : Nat) (write : Option Bytes) (d : Disturb) : State :=
  if s.takesNarrow who a write = false ∨ a % 32 ≠ 0 then s
  else if memEnd ≤ a ∨ s.narrowUnit a = false then s.addressFault who a
  else match write with
    | none => s.hbmRead who a 32 d
    | some bs => s.hbmWrite who a (bs.take 32) d

/-- HBM_NARROW_ACCESS (R265). -/
def execHbmNarrowAccess (who : Agent) (a : Nat) (write : Option Bytes) (d : Disturb) (s : State) :
    Host.Outcome State Fault Refusal := .next (if s.hbmUp then s.hbmNarrow who a write d else s)

/-! ## HBM_ADD_REQUEST (R266-R268) -/

/-- Bytes of an element slot (R266). -/
def slotBytes : AddType → Nat
  | .int32 => 4
  | .int48 => 8
  | .binary32 => 4
  | .bfloat16 => 2

/-- Is the type a float? -/
def floatAdd : AddType → Bool
  | .binary32 => true
  | .bfloat16 => true
  | _ => false

/-- One lane's sum (R267, R268): the stored element, and whether it counts as overflow or invalid. -/
def laneAdd (ty : AddType) (x y : Nat) : FloatSum :=
  match ty with
  | .int32 => ⟨(x + y) % 2 ^ 32, false, false⟩
  | .int48 => ⟨(x % 2 ^ 48 + y % 2 ^ 48) % 2 ^ 48, false, false⟩
  | .binary32 => FloatFmt.binary32.add x y
  | .bfloat16 => FloatFmt.bfloat16.add x y

/-- What the lanes of one add request do: the 32 bytes stored, and the overflows and invalid sums counted. -/
structure AddOut where
  bytes : Bytes
  overflows : Nat
  invalids : Nat
  deriving DecidableEq, Repr

/-- Has an add of the other kind targeted an element since its last write (R280)? -/
def Hbm.mixes (h : Hbm) (ty : AddType) (a : Nat) : Bool :=
  h.mixed.any (fun x => decide (a ≤ x.1 ∧ x.1 < a + slotBytes ty) && x.2 != floatAdd ty)

/-- Lane `k`'s element after the add; after adds of both kinds it is a free value (R280). -/
def Hbm.lane (h : Hbm) (ty : AddType) (a mask draw : Nat) (ops : Bytes) (k : Nat) : AddOut :=
  let n := slotBytes ty
  let x := h.read (a + n * k) n
  if mask.testBit k = false then ⟨x, 0, 0⟩
  else if h.mixes ty (a + n * k) then ⟨(List.range n).map (fun i => Config.mixedAddByte (32 * draw + n * k + i)), 0, 0⟩
  else
    let r := laneAdd ty (leNat x) (leNat (sub ops (n * k) n))
    ⟨leBytes n r.word, b2n r.overflow, b2n r.invalid⟩

/-- Every lane of a request (R266). -/
def Hbm.lanes (h : Hbm) (ty : AddType) (a mask draw : Nat) (ops : Bytes) : AddOut :=
  let xs := (List.range (32 / slotBytes ty)).map (h.lane ty a mask draw ops)
  ⟨xs.flatMap (·.bytes), sumN (xs.map (·.overflows)), sumN (xs.map (·.invalids))⟩

/-- The bytes of the elements that a request's lanes target. -/
def addTargets (ty : AddType) (a mask : Nat) : List Nat :=
  (List.range (32 / slotBytes ty)).flatMap (fun k => if mask.testBit k then (List.range (slotBytes ty)).map (a + slotBytes ty * k + ·) else [])

/-- Apply the adders to a word whose check passed. -/
def State.addLanes (s : State) (w : UnitClass × Nat) (a : Nat) (ty : AddType) (mask : Nat) (ops : Bytes) : State :=
  let r := s.hbm.lanes ty a mask s.draws ops
  let marks := s.hbm.mixed
  let new := (addTargets ty a mask).map (fun x => (x, floatAdd ty))
  let h := s.hbm.store w a r.bytes
  { s with
    draws := s.draws + 1,
    hbm := { h with mixed := marks ++ new.filter (fun x => !marks.contains x) },
    counters := { s.counters with
      floatOverflow := satAdd s.counters.floatOverflow r.overflows,
      floatInvalid := satAdd s.counters.floatInvalid r.invalids } }

/-- An add request: refused outside S and A; nothing is added into a word that reads uncorrectable (R262, R266). The adders
take the requests of the combine, which hub DMA channels deliver. -/
def State.hbmAdd (s : State) (a : Nat) (ty : AddType) (mask : Nat) (ops : Bytes) (d : Disturb) : State :=
  if a % 32 ≠ 0 then s
  else if memEnd ≤ a ∨ s.narrowUnit a = false then s.addressFault .hubDma a
  else (s.codeWords a 32).foldl (fun s w =>
    let r := s.checkWord w d
    if r.2.isBad then State.badWord .cell { r.1 with hbm := r.1.hbm.poisonA w } w else r.1.addLanes w a ty mask ops) s

/-- HBM_ADD_REQUEST (R266). -/
def execHbmAddRequest (a : Nat) (ty : AddType) (mask : Nat) (ops : Bytes) (d : Disturb) (s : State) :
    Host.Outcome State Fault Refusal := .next (if s.hbmUp then s.hbmAdd a ty mask ops d else s)

/-! ## Rebuilds (R271-R273, R363-R365) -/

/-- Rebuild one W line, where parity can (R271). -/
def State.rebuildLine (s : State) (a : Nat) : State :=
  if s.hbm.rebuildable a then
    { s with hbm := s.hbm.rebuildLine a, counters := { s.counters with linesRebuilt := satInc s.counters.linesRebuilt } }
  else s

/-- LINE_REBUILD (R271): a line of a unit of a W stripe. -/
def execLineRebuild (stripe : Nat) (stack : StackId) (line : Nat) (s : State) : Host.Outcome State Fault Refusal :=
  .next (if s.hbmUp = true ∧ stripe < s.hbm.wStripes ∧ line < 256 then
      s.rebuildLine (stack.val * stackBytes + stripe * 65536 + line * 256) else s)

/-- Set how far a block's repair has come. -/
def State.setPoison (s : State) (b : Block) (x : Poison) : State :=
  { s with blocks := updIf b.same (fun y => { y with poison := x }) s.blocks }

/-- Does a LOAD_WEIGHTS that the module has accepted replace a block? -/
def State.replacing (s : State) (b : Block) : Bool := s.cmds.any (fun c => c.code == 0x11 && !c.sched && c.blocks.any b.same)

/-- The LOAD_WEIGHTS commands that waited for a rebuild commit, where no boundary of the active job is theirs (R343, R374). -/
def State.commitWaiting (s : State) (b : Block) : State :=
  if s.activeUses b.gref then s
  else (s.cmds.filter (fun c => c.code == 0x11 && !c.sched && c.blocks.any b.same)).foldl
    (fun s c => commitLoadWeights c s.now s) s

/-- The repair of a block ends: every line parity can rebuild is rebuilt; a block that then passes its check is whole again,
any other waits for the host (R272, R363, R365); one that an accepted LOAD_WEIGHTS replaces stays poisoned until that commits
(R280, R374). A data section has no check beyond its lines', and its structure kind is 1 (R363). -/
def State.repairBlock (s : State) (g : Graph) (b : Block) : State :=
  let s := (s.hbm.badLines b.addr b.bytes).foldl (fun s l => s.rebuildLine (256 * l)) s
  let e := { event 0x0020 s.now with
    arg0 := g.id, arg1 := if b.isData then 0 else b.desc, arg2 := if b.isData then 0 else b.entry }
  if s.replacing b then (s.setPoison b .refetch).commitWaiting b
  else if (s.hbm.badLines b.addr b.bytes).isEmpty && (b.isData || blockOk b.fmt (s.blockBytes b)) then
    let s := s.setPoison b .clean
    let s : State := { s with counters := { s.counters with blocksRebuilt := satInc s.counters.blocksRebuilt } }
    s.postParts (s.graphReceivers g) e
  else if b.poison = .refetch then s
  else (s.setPoison b .refetch).postPart (partOf g.owner) { e with code := 0x0021, arg3 := b2n b.isData }

/-- BLOCK_REPAIR_DONE (R363); a block that waits for the host is whole again once a later rebuild of its stripes' lines lets it
pass (R273). -/
def execBlockRepairDone (gref desc entry : Nat) (s : State) : Host.Outcome State Fault Refusal :=
  .next (match s.blocks.find? (fun b => b.gref == gref && b.desc == desc && b.entry == entry), s.graph gref with
    | some b, some g => if s.hbmUp = true ∧ b.poison ≠ .clean then s.repairBlock g b else s
    | _, _ => s)

/-! ## SCRUB_VISIT (R274, R275) -/

/-- Lines of a pseudo-channel (R251). -/
def pcLines : Nat := stackUnits * 8

/-- The runs of units of a stack that the scrubber visits, W and S: (first, count), ascending. -/
def State.scrubRuns (s : State) (stack : Nat) : List (Nat × Nat) :=
  ((0, s.hbm.wStripes) :: (s.hbm.ranges.filter (fun r => r.stack == stack && r.cls == .s)).map (fun r => (r.first, r.count))
    ++ [(s.bulkFloor, stackUnits - s.bulkFloor)]).filter (fun x => x.2 != 0)

/-- The first line number of a pseudo-channel at or after `n` that lies in a run. -/
def nextLine (runs : List (Nat × Nat)) (n : Nat) : Option Nat :=
  runs.foldl (fun best r =>
    let lo := Nat.max n (8 * r.1)
    if lo < 8 * (r.1 + r.2) then (match best with | none => some lo | some x => some (Nat.min x lo)) else best) none

/-- The scrubber visits line number `n` of its pseudo-channel: corrected words are written back, uncorrectable ones poisoned
and, in S, posted. -/
def State.scrubLine (s : State) (pc n : Nat) (d : Disturb) : State :=
  let a := pc / 32 * stackBytes + (32 * n + pc % 32) * 256
  let r := s.checkWords d (s.codeWords a 256)
  (r.2.filter (fun w => w.1 == .s)).foldl (fun s w => s.postModule (memoryError s.now 1 (32 * w.2))) r.1

/-- One visit: the next W or S line, from line 0 again after the last (R274). -/
def State.scrubOnce (s : State) (pc : Nat) (d : Disturb) : State :=
  let runs := s.scrubRuns (pc / 32)
  let pos := lookupD 0 pc s.hbm.scrub
  let at_ (s : State) (n : Nat) : State :=
    let s := s.scrubLine pc n d
    { s with hbm := { s.hbm with scrub := assocSet pc (n + 1) s.hbm.scrub, scrubAt := assocSet pc s.now s.hbm.scrubAt } }
  match nextLine runs pos with
  | some n => at_ s n
  | none => match nextLine runs 0 with
    | none => s
    | some n =>
      at_ (if pc = 0 then { s with counters := { s.counters with scrubPasses := satInc s.counters.scrubPasses } } else s) n

/-- Is a visit due: scrubbing on, in Active or Lull, SCRUB_INTERVAL after the visit before (R274, R275)? -/
def State.scrubDue (s : State) (pc : Nat) : Bool :=
  s.ready && s.hbmUp && (s.power.state == .active || s.power.state == .lull) && s.cfg.scrubInterval != 0
    && decide (lookupD 0 pc s.hbm.scrubAt + s.cfg.scrubInterval ≤ s.now)

/-- SCRUB_VISIT (R274). -/
def execScrubVisit (pc : PseudoChannel) (t : Nat) (d : Disturb) (s : State) : Host.Outcome State Fault Refusal :=
  .next (let s := advance t s; if s.scrubDue pc.val then s.scrubOnce pc.val d else s)

/-! ## The traffic generators (R278, R279) -/

/-- A channel's generator block. -/
def Hbm.gen (h : Hbm) (c : Nat) : Gen := lookupD Gen.reset c h.gens

/-- Change a channel's generator block. -/
def State.updGen (s : State) (c : Nat) (f : Gen → Gen) : State :=
  { s with hbm := { s.hbm with gens := assocSet c (f (s.hbm.gen c)) s.hbm.gens } }

/-- Do the fields allow a start (R279)? -/
def Gen.valid (g : Gen) : Bool :=
  decide (g.pattern.toNat ≤ 4 ∧ g.op.toNat ≤ 2 ∧ g.pcMask ≠ 0 ∧ g.first.toNat ≤ g.last.toNat ∧ g.last.toNat < stackUnits
    ∧ (g.pattern ≠ 0 ∨ g.seed ≠ 0))

/-- Is every unit of a range free on a stack: no block stands or is staged there, and no job has units there (R278)? -/
def State.unitsFree (s : State) (stack first last : Nat) : Bool :=
  decide (Nat.max s.hbm.wStripes (wUnitsOf s.allBlocks) ≤ first ∧ last < s.bulkFloor)
    && s.hbm.ranges.all (fun r => r.stack != stack || decide (last < r.first ∨ r.first + r.count ≤ first))

/-- The 32 bytes of a run's pattern at a burst (R279). What PRBS31 gives byte by byte is a free value: its bit order is not
stated. -/
def GenRun.burst (r : GenRun) (a : Nat) : Bytes :=
  match r.pattern with
  | 0 => (List.range 32).map (fun i => Config.prbsByte r.seed (a + i))
  | 1 => (List.range 4).flatMap (fun k => leBytes 8 (a + 8 * k))
  | 2 => (List.range 8).flatMap (fun k => leBytes 4 (2 ^ ((a / 4 + k) % 32)))
  | 3 => (List.range 8).flatMap (fun _ => leBytes 4 r.seed)
  | _ => List.replicate 32 (if a / 32 % 2 = 0 then 0x55 else 0xAA)

/-- The lines of a run's range on a channel, ascending (R251, R279). -/
def GenRun.linesOn (r : GenRun) (c : Nat) : List Nat :=
  (List.range' r.first (r.last + 1 - r.first)).flatMap (fun u =>
    ((List.range 256).filter (fun k => decide (k % 32 / 2 = c % 16) && r.pcMask.getLsbD (k % 2))).map (fun k =>
      c / 16 * (stackBytes / 256) + 256 * u + k))

/-- The bursts of a run, ascending. -/
def GenRun.bursts (r : GenRun) (c : Nat) : List Nat := (r.linesOn c).flatMap (fun l => (List.range 8).map (fun b => 256 * l + 32 * b))

/-- What a run writes: the pattern on every line of its range, with valid encoding (R278, R279). -/
def Hbm.fillGen (h : Hbm) (r : GenRun) (c : Nat) : Hbm :=
  if r.op = 2 then h
  else (r.linesOn c).foldl (fun h l => ({ h with
    mem := Mem.write h.mem (256 * l) ((List.range 8).flatMap (fun b => r.burst (256 * l + 32 * b))) } : Hbm).clean (256 * l) 256) h

/-- The bursts of a run that do not hold its pattern (R279). -/
def Hbm.misses (h : Hbm) (r : GenRun) (c : Nat) : List Nat := (r.bursts c).filter (fun a => h.read a 32 != r.burst a)

/-- The data lanes that a burst fails on: bit n of each 4-byte word is lane n of its pseudo-channel, whose lanes follow those of
pseudo-channel 0 (R279; DESIGN CHOICE, notes/assumptions/52.md). -/
def Hbm.missLanes (h : Hbm) (r : GenRun) (a : Nat) : BitVec 64 :=
  (List.range 8).foldl (fun m k =>
    m ||| BitVec.ofNat 64 (2 ^ (32 * (a / 256 % 2)) * (u32 (h.read a 32) (4 * k) ^^^ u32 (r.burst a) (4 * k)))) 0

/-- The fields of a block as a run takes them (R279). -/
def Gen.toRun (g : Gen) : GenRun :=
  ⟨g.pattern.toNat, g.op.toNat, g.pcMask, g.loops.toNat, g.first.toNat, g.last.toNat, g.seed.toNat⟩

/-- May a generator run over any units: in the start-up self-test and in recovery mode (R278)? -/
def State.testsAll (s : State) : Bool := s.fw.recovery || s.board.bootStage == 3

/-- Start a channel's generator: over free units, or over any in the self-test and in recovery mode; else refused. The whole range
holds the pattern from then on (R278, R279). -/
def State.startGen (s : State) (c : ChannelId) : State :=
  let g := s.hbm.gen c.val
  if g.status = 1 ∨ (s.ready = false ∧ s.testsAll = false) ∨ s.hbm.selfRefresh = true then s
  else if g.valid = true ∧ (s.testsAll = true ∨ s.unitsFree (c.val / 16) g.first.toNat g.last.toNat = true) then
    let r := g.toRun
    (({ s with hbm := s.hbm.fillGen r c.val } : State).updGen c.val (fun g => { g with
      status := 1, stopping := false, run := some r, errors := 0, bursts := 0, firstFail := 0, dqFail := 0, sideFail := 0 })).testMode true
  else s.updGen c.val (fun g => { g with status := 4 })

/-- GENERATOR_START (R278). -/
def execGeneratorStart (c : ChannelId) (s : State) : Host.Outcome State Fault Refusal := .next (s.startGen c)

/-- Stop a channel's generator: the run ends when its accesses do (R279). -/
def State.stopGen (s : State) (c : ChannelId) : State :=
  if (s.hbm.gen c.val).status = 1 then s.updGen c.val (fun g => { g with stopping := true }) else s

/-- GENERATOR_STOP (R279). -/
def execGeneratorStop (c : ChannelId) (s : State) : Host.Outcome State Fault Refusal := .next (s.stopGen c)

/-- What a run's checks have found on a channel: bursts checked, bursts in error, the first of them, failed data and side lanes. -/
structure GenFound where
  bursts : Nat
  errors : Nat
  firstFail : Nat
  dqFail : BitVec 64
  sideFail : BitVec 8
  deriving DecidableEq, Repr

/-- What a run reports (R279): a write-only run checks nothing; a run that is not stopped checks its range once a pass; what the
memory does not hold as written fails beside what failed on the way. -/
def Hbm.found (h : Hbm) (r : GenRun) (c : Nat) (stopped : Bool) (x : GenFound) : GenFound :=
  if r.op = 1 then ⟨0, 0, 0, 0, 0⟩
  else
    let n := if stopped then x.bursts else r.loops * (r.bursts c).length
    let miss := h.misses r c
    let errors := Nat.min n (x.errors + miss.length)
    if errors = 0 then ⟨n, 0, 0, 0, 0⟩
    else
      ⟨n, errors, (match miss with
        | [] => x.firstFail
        | a :: _ => if x.errors = 0 then a else Nat.min a x.firstFail),
       miss.foldl (fun m a => m ||| h.missLanes r a) x.dqFail, x.sideFail⟩

/-- A run ends: its results stand, and what it wrote is cleared (R278, R279). -/
def State.endGen (s : State) (c : ChannelId) (r : GenRun) (stopped : Bool) (x : GenFound) : State :=
  let y := s.hbm.found r c.val stopped x
  let s : State := { s with hbm := s.hbm.clearRun r c.val }
  let s := s.updGen c.val (fun g => { g with
    status := if y.errors = 0 then 2 else 3, stopping := false, bursts := satAdd 0 y.bursts, errors := satAdd 0 y.errors,
    firstFail := BitVec.ofNat 48 y.firstFail, dqFail := y.dqFail, sideFail := y.sideFail })
  if s.generating then s else s.testMode false

/-- GENERATOR_RUN_DONE (R278, R279): LOOPS 0 runs until stopped. -/
def execGeneratorRunDone (c : ChannelId) (bursts errors firstFail : Nat) (dqFail : BitVec 64) (sideFail : BitVec 8)
    (s : State) : Host.Outcome State Fault Refusal :=
  .next (
    let g := s.hbm.gen c.val
    match g.run with
    | none => s
    | some r =>
      if g.status = 1 ∧ (r.loops ≠ 0 ∨ g.stopping = true) then s.endGen c r g.stopping ⟨bursts, errors, firstFail, dqFail, sideFail⟩
      else s)

end Sys2Proof.Machine
end

