-- ==== Sys2Proof/Machine/Scratch.lean ====
section
/-! DEFINITION. What a cell works on: the step that it runs, what it holds of the step's work, and the lines of its scratchpad with
the codes that guard them (R16-R29, R83, R84, R89-R92, R102, R190, R260). -/
namespace Sys2Proof.Machine

/-! ## Changing a cell -/

/-- Change one cell at TIME, stamping STATE_TIME when its STATE changes (R111). -/
def State.onCell (s : State) (n : CellId) (f : Cell → Cell) : State :=
  s.updCell n (fun c => let c' := f c; if c'.stateCode = c.stateCode then c' else { c' with stateTime := s.now })

/-- Change one region of a cell. -/
def Cell.updRegion (c : Cell) (r : RegionId) (f : Region → Region) : Cell :=
  { c with regions := c.regions.set r.val (f c.regions[r.val]) r.isLt }

/-- Kill the step of the job that a cell serves. -/
def State.killCell (s : State) (n : CellId) (cause : Nat) : State :=
  match s.cells[n].job with
  | none => s
  | some h => s.killStep h cause true

/-- An event that names a cell, its job and its step. -/
def State.cellEvent (s : State) (code : Nat) (n : CellId) : Event :=
  { event code s.now with cell := n.val, job := s.cells[n].job.getD 0, step := s.cells[n].step.toNat }

/-- Post an event to the partition whose job a cell serves. -/
def State.postCell (s : State) (n : CellId) (e : Event) : State :=
  match s.cellPart n.val with
  | none => s
  | some p => s.postPart p e

/-- An uncorrectable word of a cell: class 3 scratchpad, 4 accumulator memory (R357, R369). -/
def State.cellMemory (s : State) (n : CellId) (cls addr : Nat) : State :=
  let s : State := { s with counters := { s.counters with cellUncorrectable := satInc s.counters.cellUncorrectable } }
  let e := { s.cellEvent 0x0014 n with arg0 := addr, arg1 := cls }
  (s.killCell n 3).postModule e

/-- Count corrected words of a cell (R371). -/
def State.cellFixed (s : State) (k : Nat) : State :=
  { s with counters := { s.counters with cellCorrected := satAdd s.counters.cellCorrected k } }

/-- Does a cell run work: RUNNING, not trapped (R112, R359)? -/
def Cell.works (c : Cell) : Bool := c.base == .running && !c.trapped

/-! ## The codes of the scratchpad (R260) -/

/-- The 1 bits of a number below 2^72. -/
def ones (x : Nat) : Nat := ((List.range 72).filter x.testBit).length

/-- The mask that an upset gives byte `i` of its line. -/
def upsetByte (u : Upset) (i : Nat) : Byte := (u.data.filter (fun x => x.1 == i)).foldl (fun m x => m ^^^ x.2) 0

/-- The mask that an upset gives the check bits of word `k` of its line. -/
def upsetCheck (u : Upset) (k : Nat) : Byte := (u.check.filter (fun x => x.1 == k)).foldl (fun m x => m ^^^ x.2) 0

/-- What the checkers make of a line: its bytes from then on, how many words were corrected, and the first word that stays bad. -/
structure LineCheck where
  data : Bytes
  fixed : Nat
  bad : Option Nat
  deriving DecidableEq, Repr

/-- One SEC-DED word of a WEIGHT line: a single bit is corrected, two are detected (R260). -/
def checkSecDed (data : Bytes) (flips : Bytes) (check : Byte) : Bytes × Nat × Bool :=
  let m := leNat flips
  match ones m + ones check.toNat with
  | 0 => (data, 0, false)
  | 1 => (data, 1, false)
  | 2 => (data, 0, true)
  | _ => match Config.secDed m check.toNat with
    | none => (data, 0, true)
    | some x => (leBytes 8 (leNat data ^^^ m ^^^ x.1 % 2 ^ 64), b2n x.2, false)

/-- One word of any other line: even parity on each byte (R260). -/
def checkParity (data : Bytes) (flips : Bytes) (check : Byte) : Bytes × Nat × Bool :=
  if (List.range 8).any (fun i => (ones (flips.getD i 0).toNat + b2n (check.getLsbD i)) % 2 == 1) then (data, 0, true)
  else (List.zipWith (· ^^^ ·) data flips, 0, false)

/-- Check a line of a region of a KIND after an upset (R260). -/
def checkLine (kind : Nat) (u : Upset) (line : Bytes) : LineCheck :=
  (List.range 8).foldl (fun r k =>
    let flips := (List.range' (8 * k) 8).map (upsetByte u)
    let x := (if kind = 1 then checkSecDed else checkParity) (sub line (8 * k) 8) flips (upsetCheck u k)
    ⟨r.data ++ x.1, r.fixed + x.2.1, if x.2.2 then r.bad.or (some k) else r.bad⟩) ⟨[], 0, none⟩

/-! ## Lines (R89-R92, R102) -/

/-- Lines of a region: SIZE_M1 + 1 (R89). -/
def Region.size (r : Region) : Nat := r.sizeM1.toNat + 1

/-- The scratchpad byte address of the i-th line from TAIL (R90). -/
def Region.lineAddr (r : Region) (i : Nat) : Nat := 64 * (r.base.toNat + (r.tail.toNat + i) % r.size)

/-- May the i-th line from TAIL be used in a step: an arrival wait has completed at a count that covers it, and it is not one of
a later step (R92, R102)? -/
def Region.usable (r : Region) (step : BitVec 32) (i : Nat) : Bool :=
  match r.lines[i]?, r.waited with
  | some x, some n => decide (r.arrived.toNat + i + 1 ≤ n + r.lines.length) && x.step != step + 1
  | _, _ => false

/-- Where a line stands: a region, and its place from TAIL. -/
abbrev LineAt := RegionId × Nat

/-- The usable line of a WEIGHT region that was fetched from an HBM address for the cell's step (R84, R98). -/
def Cell.weightLine (c : Cell) (addr : Nat) : Option LineAt :=
  (List.finRange 16).findSome? (fun r =>
    let x := c.regions[r]
    if x.kind = 1 then
      ((x.lines.findIdx? (fun l => l.src == some addr && l.step == c.step)).filter (x.usable c.step)).map (fun i => (r, i))
    else none)

/-- The bytes of a line. -/
def Cell.lineData (c : Cell) (x : LineAt) : Bytes := (c.regions[x.1].lines[x.2]?).elim [] (·.data)

/-- Check one line after an upset: the line as it stands from then on, the corrected words, and the address of a word that stays
bad. -/
def Cell.checkAt (x : LineAt) (u : Upset) (c : Cell) : Cell × Nat × Option Nat :=
  let r := c.regions[x.1]
  let k := checkLine r.kind u (c.lineData x)
  (c.updRegion x.1 (fun r => { r with lines := r.lines.modify x.2 (fun l => { l with data := k.data }) }), k.fixed,
   k.bad.map (fun w => r.lineAddr x.2 + 8 * w))

/-- Check several lines in order. -/
def Cell.checkAll : List (LineAt × Upset) → Cell → Cell × Nat × Option Nat
  | [], c => (c, 0, none)
  | x :: xs, c =>
    let a := c.checkAt x.1 x.2
    let b := Cell.checkAll xs a.1
    (b.1, a.2.1 + b.2.1, a.2.2.or b.2.2)

/-! ## Weights as a lane group reads them (R16-R26, R172, R178) -/

/-- The bytes of a block from an offset, from the lines that a cell holds of it. -/
def Cell.weightBytes (c : Cell) (b : Block) (off n : Nat) : Option Bytes :=
  let first := off / 64
  (allSome ((List.range' first ((off + n - 1) / 64 + 1 - first)).map (fun i => c.weightLine (b.addr + 64 * i)))).map
    (fun ls => sub (ls.flatMap c.lineData) (off - 64 * first) n)

/-- What a lane group reads of a block for one pass, or for one 64-input group of a wide block: Trit5 rows, an empty one for a row
that retires nothing; the lane records of a sparse pass; or each wide row's group scale and codes. -/
inductive LaneWeights where
  | trit5 (rows : List Bytes)
  | sparse (blk : Bytes) (recs : List LaneRec)
  | wide (rows : List (Nat × List Int))
  deriving DecidableEq, Repr

/-- Fields of `n` bits of a byte string, as two's complement. -/
def signedFields (n : Nat) (bs : Bytes) : List Int :=
  bs.flatMap (fun b => (List.range (8 / n)).map (fun k => toSigned n (fld b.toNat (n * k) n)))

/-- Codes `lo` … `lo + k - 1` of a row of a wide block with `n`-bit codes (R26). -/
def Cell.wideCodes (c : Cell) (b : Block) (n r lo k : Nat) : Option (List Int) :=
  (c.weightBytes b (0x1000 + 128 * n * r + n * lo / 8) (n * k / 8)).map (signedFields n)

/-- Bits of a code of a wide format. -/
def WFmt.codeBits : WFmt → Nat
  | .wide4 => 4
  | _ => 2

/-- The rows of a lane group's own outputs. -/
def ownLanes (l : LaneGroup) : List Nat := List.range' (32 * l.val) 32

/-- What a lane group reads for a pass and a plane, from the lines its cell holds; none while some line is missing. Rows that
retire nothing are not read (R176, R178). -/
def Cell.laneWeights (c : Cell) (b : Block) (l : LaneGroup) (pass group : Nat) (on : Nat → Bool) : Option LaneWeights :=
  match b.fmt with
  | .trit5 => (allSome ((ownLanes l).map (fun r => if on r then c.weightBytes b (205 * r) 205 else some []))).map .trit5
  | .sparse => (c.weightBytes b 0 (64 * b.lines)).map (fun blk =>
      .sparse blk (((sparseLanes blk).drop (256 * pass + 32 * l.val)).take 32))
  | f => (allSome ((ownLanes l).map (fun r =>
      if on r then
        match c.weightBytes b (16 * r + group) 1, c.wideCodes b f.codeBits r (64 * group) 64 with
        | some g, some cs => some (u8 g 0, cs)
        | _, _ => none
      else some (0, [])))).map .wide

/-- The exact weights of one row of a block over its 1,024 inputs, from the lines that a cell holds (R16, R23, R25). -/
def Cell.rowWeights (c : Cell) (b : Block) (r : Nat) : Option (List Int) :=
  match b.fmt with
  | .trit5 => (c.weightBytes b (205 * r) 205).map trit5Row
  | .sparse => (c.weightBytes b 0 (64 * b.lines)).map (fun blk => sparseRow (sparseLanes blk) r)
  | f => match c.weightBytes b (16 * r) 16, c.wideCodes b f.codeBits r 0 1024 with
    | some gs, some cs => some (List.zipWith (· * ·) (gs.flatMap (fun g => List.replicate 64 (g.toNat : Int))) cs)
    | _, _ => none

/-! ## Activations in plane form (R28, R29) -/

/-- The 1,024 codes of a vector at a width that stands in plane form in a region from a line on; none while some line of it may not
be used (R29, R92). -/
def Cell.vector (c : Cell) (r : RegionId) (line w : Nat) : Option (List Nat) :=
  let x := c.regions[r]
  if x.kind ≠ 1 ∧ (List.range' line (2 * w)).all (x.usable c.step) = true then
    let planes := (List.range w).map (fun p => leNat (c.lineData (r, line + 2 * p) ++ c.lineData (r, line + 2 * p + 1)))
    some ((List.range 1024).map (fun i => planes.zipIdx.foldl (fun v p => if p.1.testBit i then v + 2 ^ p.2 else v) 0))
  else none

/-- The planes of up to 256 elements of an output block, 32 bytes each, plane 0 first: a quarter of R29's vector. -/
def quarterPlanes (w : Nat) (ys : List Int) : List Bytes :=
  (List.range w).map (fun p => leBytes 32 (plane (ys.map (actCode w)) p))

/-! ## The work of a step in a cell (R81, R83, R157, R190) -/

/-- The step that a cell runs: its job, the step, the cell's stage, and what the step reads. -/
structure Work where
  job : Job
  step : Step
  stage : Stage
  ctx : Ctx
  deriving DecidableEq, Repr

/-- The work of a cell, while its job's step runs there. -/
def State.work (s : State) (n : CellId) : Option Work :=
  match s.cells[n].job with
  | none => none
  | some h => match s.job h with
    | none => none
    | some j => match j.step, j.layout.stages.find? (fun x => x.cells.contains n.val) with
      | some x, some st =>
        if x.phase = .running ∧ x.number = s.cells[n].step then some ⟨j, x, st, stepCtx j x s.draws⟩ else none
      | _, _ => none

/-- The descriptors of the graph that a step runs. -/
def Work.descs (w : Work) : List Desc := w.step.env.graph.descs

/-- The step's evaluation as far as it has come (R103). -/
def Work.pass (w : Work) : Pass := evalRun w.ctx w.step.lens w.step.isDraft w.step.toks

/-- Does a routing record keep an expert (R186)? -/
def keepsExpert (e : Nat) (r : Bytes) : Bool := (List.range (u8 r 2 % 32)).any (fun k => u16 r (32 + 4 * k) == e + 1024)

/-- The work-list indices that the stage of a descriptor takes, or that an expert of a routed bank does, in order; none while the
routing is not known (R83, R190). -/
def Work.tokens (w : Work) (di : Nat) (d : Desc) (e : Nat) : Option (List Nat) :=
  if d.routed then
    let p := w.pass
    if p.unions.any (fun u => u.desc == di && u.expert == e) then
      (producerOf w.descs di d.srcB).map (fun x =>
        sortBy (fun a b => decide (a ≤ b)) ((p.records.filter (fun r => r.1 == x.1 && keepsExpert e r.2.2)).map (fun r => r.2.1)))
    else none
  else some (List.range w.step.toks.length)

/-- Token tiles of some work (R83). -/
def tilesOf (n : Nat) : Nat := ceilDiv n 16

/-- What a cell holds of the step's work, in descriptor order (R153, R157). -/
def Work.held (w : Work) (cell : Nat) : List Held := w.step.env.graph.heldBy w.ctx.n w.ctx.rank w.stage cell

/-- The key of a token tile's work on what a cell holds. -/
def Held.key (h : Held) (tile : Nat) : GroupKey := ⟨h.desc, h.row.e, h.row.j, h.row.ob, tile⟩

/-- A run of input blocks of an output block, as the cell keeps count of its tiles: descriptor, expert, matrix, output block and
first input block. -/
def Held.run (h : Held) : List Nat := [h.desc, h.row.e, h.row.j, h.row.ob, h.first]

/-- Has a cell opened every token tile of what it holds of one output block, and released it (R84, R178)? -/
def Cell.finished (c : Cell) (w : Work) (h : Held) : Bool :=
  match w.descs[h.desc]? with
  | none => true
  | some d => match w.tokens h.desc d h.row.e with
    | none => false
    | some xs => decide (tilesOf xs.length = 0 ∨ lookupD 0 h.run c.opened = tilesOf xs.length)
        && !c.groups.any (fun g => { g.tag.key with toks := 0 } == h.key 0)

/-- Is the work of a cell in the step done: everything it holds finished, and no opening waits (R112)? Cells that hold no weights
end with the step. -/
def Cell.workDone (c : Cell) (w : Work) (n : Nat) : Bool :=
  let hs := w.held n
  !hs.isEmpty && c.groups.isEmpty && c.waitOpen.isNone && hs.all (c.finished w)

end Sys2Proof.Machine
end

