-- ==== Sys2Proof/Machine/Array.lean ====
section
/-! DEFINITION. The ternary array of a cell: accumulation groups, plane steps, retirement, the requantiser, and the die-local
reduction trees (R48-R68, R78-R80, R83-R88, R105-R110, R172, R176). -/
namespace Sys2Proof.Machine

/-! ## Positions (R52) -/

/-- The chunk of a position. -/
def tagChunk (t : GroupTag) (p : PartialPos) : Option ChunkTag :=
  match t.windows[p.window]? with
  | none => none
  | some w => w[p.chunk]?

/-- The width of a chunk for a token slot; 0 for a column that the array's decoder reads (R78, R123). -/
def ChunkTag.width (c : ChunkTag) (slot : Nat) : Nat := c.widths.getD slot 0

/-- Passes of a chunk: a sparse block has one to three (R20). -/
def chunkPasses (c : ChunkTag) (slot : Nat) : Nat :=
  if c.width slot = 0 then 1 else match c.kind with | .sparse n => n | _ => 1

/-- Partials of a pass: one for each plane, or one for each 64-input group of a wide chunk; one for a decoded column (R48,
R56, R153). -/
def chunkPlanes (c : ChunkTag) (slot : Nat) : Nat :=
  if c.width slot = 0 then 1 else match c.kind with | .wide => 16 | _ => c.width slot

/-- Is a position one of the tag's? -/
def posIn (t : GroupTag) (p : PartialPos) : Bool :=
  match tagChunk t p with
  | none => false
  | some c => decide (p.slot < t.index.length ∧ p.pass < chunkPasses c p.slot ∧ p.plane < chunkPlanes c p.slot)

/-- The position after one, in the order of retirement: window, token slot, chunk, pass, plane (R52, R55). -/
def nextPos (t : GroupTag) (p : PartialPos) : Option PartialPos :=
  match tagChunk t p with
  | none => none
  | some c =>
    if p.plane + 1 < chunkPlanes c p.slot then some { p with plane := p.plane + 1 }
    else if p.pass + 1 < chunkPasses c p.slot then some { p with pass := p.pass + 1, plane := 0 }
    else if p.chunk + 1 < (t.windows.getD p.window []).length then some { p with chunk := p.chunk + 1, pass := 0, plane := 0 }
    else if p.slot + 1 < t.index.length then some { p with slot := p.slot + 1, chunk := 0, pass := 0, plane := 0 }
    else if p.window + 1 < t.windows.length then some ⟨p.window + 1, 0, 0, 0, 0⟩
    else none

/-- A position as a list of numbers that compare in the order of retirement. -/
def posKey (p : PartialPos) : List Nat := [p.window, p.slot, p.chunk, p.pass, p.plane]

/-- The first position of a group. -/
def firstPos (t : GroupTag) : Option PartialPos := if posIn t ⟨0, 0, 0, 0, 0⟩ then some ⟨0, 0, 0, 0, 0⟩ else none

/-- Is a position the last of its chunk? -/
def endsChunk (c : ChunkTag) (p : PartialPos) : Bool :=
  p.pass + 1 == chunkPasses c p.slot && p.plane + 1 == chunkPlanes c p.slot

/-! ## The tag of a group (R78, R83, R105, R153) -/

/-- Which leaf of an output block some promotion windows cover, of how many on this rank: one that the cell holds whole; a decoded
row of EMBED is no leaf of a sum (R153). -/
def Work.leafOf (w : Work) (cell : Nat) (d : Desc) (x : OpenIn) : Option (Held × Nat × Nat) :=
  ((w.held cell).find? (fun h =>
    h.desc == x.desc && h.row.e == x.expert && h.row.j == x.matrix && h.row.ob == x.block
      && x.windows.flatten == List.range' h.first h.count && x.windows.all (fun ib => !ib.isEmpty))).map (fun h =>
    let ls := d.leafRuns h.row
    (h, ls.findIdx (· == (h.first, h.count)), ls.length))

/-- The form of a block's chunks (R54-R56). -/
def State.chunkKind (s : State) (b : Block) : ChunkKind :=
  match b.fmt with
  | .trit5 => .trit5
  | .sparse => .sparse (Nat.max 1 (Nat.min 3 (u8 (s.hbm.read b.addr 2) 1)))
  | _ => .wide

/-- One chunk of a group: its input block's form and its width for each sequence (R78). -/
def State.chunkTag (s : State) (w : Work) (d : Desc) (x : OpenIn) (seqs : List Nat) (ib : Nat) : Option ChunkTag :=
  let entry := d.entryOf x.expert x.matrix x.block ib
  (s.blocks.find? (fun b => b.gref == w.step.env.graph.gref && b.desc == x.desc && b.entry == entry)).map (fun b =>
    ⟨s.chunkKind b, ib, entry,
     seqs.map (fun q => if d.opcode = 1 then 0 else w.ctx.inWidth x.desc d x.matrix q ib)⟩)

/-- Is matrix j one whose output is the descriptor's: every one but those inside an expert (R135, R190, R191)? -/
def Desc.outputs (d : Desc) (j : Nat) : Bool := d.opcode != 8 || (j == 2 && !d.routed)

/-- Lsh of matrix j: COMBINE_LSH for the down rows of a routed bank; the predictor's sums are compared unshifted (R175, R191). -/
def Work.lshOf (w : Work) (di : Nat) (d : Desc) (j : Nat) : Nat :=
  if j = 2 ∧ d.routed = true then
    match producerOf w.descs di d.srcB with
    | some x => (match x.2.par with | .route _ _ _ _ _ _ _ cl => cl | _ => d.lsh)
    | none => d.lsh
  else d.lsh

/-- The width of an output block for a sequence: as the descriptor writes it; 1 for the predictor's layers; 16 inside an expert
(R66, R121, R133, R175, R191). -/
def Work.outWidth (w : Work) (di : Nat) (d : Desc) (j ob seq : Nat) : Nat :=
  if d.outputs j then (if d.outW = 31 ∨ d.outW = 16 then d.outW else w.ctx.widthOf di d seq (ob / 4))
  else if j = 3 ∨ j = 4 then 1 else 16

/-- The rows of an output block that retire for a token: those predicted active, where the predictor decides (R176). -/
def Work.rowsFor (u : Option Union) (ob token : Nat) : Option (List Nat) :=
  u.bind (fun u => (u.on.find? (fun x => x.1 == token)).map (fun x =>
    (x.2.filter (fun r => decide (256 * ob ≤ r ∧ r < 256 * ob + 256))).map (· - 256 * ob)))

/-- The tag of a group over the tokens of its tile (R78). -/
def Work.makeTag (w : Work) (d : Desc) (x : OpenIn) (leaf leaves : Nat) (u : Option Union) (toks : List (Nat × Tok))
    (windows : List (List ChunkTag)) : GroupTag :=
  let outs := d.outputs x.matrix
  let lsh := w.lshOf x.desc d x.matrix
  let across := d.opcode == 8 && !d.routed && x.matrix == 2 && decide (1 < w.ctx.n)
  { key := ⟨x.desc, x.expert, x.matrix, x.block, x.tile⟩
    leaf := leaf
    leaves := leaves
    tree := across || decide (1 < leaves)
    across := across
    windows := windows
    outWs := toks.map (fun t => w.outWidth x.desc d x.matrix x.block t.2.seq)
    tscale := outs && d.tscale
    lsh := if x.matrix = 3 ∨ x.matrix = 4 then 0 else lsh
    scales := d.obScales x.expert x.matrix x.block
    tokWords := toks.map (fun t => if outs && d.outW != 31 then (w.ctx.scaleFor x.desc d t.2.seq).1 else tokOne)
    shifts := toks.map (fun t =>
      d.shiftOf (if outs then (w.ctx.scaleFor x.desc d t.2.seq).2 else headroom d.initMax) lsh x.expert x.matrix x.block)
    index := toks.map (·.1)
    seqIds := toks.map (·.2.seq)
    positions := toks.map (·.2.pos)
    stochastic := outs && d.round == 1
    more := d.opcode == 8 && !d.routed && x.matrix == 2 && decide (x.expert + 1 < d.copies)
    rows := toks.map (fun t => Work.rowsFor u x.block t.1) }

/-- What the predictor lets a group's rows be: nothing to ask for a matrix it does not select; none while its pass has not come
to the expert (R176, R178). -/
def Work.selected (w : Work) (d : Desc) (x : OpenIn) : Option (Option Union) :=
  if d.predicts && decide (x.matrix ≤ 1) then
    (w.pass.unions.find? (fun u => u.desc == x.desc && u.expert == x.expert)).map some
  else some none

/-- The group that an opening instruction names, on the next token tile of that work in ascending order (R78, R83): where its
count of tiles stands, and its tag. -/
def State.groupTag (s : State) (w : Work) (n : CellId) (x : OpenIn) : Option (List Nat × GroupTag) :=
  match w.descs[x.desc]? with
  | none => none
  | some d => match w.leafOf n.val d x with
    | none => none
    | some h =>
      if lookupD 0 h.1.run s.cells[n].opened ≠ x.tile then none
      else match w.tokens x.desc d x.expert, w.selected d x with
        | some all, some u =>
          let toks := ((all.drop (16 * x.tile)).take 16).filterMap (fun i => (w.step.toks[i]?).map (fun t => (i, t)))
          if toks = [] then none
          else (allSome (x.windows.map (fun ibs => allSome (ibs.map (s.chunkTag w d x (toks.map (·.2.seq))))))).map
            (fun ws => (h.1.run, w.makeTag d x h.2.1 h.2.2 u toks ws))
        | _, _ => none

/-! ## GROUP_OPEN (R78, R80, R86-R88) -/

/-- A group as it opens: its tile cleared (R87). -/
def Group.fresh (tile : TileId) (pass : Nat) (t : GroupTag) : Group where
  tile := tile
  pass := pass
  tag := t
  wide := []
  reorder := Vector.replicate 8 []
  waiting := Vector.replicate 8 none
  next := Vector.replicate 8 (firstPos t)
  clamped := []

/-- The tile of the next group of a pass: tb + (k mod tc) (R86). -/
def Cell.nextTile (c : Cell) (pass tb tc : Nat) : TileId :=
  Fin.ofNat 64 (tb + lookupD 0 pass c.passK % Nat.max 1 tc)

/-- Does an unreleased group hold a tile? -/
def Cell.tileHeld (c : Cell) (t : TileId) : Bool := c.groups.any (fun g => g.tile == t)

/-- Open a group on a free tile (R86, R87). -/
def Cell.startGroup (pass : Nat) (tile : TileId) (t : GroupTag) (c : Cell) : Cell :=
  { c with
    groups := c.groups ++ [Group.fresh tile pass t],
    tiles := c.tiles.filter (fun x => x.1 != tile.val),
    passK := assocSet pass (lookupD 0 pass c.passK + 1) c.passK,
    pass := some pass, waitOpen := none }

/-- Open a group on its tile, or wait for the tile's release with the tag (R80, R86). -/
def Cell.openGroup (pass tb tc : Nat) (run : List Nat) (t : GroupTag) (c : Cell) : Cell :=
  let tile := c.nextTile pass tb tc
  let c := { c with opened := assocSet run (t.key.toks + 1) c.opened }
  if c.tileHeld tile then { c with waitOpen := some (pass, tile, t), pass := some pass } else c.startGroup pass tile t

/-- GROUP_OPEN (R80); a cell whose sequencer waits opens nothing more. -/
def execGroupOpen (n : CellId) (pass tb tc : Nat) (x : OpenIn) (s : State) : Host.Outcome State Fault Refusal :=
  .next (
    if s.cells[n].works = false ∨ s.cells[n].waitOpen.isSome = true then s
    else match s.work n with
      | none => s
      | some w => match s.groupTag w n x with
        | none => s
        | some t => s.onCell n (Cell.openGroup pass tb tc t.1 t.2))

/-! ## PLANE_STEP (R48-R52, R56, R172, R176) -/

/-- Change the group on a tile. -/
def Cell.updGroup (c : Cell) (t : TileId) (f : Group → Group) : Cell :=
  { c with groups := updIf (fun g => g.tile == t) f c.groups }

/-- The group on a tile. -/
def Cell.group (c : Cell) (t : TileId) : Option Group := c.groups.find? (fun g => g.tile == t)

/-- Does a row of a group retire for a token slot (R176)? -/
def GroupTag.rowOn (t : GroupTag) (slot r : Nat) : Bool :=
  match t.rows.getD slot none with
  | none => true
  | some rs => rs.contains r

/-- A lane's ternary weights as (input, weight) pairs: a Trit5 row, or a sparse record's entries (R17, R172). -/
def laneEntries : LaneWeights → List (List (Nat × Int))
  | .trit5 rows => rows.map (fun r => ((trit5Row r).zipIdx.filter (fun e => e.1 != 0)).map (fun e => (e.2, e.1)))
  | .sparse _ recs => recs.map (·.entries)
  | .wide _ => []

/-- s(p) of a lane: the +1 weights on set bits of the plane less the -1 weights on them (R48, R172). -/
def entrySum (es : List (Nat × Int)) (mask : Nat) : Int :=
  sumI ((es.filter (fun e => mask.testBit e.1)).map (·.2))

/-- W(r): the weight sum of a lane (R49). -/
def entryTotal (es : List (Nat × Int)) : Int := sumI (es.map (·.2))

/-- What a plane gives a lane group: skipped or not, and each lane's contribution (R48, R49, R51). -/
def planeLanes (w p mask : Nat) (lanes : List (List (Nat × Int))) : Bool × List Int :=
  (lanes.all (fun es => es.all (fun e => !mask.testBit e.1)),
   lanes.map (fun es => planeContribution w p (entrySum es mask) (entryTotal es)))

/-- A wide row's contribution: G × Σ code · a over its 64 inputs (R25, R56). -/
def wideLane (acts : List Int) (row : Nat × List Int) : Int :=
  (row.1 : Int) * sumI (List.zipWith (fun c a => c * a) row.2 acts)

/-- What one plane step computes of a chunk at width `w` from the codes past the input stage: whether the plane was skipped, and
the partial. Rows that retire nothing give 0 (R176). -/
def planePartial (w : Nat) (on : Nat → Bool) (pos : PartialPos) (codes : List Nat) : LaneWeights → Bool × Partial
  | .wide rows =>
    let acts := ((codes.drop (64 * pos.plane)).take 64).map (actValue w)
    (false, ⟨pos, rows.map (wideLane acts), []⟩)
  | .sparse blk recs =>
    let recs := recs.map (fun r => if on r.row then r else { r with entries := [] })
    let r := planeLanes w pos.plane (plane codes pos.plane) (laneEntries (.sparse blk recs))
    (r.1, ⟨pos, r.2, recs.map (·.row)⟩)
  | .trit5 rows =>
    let r := planeLanes w pos.plane (plane codes pos.plane) (laneEntries (.trit5 rows))
    (r.1, ⟨pos, r.2, []⟩)

/-- The first byte of the rows or records that the decoder rejects, by its offset in the block: an invalid Trit5 byte, or a sparse
block that breaks a condition of R22 (R19, R47). -/
def tritFault (l : LaneGroup) : LaneWeights → Option Nat
  | .trit5 rows => rows.zipIdx.findSome? (fun r =>
      (r.1.zipIdx.find? (fun b => decide (243 ≤ b.1.toNat) || (b.2 == 204 && !decide (81 ≤ b.1.toNat ∧ b.1.toNat ≤ 161)))).map
        (fun b => 205 * (32 * l.val + r.2) + b.2))
  | .sparse blk _ => if sparseOk blk then none else some 0
  | .wide _ => none

/-- May a lane group take a plane step: the position is one of the group's, not yet retired nor held, and no earlier partial of the
lane group waits for its slot to drain (R52)? -/
def Group.takes (g : Group) (l : LaneGroup) (pos : PartialPos) : Option ChunkTag :=
  match tagChunk g.tag pos, g.next[l.val] with
  | some c, some p =>
    if posIn g.tag pos && decide (posKey p ≤ posKey pos) && (g.waiting[l.val]).isNone
        && (g.reorder[l.val]).all (fun y => y.pos != pos)
    then some c else none
  | _, _ => none

/-- Put a partial into a lane group's reorder slot of eight; on a full slot it waits (R52). -/
def Group.hold (g : Group) (l : LaneGroup) (y : Partial) : Group :=
  if (g.reorder[l.val]).length < 8 then { g with reorder := g.reorder.set l.val (g.reorder[l.val] ++ [y]) l.isLt }
  else { g with waiting := g.waiting.set l.val (some y) l.isLt }

/-- The block that a chunk of a group reads. -/
def State.chunkBlock (s : State) (w : Work) (g : Group) (k : ChunkTag) : Option Block :=
  s.blocks.find? (fun b => b.gref == w.step.env.graph.gref && b.desc == g.tag.key.layer && b.entry == k.entry)

/-- A weight error at decode (R19, R357): the command is killed and re-run, and the block is poisoned when its copy in HBM fails
its own check. -/
def State.weightError (s : State) (n : CellId) (w : Work) (b : Block) (off : Nat) : State :=
  let s : State := { s with counters := { s.counters with weightErrors := satInc s.counters.weightErrors } }
  let e := { s.cellEvent 0x0015 n with arg0 := w.step.env.graph.id, arg1 := b.desc, arg2 := b.entry, arg3 := off }
  let s := (s.killStep w.job.handle 3 true).postCell n e
  if blockOk b.fmt (s.blockBytes b) then s else s.poisonBlock b

/-- The descriptor and the first 256-element block that a chunk's vector is of: the writer of SRC_A; an expert's inner vector is
its own, past its output blocks. -/
def Work.writerOf (w : Work) (g : Group) (k : ChunkTag) : Nat × Nat :=
  let x := g.tag.key
  match w.descs[x.layer]? with
  | none => (x.layer, 0)
  | some d =>
    if d.opcode = 8 ∧ (x.matrix = 2 ∨ x.matrix = 4) then (x.layer, 2 ^ 20 + 4 * k.input)
    else match producerOf w.descs x.layer d.srcA with
      | some y => (y.1, 4 * k.input)
      | none => (x.layer, 4 * k.input)

/-- The input stage's additions to CLAMPED of the four outlier lists of a chunk (R50). -/
def stageClamps (w : Nat) (codes : List Nat) : List Nat :=
  (List.range 4).map (fun k => inputClamps w ((codes.drop (256 * k)).take 256))

/-- The input stage's clamps of one load of a vector: counted once for each of its blocks (R50). -/
def Cell.countClamps (w : Work) (x : PlaneIn) (g : Group) (k : ChunkTag) (cs : List Nat) (c : Cell) : Cell :=
  let o := w.writerOf g k
  let key (i : Nat) : Nat × Nat × Nat × Nat := (o.1, g.tag.seqIds.getD x.pos.slot 0, g.tag.index.getD x.pos.slot 0, o.2 + i)
  if cs.all (· == 0) || (List.range 4).any (fun i => c.clamps.any (fun y => y.1 == key i)) then c
  else
    { c.updGroup x.tile (fun g => { g with clamped := assocSet (x.pos.window, x.pos.slot, x.pos.chunk) cs g.clamped }) with
      clamps := c.clamps ++ (cs.zipIdx.map (fun y => (key y.2, y.1))) }

/-- A cell after a plane step of a lane group (R48, R51, R111). -/
def Cell.planeStep (l : LaneGroup) (t : TileId) (r : Bool × Partial) (c : Cell) : Cell :=
  { c.updGroup t (fun g => g.hold l r.2) with
    planeSteps := if r.1 then c.planeSteps else satInc c.planeSteps,
    planesSkipped := if r.1 then satInc c.planesSkipped else c.planesSkipped }

/-- A column that the array's decoder reads for EMBED: a token's own column of the block that holds it, else nothing (R123,
R153). -/
def Cell.column (c : Cell) (b : Block) (l : LaneGroup) (input token : Nat) : Option (List Int) :=
  if token / 1024 = input then
    (allSome ((ownLanes l).map (c.rowWeights b))).map (fun rs => rs.map (fun r => r.getD (token % 1024) 0))
  else some ((ownLanes l).map (fun _ => 0))

/-- What a plane step finds: a weight error at an offset of the block, or what it computes, with the input stage's clamps; none
while a line that it reads is missing. -/
inductive PlaneOut where
  | fault (off : Nat)
  | done (r : Bool × Partial) (clamps : List Nat)
  deriving DecidableEq, Repr

/-- A plane step of a lane group of a cell (R48-R51, R56, R176). -/
def Cell.planeOut (c : Cell) (w : Work) (g : Group) (k : ChunkTag) (b : Block) (l : LaneGroup) (x : PlaneIn) : Option PlaneOut :=
  let wd := k.width x.pos.slot
  if wd = 0 then
    (c.column b l k.input ((w.step.toks[g.tag.index.getD x.pos.slot 0]?).elim 0 (·.token))).map
      (fun vs => .done (false, ⟨x.pos, vs, []⟩) [])
  else
    let on := g.tag.rowOn x.pos.slot
    match c.vector x.src x.line wd, c.laneWeights b l x.pos.pass x.pos.plane on with
    | some raw, some lw => some (match tritFault l lw with
        | some off => .fault off
        | none => .done (planePartial wd on x.pos (raw.map (inputStage wd)) lw) (stageClamps wd raw))
    | _, _ => none

/-- The lines that a plane step's upsets fall on. -/
def Cell.upsetLines (c : Cell) (b : Block) (x : PlaneIn) : List (LineAt × Upset) :=
  x.weightUps.filterMap (fun u => (c.weightLine (b.addr + 64 * u.1)).map (fun p => (p, u.2)))
    ++ x.actUps.map (fun u => ((x.src, x.line + u.1), u.2))

/-- PLANE_STEP (R48): the lines it reads are checked first (R260); a lane group takes no step while one of them is missing. -/
def execPlaneStep (n : CellId) (l : LaneGroup) (x : PlaneIn) (s : State) : Host.Outcome State Fault Refusal :=
  .next (
    let c := s.cells[n]
    match s.work n, c.group x.tile with
    | some w, some g => match g.takes l x.pos with
      | none => s
      | some k => match s.chunkBlock w g k with
        | none => s
        | some b =>
          let q := c.checkAll (c.upsetLines b x)
          if c.works = false then s
          else match q.2.2 with
            | some a => (s.cellFixed q.2.1).cellMemory n 3 a
            | none => match q.1.planeOut w g k b l x with
              | none => s
              | some (.fault off) => (s.cellFixed q.2.1).weightError n w b off
              | some (.done r cs) =>
                (s.cellFixed q.2.1).onCell n (fun _ => (q.1.planeStep l x.tile r).countClamps w x g k cs)
    | _, _ => s)

/-! ## PARTIAL_RETIRE (R50, R52-R57, R79) -/

/-- Add values into wide accumulators of a token slot, by row (R37, R38). -/
def addWide (slot : Nat) (wide : List (Nat × Int)) (xs : List (Nat × Int)) : List (Nat × Int) :=
  xs.foldl (fun w x => assocSet (256 * slot + x.1) (wrap48 (lookupD 0 (256 * slot + x.1) w + x.2)) w) wide

/-- Promote a lane group: its narrow values go into the wide accumulators they belong to, and it is cleared (R54, R79). -/
def Cell.promote (l : LaneGroup) (c : Cell) : Cell :=
  let x := c.lanes[l.val]
  let c := match x.owner with
    | none => c
    | some o => c.updGroup o.1 (fun g => { g with wide := addWide o.2 g.wide (x.rows.zip x.narrow) })
  { c with lanes := c.lanes.set l.val LaneGrp.reset l.isLt }

/-- Do the values of a chunk go straight to the wide accumulators: those of a wide chunk and of a decoded column (R56, R153)? -/
def ChunkTag.direct (k : ChunkTag) (slot : Nat) : Bool := k.kind == .wide || k.width slot == 0

/-- Does a lane group promote before it retires a partial: it holds another token slot's or group's value, a sparse chunk
begins, or the chunk's cost would pass the limit (R54, R55, R79)? -/
def LaneGrp.promotesFirst (x : LaneGrp) (o : TileId × Nat) (k : ChunkTag) (p : PartialPos) : Bool :=
  (x.owner != none && x.owner != some o)
    || (p.pass == 0 && p.plane == 0 && !k.direct p.slot && (match k.kind with
      | .trit5 => decide (promotionLimit < x.cost + promotionCost (k.width p.slot))
      | _ => true))

/-- Add a partial into the narrow accumulators of its lane group. -/
def LaneGrp.add (o : TileId × Nat) (rows : List Nat) (vals : List Int) (cost : Nat) (x : LaneGrp) : LaneGrp :=
  { x with narrow := List.zipWith (fun a b => wrapS 20 (a + b)) x.narrow vals, owner := some o, rows := rows,
           cost := x.cost + cost }

/-- Change a lane group. -/
def Cell.updLane (c : Cell) (l : LaneGroup) (f : LaneGrp → LaneGrp) : Cell :=
  { c with lanes := c.lanes.set l.val (f c.lanes[l.val]) l.isLt }

/-- A partial added where its chunk's form says: the narrow accumulators, or the wide elements themselves (R54-R56). -/
def Cell.retireValue (l : LaneGroup) (t : TileId) (k : ChunkTag) (y : Partial) (c : Cell) : Cell :=
  let o := (t, y.pos.slot)
  let c := if c.lanes[l.val].promotesFirst o k y.pos then c.promote l else c
  if k.direct y.pos.slot then
    c.updGroup t (fun g => { g with wide := addWide y.pos.slot g.wide ((ownLanes l).zip y.vals) })
  else match k.kind with
    | .sparse _ =>
      let c := c.updLane l (LaneGrp.add o y.rows y.vals 0)
      if y.pos.plane + 1 = k.width y.pos.slot then c.promote l else c
    | _ => c.updLane l (LaneGrp.add o (ownLanes l) y.vals
        (if endsChunk k y.pos then promotionCost (k.width y.pos.slot) else 0))

/-- The input index and VALUE of the valid records of a chunk's four outlier lists, in ascending order; none when a list is a state
error (R30). -/
def sideRecords (lists : Bytes) : Option (List (Nat × Int)) :=
  (allSome ((List.range 4).map (fun k => (outliersOf (sub lists (32 * k) 32)).map (fun o =>
    o.recs.map (fun r => (256 * k + r.1, r.2)))))).map List.flatten

/-- What a chunk's side path reads: nothing, lists that are no lists, or the records with the weights of each own row (R57). -/
inductive Side where
  | stateError
  | recs (xs : List (Int × List Int))
  deriving DecidableEq, Repr

/-- The side path of the chunk that a partial ends: widths 2-8 have outlier lists, in two lines of a region (R30, R57, R65); none
while a line that it reads is missing. -/
def Cell.sideOf (c : Cell) (g : Group) (k : ChunkTag) (b : Block) (l : LaneGroup) (slot : Nat) (side : SideIn) : Option Side :=
  if k.width slot ≤ 1 then some (.recs [])
  else match side.lists with
    | none => none
    | some (r, i) =>
      let x := c.regions[r]
      if x.kind ≠ 1 ∧ x.usable c.step i = true ∧ x.usable c.step (i + 1) = true then
        match sideRecords (c.lineData (r, i) ++ c.lineData (r, i + 1)) with
        | none => some .stateError
        | some [] => some (.recs [])
        | some rs => (allSome ((ownLanes l).map (fun row =>
            if g.tag.rowOn slot row then c.rowWeights b row else some []))).map (fun ws =>
              .recs (rs.map (fun x => (x.2, ws.map (fun w => w.getD x.1 0)))))
      else none

/-- The side path of a chunk that has retired: every valid record's VALUE times the weights it meets (R57). -/
def Cell.sidePath (l : LaneGroup) (t : TileId) (slot : Nat) (xs : List (Int × List Int)) (c : Cell) : Cell :=
  xs.foldl (fun c x => c.updGroup t (fun g =>
    { g with wide := addWide slot g.wide ((ownLanes l).zip (x.2.map (· * x.1))) })) c

/-- An outlier list with more clamps in its CLAMPED, which stops at 255 (R30, R50). -/
def addClamped (line : Bytes) (k n : Nat) : Bytes :=
  patch line (32 * k + 1) [BitVec.ofNat 8 (Nat.min 255 (u8 line (32 * k + 1) + n))]

/-- The input stage's clamps of a chunk reach the CLAMPED of its outlier lists, once (R50). -/
def Cell.markClamps (t : TileId) (p : PartialPos) (side : SideIn) (c : Cell) : Cell :=
  let key := (p.window, p.slot, p.chunk)
  match c.group t, side.lists with
  | some g, some (r, i) =>
    let cs := lookupD [] key g.clamped
    let line (j : Nat) (x : RLine) : RLine :=
      { x with data := addClamped (addClamped x.data 0 (cs.getD (2 * j) 0)) 1 (cs.getD (2 * j + 1) 0) }
    if cs = [] then c
    else (c.updGroup t (fun g => { g with clamped := g.clamped.filter (fun y => y.1 != key) })).updRegion r
      (fun x => { x with lines := (x.lines.modify i (line 0)).modify (i + 1) (line 1) })
  | _, _ => c

/-- The partial that a lane group retires next, with its chunk: it must have been formed (R52). -/
def Group.due (g : Group) (l : LaneGroup) : Option (ChunkTag × Partial) :=
  match g.next[l.val] with
  | none => none
  | some p => match tagChunk g.tag p, (g.reorder[l.val] ++ g.waiting[l.val].toList).find? (fun y => y.pos == p) with
    | some k, some y => some (k, y)
    | _, _ => none

/-- Has every lane group of a group retired its last partial? -/
def Group.closed (g : Group) : Bool := g.next.toList.all (·.isNone)

/-- A partial leaves its lane group's slot; the one that waited takes the room (R52). -/
def Group.drain (g : Group) (l : LaneGroup) (pos : PartialPos) : Group :=
  let all := (g.reorder[l.val] ++ g.waiting[l.val].toList).filter (fun z => z.pos != pos)
  { g with reorder := g.reorder.set l.val (all.take 8) l.isLt, waiting := g.waiting.set l.val all[8]? l.isLt }

/-- One more token tile has passed each block that a group read (R84). -/
def Cell.countPassed (t : GroupTag) (c : Cell) : Cell :=
  { c with passed := t.windows.flatten.foldl (fun ps k =>
      let key := (t.key.layer, k.entry)
      assocSet key (lookupD 0 key ps + 1) ps) c.passed }

/-- The lane group moves on: the partial leaves its slot; at the end of a promotion window, and before the group closes, it
promotes (R54). A cell all of whose groups have closed only drains (R112). -/
def Cell.advanceLane (l : LaneGroup) (t : TileId) (tag : GroupTag) (y : Partial) (c : Cell) : Cell :=
  let nx := nextPos tag y.pos
  let c := match nx with
    | none => c.promote l
    | some q => if q.window = y.pos.window then c else c.promote l
  let c := c.updGroup t (fun g => { g.drain l y.pos with next := g.next.set l.val nx l.isLt })
  let c := if (c.group t).any Group.closed then c.countPassed tag else c
  if c.groups.all Group.closed then { c with pass := none } else c

/-- Retire the next partial of a lane group (R52). -/
def Cell.retire (l : LaneGroup) (t : TileId) (tag : GroupTag) (k : ChunkTag) (y : Partial) (xs : List (Int × List Int))
    (side : SideIn) (c : Cell) : Cell :=
  let c := c.retireValue l t k y
  (if endsChunk k y.pos then (c.sidePath l t y.pos.slot xs).markClamps t y.pos side else c).advanceLane l t tag y

/-- An outlier list that is no list: a state error, handled as for class A data (R30, R357). -/
def State.outlierError (s : State) (n : CellId) : State :=
  let e := { s.cellEvent 0x0014 n with arg0 := (Config.outlierListAddr s.draws).toNat, arg1 := 2 }
  let s : State := { s with
    draws := s.draws + 1, counters := { s.counters with stateErrors := satInc s.counters.stateErrors } }
  (s.killCell n 3).postModule e

/-- What the (55,48) code of accumulator memory makes of an upset element: the flips that stay in its 48 data bits, and whether a
bit was corrected; none when it is uncorrectable (R357). The data bits come first, then the seven check bits. -/
def checkAcc (mask : BitVec 55) : Option (Nat × Bool) :=
  match ones mask.toNat with
  | 0 => some (0, false)
  | 1 => some (0, true)
  | 2 => none
  | _ => (Config.accSecDed mask.toNat).map (fun x => ((mask.toNat ^^^ x.1) % 2 ^ 48, x.2))

/-- A group after bits of an element of its tile have flipped. -/
def Group.flip (element flips : Nat) (g : Group) : Group :=
  if flips = 0 then g
  else { g with wide := assocSet element (toSigned 48 (ofSigned 48 (lookupD 0 element g.wide) ^^^ flips)) g.wide }

/-- A cell after bits of an element of a tile have flipped. -/
def Cell.flipAcc (t : TileId) (element flips : Nat) (c : Cell) : Cell :=
  if flips = 0 then c else c.updGroup t (Group.flip element flips)

/-- The bits and the element of an upset; none for no upset. -/
def maskOf (err : Option AccUpset) : BitVec 55 := err.elim 0 (·.mask)
def elementOf (err : Option AccUpset) : Nat := err.elim 0 (·.element)

/-- An uncorrectable word of accumulator memory: a tile holds 4,096 elements of 6 bytes (R357, R369). -/
def State.accError (s : State) (n : CellId) (t : TileId) (err : Option AccUpset) : State :=
  s.cellMemory n 4 (0x6000 * t.val + 6 * elementOf err)

/-- PARTIAL_RETIRE (R52): the accumulator word that retirement reads is checked first (R357); at the end of a chunk the side path
needs its lists and weights (R57). -/
def execPartialRetire (n : CellId) (l : LaneGroup) (t : TileId) (side : SideIn) (err : Option AccUpset) (s : State) :
    Host.Outcome State Fault Refusal :=
  .next (
    let c := s.cells[n]
    match s.work n, c.group t with
    | some w, some g => match g.due l with
      | none => s
      | some (k, y) => match s.chunkBlock w g k with
        | none => s
        | some b =>
          if c.works = false then s
          else match checkAcc (maskOf err) with
            | none => s.accError n t err
            | some a =>
              let s := s.cellFixed (b2n a.2)
              let c := c.flipAcc t (elementOf err) a.1
              if endsChunk k y.pos = false then s.onCell n (fun _ => c.retire l t g.tag k y [] side)
              else match c.sideOf g k b l y.pos.slot side with
                | none => s
                | some .stateError => s.outlierError n
                | some (.recs xs) => s.onCell n (fun _ => c.retire l t g.tag k y xs side)
    | _, _ => s)

/-! ## GROUP_REQUANTISE (R29, R60-R68, R87, R105-R110, R135, R175) -/

/-- y0 of one output of a token slot: Σ ±(acc << p) over the digit records of a multiplier, rounded at S (R60-R64). -/
def tagRound (t : GroupTag) (slot tw : Nat) (z : Int) (o : Nat) : Int :=
  roundShift z (t.lsh + tokS tw) (if t.stochastic then
    some (lfsrValue (t.seqIds.getD slot 0) (t.positions.getD slot 0) t.key.layer (256 * t.key.block + o)) else none)

/-- y0 of one output: M = C × T (R60-R64). -/
def tagY0 (t : GroupTag) (slot tw : Nat) (acc : Int) (o : Nat) : Int :=
  tagRound t slot tw (digitProduct acc (digitRecords (t.scales.getD o 0 * tokT tw))) o

/-- The accumulators of one token slot of a group. -/
def Group.slotAccs (g : Group) (slot : Nat) : List Int := (List.range 256).map (fun o => lookupD 0 (256 * slot + o) g.wide)

/-- acc × C of one token slot's outputs, and the sum with what earlier experts of a shared bank have given (R135). -/
def GroupTag.zs (t : GroupTag) (before accs : List Int) : List Int :=
  accs.zipIdx.map (fun a => a.1 * (t.scales.getD a.2 0 : Nat) + before.getD a.2 0)

/-- The y0 of one token slot's outputs: of its own product, or of the sum over a shared bank's experts under T (R60-R64, R135). -/
def GroupTag.y0s (t : GroupTag) (slot tw : Nat) (before : Option (List Int)) (accs : List Int) : List Int :=
  match before with
  | none => accs.zipIdx.map (fun a => tagY0 t slot tw a.1 a.2)
  | some zs => (t.zs zs accs).zipIdx.map (fun z => tagRound t slot tw (z.1 * tokT tw) z.2)

/-- The 256 outputs of one token slot formed at a width, with the saturations of their reduction in CLAMPED; and their stored
form: planes, or Wisp-5 blocks of an output bound for a Wisp encoder (R29, R43, R65, R66, R106). -/
def formOut (w sats : Nat) (y0s : List Int) : OutBlock × List Bytes :=
  let clamp (b : OutBlock) : OutBlock :=
    { b with outliers := { b.outliers with clamped := Nat.min 255 (b.outliers.clamped + sats) }, clamps := b.clamps + sats }
  if w = 31 then let r := formWisp31 y0s; (clamp ⟨r.1, ⟨[], 0⟩, r.2⟩, wispBlocks .five r.1)
  else if w = 16 then let r := formWide16 y0s; (clamp ⟨r.1, ⟨[], 0⟩, r.2⟩, quarterPlanes 16 r.1)
  else let b := formBlock w y0s; (clamp b, quarterPlanes w b.ys)

/-- The statistic of one token slot: the largest |acc × C| >> Lsh (R68). -/
def statOfSlot (t : GroupTag) (before accs : List Int) : Nat := maxN ((t.zs before accs).map (fun z => statOf z t.lsh))

/-- Merge a maximum into a list of them (R68). -/
def mergeMax (xs : List ((Nat × Nat) × Nat)) (x : (Nat × Nat) × Nat) : List ((Nat × Nat) × Nat) :=
  assocSet x.1 (Nat.max (lookupD 0 x.1 xs) x.2) xs

/-- What a group's requantiser receives for each token slot: the accumulators (R105-R110, R153), the saturations that formed them,
and the statistics merged on the way. -/
structure GroupIn where
  accs : List (List Int)
  sats : List Nat
  maxima : List ((Nat × Nat) × Nat)
  deriving DecidableEq, Repr

/-- The module sum of some work, with every leaf in it (R107). -/
def State.moduleSum (s : State) (t : GroupTag) : Option Reduction :=
  s.moduleSums.find? (fun r => r.key == t.key && r.leaves.length == t.leaves)

/-- The accs of a group: its own when it forms the only leaf; S × 2^e on one rank; F × 2^(e + c) over several, once F is here
(R107, R110, R153). -/
def State.groupIn (s : State) (w : Work) (g : Group) : Option GroupIn :=
  let t := g.tag
  let slots := List.range t.index.length
  if t.tree = false then some ⟨slots.map g.slotAccs, slots.map (fun _ => 0), []⟩
  else match s.moduleSum t with
    | none => none
    | some r =>
      if t.across then
        let rs := t.index.zipIdx.map (fun x => sumReduced w.ctx r (t.shifts.getD x.2 0) x.1 x.2)
        (allSome (rs.map (·.accs))).map (fun as_ => ⟨as_, rs.map (·.sats), r.maxima⟩)
      else
        some ⟨slots.map (fun i => (List.range 256).map (fun o => r.sums.getD (256 * i + o) 0 * 2 ^ t.shifts.getD i 0)), r.sats,
          r.maxima⟩

/-- z of the expert before in a shared bank, as whichever cell formed it holds it (R135). -/
def State.earlierZs (s : State) (h : Nat) (k : GroupKey) : Option (List (List Int)) :=
  s.cells.toList.findSome? (fun c => if c.job = some h then
    (c.zs.find? (fun z => z.1 == { k with expert := k.expert - 1 })).map (·.2) else none)

/-- What a group's outputs start from: the threshold of the predictor's second layer, which compares with -4096 · Meff; a shared
bank's sum over the experts before, once it stands; nothing for other work (R135, R175). -/
def State.outBase (s : State) (w : Work) (g : Group) : Option (Option (List (List Int))) :=
  let t := g.tag
  match w.descs[t.key.layer]? with
  | none => none
  | some d =>
    if d.outputs t.key.matrix = false then
      (if t.key.matrix = 4 then some (some (t.index.map (fun _ => List.replicate 256 (4096 * w.ctx.meff t.key.layer))))
       else some none)
    else if d.opcode = 8 ∧ 0 < t.key.expert then (s.earlierZs w.job.handle t.key).map some
    else some (if t.more then some (t.index.map (fun _ => [])) else none)

/-- A cell that has released its oldest group, with what the requantiser wrote: outputs, or z of an expert that others follow; its
tile keeps what it holds (R68, R80, R87, R135). -/
def Cell.release (g : Group) (x : GroupIn) (base : Option (List (List Int))) (c : Cell) : Cell :=
  let t := g.tag
  let before (i : Nat) : List Int := (base.getD []).getD i []
  let zs := x.accs.zipIdx.map (fun a => t.zs (before a.2) a.1)
  let out (i : Nat) : OutBlock × List Bytes :=
    formOut (t.outWs.getD i 16) (x.sats.getD i 0)
      (t.y0s i (t.tokWords.getD i 0) (base.map (fun b => b.getD i [])) (x.accs.getD i []))
  let stats := if t.tscale && !t.more then
      t.index.zipIdx.map (fun i => ((t.seqIds.getD i.2 0, t.key.layer), statOfSlot t (before i.2) (x.accs.getD i.2 []))) else []
  { c with
    groups := c.groups.drop 1,
    tiles := assocSet g.tile.val g.wide c.tiles,
    outs := if t.more then [] else (List.range t.index.length).map out,
    zs := if t.more then assocSet t.key zs c.zs else c.zs,
    maxima := (x.maxima ++ stats).foldl mergeMax c.maxima }

/-- The opening that waited for a tile takes place once that tile is free (R80). -/
def Cell.resume (c : Cell) : Cell :=
  match c.waitOpen with
  | some (pass, tile, t) => if c.tileHeld tile then c else c.startGroup pass tile t
  | none => c

/-- Module sums that no unreleased group needs any more are dropped. -/
def State.tidySums (s : State) : State :=
  { s with moduleSums := s.moduleSums.filter (fun r => (s.groupOf r.key).isSome) }

/-- A cell whose work of the step is done waits for the next boundary (R112). -/
def State.restCell (s : State) (n : CellId) (w : Work) : State :=
  if s.cells[n].workDone w n.val then s.updCell n (Cell.setBase .waitBoundary s.now) else s

/-- The upset that a requantiser meets: it reads the tile of a group that no reduction feeds (R357). -/
def Group.upset (g : Group) (x : AccRead) : Option AccUpset := if g.tag.tree then none else x.err

/-- The oldest group released, its outputs written and its tile free for the opening that waits (R80, R87). -/
def State.releaseGroup (s : State) (n : CellId) (w : Work) (g : Group) : State :=
  match s.groupIn w g, s.outBase w g with
  | some x, some base => ((s.onCell n (fun c => (c.release g x base).resume)).tidySums).restCell n w
  | _, _ => s

/-- GROUP_REQUANTISE (R87): the requantiser writes every output of the oldest group, once it has closed and what it waits for
stands, and releases its tile; the accumulator words that it reads are checked first (R357). -/
def execGroupRequantise (n : CellId) (x : AccRead) (s : State) : Host.Outcome State Fault Refusal :=
  .next (
    match s.work n, s.cells[n].groups with
    | some w, g :: _ =>
      if g.tile ≠ x.tile ∨ g.closed = false ∨ s.cells[n].works = false ∨ s.groupIn w g = none ∨ s.outBase w g = none then s
      else match checkAcc (maskOf (g.upset x)) with
        | none => s.accError n x.tile (g.upset x)
        | some a => (s.cellFixed (b2n a.2)).releaseGroup n w (g.flip (elementOf (g.upset x)) a.1)
    | _, _ => s)

/-! ## REDUCTION_CONTEXT_START (R106-R108) -/

/-- A cell's partials of a group, by 256 · slot + output, and the saturations of each token slot (R106). -/
def Group.partials (g : Group) : List Int × List Nat :=
  let ps := (List.range g.tag.index.length).map (fun i => (g.slotAccs i).map (fun a => partialOf a (g.tag.shifts.getD i 0)))
  (ps.flatMap (fun p => p.map (·.1)), ps.map (fun p => sumN (p.map (·.2))))

/-- A die's sums over its 64 cells, each level adding its lower half and then its upper half (R107). -/
def dieSums (partials : List (Nat × List Int)) : List Int :=
  let n := maxN (partials.map (·.2.length))
  (List.range n).map (fun o => treeSum 6 ((List.range 64).map (fun c =>
    sumI ((partials.filter (fun p => p.1 == c)).map (fun p => p.2.getD o 0)))))

/-- Two lists added place by place, the longer's rest kept. -/
def addLists (xs ys : List Nat) : List Nat := (List.range (Nat.max xs.length ys.length)).map (fun i => xs.getD i 0 + ys.getD i 0)

/-- The groups of a die's cells that do some work of a stage, each with its cell's number on the die. -/
def State.leafGroups (s : State) (st : Stage) (die : Nat) (k : GroupKey) : List (Nat × Group) :=
  (List.finRange 128).flatMap (fun n =>
    if cellDie n.val = die ∧ st.cells.contains n.val = true then
      (s.cells[n].groups.filter (fun g => g.tag.key == k && g.tag.tree)).map (fun g => (n.val % 64, g))
    else [])

/-- The leaves of some work that the cells of a die hold (R153). -/
def Work.leavesOn (w : Work) (die : Nat) (k : GroupKey) : List Nat :=
  (w.stage.cells.filter (fun c => cellDie c == die)).flatMap (fun c =>
    (w.held c).filterMap (fun h =>
      if h.key 0 = { k with toks := 0 } then
        (w.descs[h.desc]?).map (fun d => (d.leafRuns h.row).findIdx (· == (h.first, h.count)))
      else none))

/-- The reduction of some work on one die, once every leaf that its cells hold has closed: their partials through the die's tree,
with the saturations and the statistics of those cells (R68, R106, R107). -/
def State.dieReduction (s : State) (w : Work) (die : Fin 2) (tile : TileId) (k : GroupKey) : Option Reduction :=
  let gs := s.leafGroups w.stage die.val k
  let leaves := w.leavesOn die.val k
  if gs.all (fun g => g.2.closed) = true ∧ leaves.all (fun i => gs.any (fun g => g.2.tag.leaf == i)) = true ∧ gs ≠ [] then
    let ps := gs.map (fun g => (g.1, g.2.partials))
    some ⟨w.stage.number, tile, k, leaves, dieSums (ps.map (fun p => (p.1, p.2.1))),
      (ps.map (fun p => p.2.2)).foldl addLists [],
      (gs.flatMap (fun g => (s.cellAt (64 * die.val + g.1)).maxima)).foldl mergeMax []⟩
  else none

/-- Is a reduction of a stage and tile, or of some work, in a list? -/
def hasRed (r : Reduction) (xs : List Reduction) : Bool := xs.any (fun x => (x.stage == r.stage && x.tile == r.tile) || x.key == r.key)

/-- Die 0's part of a reduction and then die 1's (R107). -/
def joinReds (x y : Reduction) : Reduction :=
  { x with
    leaves := x.leaves ++ y.leaves,
    sums := if y.sums = [] then x.sums else List.zipWith (· + ·) x.sums y.sums,
    sats := addLists x.sats y.sats,
    maxima := y.maxima.foldl mergeMax x.maxima }

/-- The module sum of some work out of the dies' contexts: every leaf is in it (R107). -/
def State.joined (s : State) (k : GroupKey) : Option Reduction :=
  let here := (s.contexts[0] ++ s.contexts[1]).filter (fun r => r.key == k)
  match here, s.groupOf k with
  | x :: rest, some g =>
    let r := rest.foldl joinReds x
    if r.leaves.length = g.tag.leaves then some r else none
  | _, _ => none

/-- The hub forms the sums it can and frees their contexts. -/
def State.formSums (s : State) : State :=
  let ready := (((s.contexts[0] ++ s.contexts[1]).map (·.key)).eraseDups).filterMap s.joined
  { s with
    moduleSums := s.moduleSums ++ ready,
    contexts := s.contexts.map (fun xs => xs.filter (fun r => !(ready.any (fun x => x.key == r.key)))) }

/-- Waiting reductions take the contexts that are free, the first first (R108). -/
def State.admitReds (s : State) : State :=
  { s with
    contexts := Vector.ofFn (fun d => s.contexts[d] ++ (s.waitingReds[d]).take (4 - s.contexts[d].length)),
    waitingReds := Vector.ofFn (fun d => (s.waitingReds[d]).drop (4 - s.contexts[d].length)) }

/-- Form sums and let in until nothing waits that could start; `fuel` bounds the rounds. -/
def State.runReds : Nat → State → State
  | 0, s => s.formSums
  | k + 1, s => State.runReds k s.formSums.admitReds

/-- The work of a stage of the active job: the first cell of it whose job's step runs there. -/
def State.stageWork (s : State) (stage : Nat) : Option Work :=
  (List.finRange 128).findSome? (fun n => (s.work n).filter (fun w => w.stage.number == stage))

/-- The work of which a cell of a stage on a die has closed a group on a tile. -/
def State.closedOn (s : State) (st : Stage) (die : Nat) (t : TileId) : Option GroupKey :=
  (List.finRange 128).findSome? (fun n =>
    if cellDie n.val = die ∧ st.cells.contains n.val = true then
      ((s.cells[n].group t).filter (fun g => g.closed && g.tag.tree)).map (fun g => g.tag.key)
    else none)

/-- The upset that a reduction of a die meets in a tile of a cell: it reads the tiles of its leaves' groups (R106, R357). -/
def State.leafUpset (s : State) (st : Stage) (die : Nat) (k : GroupKey) (n : CellId) (x : AccRead) : Option AccUpset :=
  if cellDie n.val = die ∧ (s.leafGroups st die k).any (fun g => g.1 == n.val % 64 && g.2.tile == x.tile) = true then x.err
  else none

/-- A reduction takes a context of its die's tree, or waits for one; what the sums that stand then give other ranks goes out
(R108, R109). -/
def State.startRed (s : State) (w : Work) (die : Fin 2) (r : Reduction) : State :=
  let s : State := { s with waitingReds := s.waitingReds.set die.val (s.waitingReds[die] ++ [r]) die.isLt }
  (State.runReds (s.waitingReds[0].length + s.waitingReds[1].length) s.admitReds).offerSums w.job w.step

/-- REDUCTION_CONTEXT_START (R108): the accumulator words that the leaves give are checked first (R357). -/
def execReductionContextStart (die : Fin 2) (stage : Nat) (t : TileId) (n : CellId) (x : AccRead) (s : State) :
    Host.Outcome State Fault Refusal :=
  .next (
    match s.stageWork stage with
    | none => s
    | some w => match s.closedOn w.stage die.val t with
      | none => s
      | some k => match s.dieReduction w die t k with
        | none => s
        | some r =>
          if hasRed r (s.contexts[die] ++ s.waitingReds[die]) = true ∨ s.moduleSums.any (fun x => x.key == k) = true then s
          else
            let err := s.leafUpset w.stage die.val k n x
            match checkAcc (maskOf err) with
            | none => s.accError n x.tile err
            | some a =>
              let s := s.cellFixed (b2n a.2)
              let s := if a.1 = 0 then s else s.onCell n (Cell.flipAcc x.tile (elementOf err) a.1)
              s.startRed w die ((s.dieReduction w die t k).getD r))

end Sys2Proof.Machine
end

