-- ==== Sys2Proof/Machine/StepCommit.lean ====
section
/-! DEFINITION. The commit of a step (R144-R147): KV entries and lengths, windows and countdowns, counters and audits, and
what direct mode and sequence mode publish (R69-R76, R142, R179-R181, R205, R214-R220, R236, R240-R247). -/
namespace Sys2Proof.Machine

/-! ## Windows and countdowns (R69, R70, R74-R76) -/

/-- m of a sequence for a descriptor in a step's results. -/
def Results.m (r : Results) (seq di : Nat) : Nat := lookupD 0 di (lookupD [] seq r.stats)

/-- The block-trigger bits of a sequence for a descriptor. -/
def Results.trig (r : Results) (seq di : Nat) : List Bool := lookupD [] di (lookupD [] seq r.trigs)

/-- Does a sequence's m exceed the h its scale was derived from (R75)? -/
def layerTrig (d : Desc) (di : Nat) (x : NumState) (m : Nat) : Bool :=
  d.tscale && d.keepsCd && decide (headroom (maxN (x.win di d)) < m)

/-- A countdown after a committed step: L where a trigger sets it, else one less outside prefill (R74-R76). -/
def cdAfter (prefill layer trig : Bool) (l cd : Nat) : Nat := if layer || trig then l else if prefill then cd else cd - 1

/-- A sequence's window entry of a descriptor after a committed step (R69, R70). -/
def NumState.shift (x : NumState) (di : Nat) (d : Desc) (m : Nat) (prefill done : Bool) : NumState :=
  if prefill then
    let p := Nat.max m (lookupD 0 di x.pmax)
    if done then { x with wins := assocSet di (windowShift (x.win di d) p) x.wins, pmax := x.pmax.filter (fun e => e.1 != di) }
    else { x with pmax := assocSet di p x.pmax }
  else { x with wins := assocSet di (windowShift (x.win di d) m) x.wins }

/-- One descriptor of a sequence's numeric state after a committed step. -/
def NumState.after (r : Results) (seq : Nat) (prefill done : Bool) (x : NumState) (d : Desc × Nat) : NumState :=
  let m := r.m seq d.2
  let layer := layerTrig d.1 d.2 x m
  let bits := r.trig seq d.2
  let cds := if d.1.keepsCd then
      assocSet d.2 ((x.cd d.2 d.1).zipIdx.map (fun c => cdAfter prefill layer (bits.getD c.2 false) d.1.window c.1)) x.cds
    else x.cds
  { (if d.1.keepsWin then x.shift d.2 d.1 m prefill done else x) with cds := cds }

/-- A sequence's numeric state after a committed step (R73). -/
def numAfter (g : Graph) (r : Results) (seq : Nat) (prefill done : Bool) (x : NumState) : NumState :=
  g.descs.zipIdx.foldl (NumState.after r seq prefill done) x

/-! ## Publishing KV state (R144, R205, R214, R219) -/

/-- Entries at a new committed length: pages wholly at or beyond it and pages that fell out of SPAN go, and a page that holds
a committed position is no longer TENTATIVE (R214, R219). -/
def settlePages (g : Graph) (len : Nat) (es : List Pte) : List Pte :=
  (es.filter (fun e =>
      let sp := g.spanOf e.desc
      decide (16 * e.page < len) && !(sp != 0 && decide (16 * e.page + 15 + sp < len + 1)))).map
    (fun e => if e.tentative then ({ e with tentative := false } : Pte).sealed else e)

/-- A sequence's KV state with a step's staged entries merged: a discarding step keeps none of the earlier state (R141,
R214). -/
def KvState.merge (k : KvState) (discard : Bool) (staged : List Pte) : KvState :=
  let k := if discard then KvState.empty else k
  { k with pt := k.pt.filter (fun e => !staged.any (fun f => f.desc == e.desc && f.page == e.page)) ++ staged }

/-- Staged frames are published (R213). -/
def Job.publishFrames (j : Job) : Job := { j with frames := j.frames.map (fun f => { f with staged := false }) }

/-- Is a step one of direct mode? -/
def Step.isDirect (x : Step) : Bool := match x.kind with | .direct .. => true | _ => false

/-- The sequences of a step that its commit reaches: those of a round only while they are in the table. -/
def Job.reached (j : Job) (x : Step) : List LenRec :=
  x.lens.filter (fun l => x.isDirect || j.seqs.any (fun e => e.req.id == l.seq))

/-- Merge a step's staged entries into its sequences and move their numeric state on; lengths stay (R143, R144). -/
def Job.mergeStep (j : Job) (x : Step) (r : Results) (done : LenRec → Bool) : Job :=
  (j.reached x).foldl (fun j l =>
    let k := (j.kvIn x.isDraft l.seq).merge l.discard ((x.stagedPages.filter (fun e => e.1 == l.seq)).map (·.2))
    let num := numAfter x.env.graph r l.seq (x.prefill.contains l.seq) (done l) k.num
    j.setKv x.isDraft l.seq { k with num := num }) j.publishFrames

/-- Write a step's KV blocks into their pages (R143, R200). -/
def State.storeKv (s : State) (j : Job) (x : Step) (r : Results) : State :=
  r.kv.foldl (fun s e =>
    let b := j.kvB (some x.env.graph) e.1
    match (j.kvIn x.isDraft e.2.1).pt.find? (fun p => p.valid && p.desc == e.1 && p.page == e.2.2.1 / 16) with
    | none => s
    | some p =>
      let s : State := { s with hbm := s.hbm.sWrite (j.frameAddr b p.frame + 40 * b * (e.2.2.1 % 16)) e.2.2.2 }
      s.updJob j.handle (fun j => j.fill b p.frame (e.2.2.1 % 16 + 1))) s

/-- Set a sequence's committed length in one graph and settle its pages (R205, R214, R219). -/
def Job.settle (j : Job) (g : Graph) (draft : Bool) (id len : Nat) : Job :=
  let k := j.kvIn draft id
  j.setKv draft id { k with len := len, pt := settlePages g len k.pt }

/-! ## Counters and audits (R179-R181, R372) -/

/-- Triggers of a step for a descriptor: blocks, and sequences with a layer trigger (R372). -/
def trigCounts (x : Step) (r : Results) (di : Nat) (d : Desc) : Nat × Nat :=
  (sumN (x.lens.map (fun l => ((r.trig l.seq di).filter id).length)),
   (x.lens.filter (fun l => layerTrig d di (lookupD KvState.empty.num l.seq x.env.nums) (r.m l.seq di))).length)

/-- A descriptor's counters after a committed step. -/
def DescState.count (d : DescState) (t : DescTally) (tr : Nat × Nat) : DescState :=
  { d with
    clamps := satAdd d.clamps t.clamps, lnsSat := satAdd d.lnsSat t.lnsSat, blockTrig := satAdd d.blockTrig tr.1,
    layerTrig := satAdd d.layerTrig tr.2, dropped := satAdd d.dropped t.dropped, noChoice := satAdd d.noChoice t.noChoice }

/-- The miss rate over audit results (R181). -/
def rateOf (rs : List (Nat × Nat)) : Nat :=
  let a := sumN (rs.map (·.1))
  if a = 0 then 0 else 65536 * sumN (rs.map (·.2)) / a

/-- MISS_LIMIT of a descriptor (R131). -/
def Desc.missLimit (d : Desc) : Nat := match d.par with | .expert _ _ _ _ _ _ _ _ ml _ => ml | _ => 0

/-- A descriptor's audit state after an audit, and the rate when the margin is widened (R181). -/
def DescState.audit (d : DescState) (limit widen : Nat) (a m : Nat) : DescState × Option Nat :=
  let rs := (d.results ++ [(a, m)]).drop (d.results.length + 1 - 16)
  let rate := rateOf rs
  let d := { d with audits := satInc d.audits, auditActive := satAdd d.auditActive a, auditMissed := satAdd d.auditMissed m,
                    missRate := Nat.min rate 0xFFFF, results := rs }
  if limit ≠ 0 ∧ rs.length = 16 ∧ limit < rate then
    ({ d with meff := min 32767 (d.meff + widen), widenings := Nat.min 65535 (d.widenings + 1), results := [] }, some rate)
  else (d, none)

/-- Does a step audit a descriptor: a predicted bank, and of a routed one a token with a kept choice (R179)? -/
def Step.auditsDesc (x : Step) (d : Desc) (t : DescTally) : Bool :=
  x.audits && d.predicts && (!d.routed || decide (t.noChoice < x.toks.length))

/-- One descriptor's counters and audit after a committed step, with the event of a widening. -/
def DescState.commit (j : Job) (x : Step) (r : Results) (t : Nat) (d : DescState) : DescState × List Event :=
  if d.draft ≠ x.isDraft then (d, [])
  else match x.env.graph.descs[d.desc]? with
    | none => (d, [])
    | some g =>
      let y := lookupD (⟨0, 0, 0, 0, 0, 0⟩ : DescTally) d.desc r.tally
      let c := d.count y (trigCounts x r d.desc g)
      if x.auditsDesc g y then
        let a := c.audit g.missLimit j.cfg.predWiden y.active y.missed
        (a.1, match a.2 with
          | none => []
          | some rate => [{ event 0x0003 t with
              job := j.handle, step := x.number.toNat, arg0 := d.desc, arg1 := ofSigned 64 d.meff,
              arg2 := ofSigned 64 a.1.meff, arg3 := rate }])
      else (c, [])

/-- Raise a job's descriptor counters and post its widenings (R181, R370). -/
def State.commitCounts (s : State) (j : Job) (x : Step) (r : Results) (t : Nat) : State :=
  let ds := j.descs.map (DescState.commit j x r t)
  let s := s.updJob j.handle (fun j => { j with descs := ds.map (·.1) })
  (ds.flatMap (·.2)).foldl (fun s e => s.postPart j.part e) s

/-! ## The end of a step -/

/-- A committed step counts in the window of the layout (R158, R164). -/
def ReplWindow.add (w : ReplWindow) (ts : List Tok) : ReplWindow :=
  ⟨w.steps + 1, w.toks + ts.length, w.pos + sumN (ts.map (fun t => t.pos + 1))⟩

/-- The step of a job has committed: it is no longer in flight, and the cells return to service mode (R95, R147). -/
def State.stepOver (s : State) (h : Nat) (x : Step) : State :=
  (s.updJob h (fun j => { j with
    step := none, lastCommitted := some x.number, credit := false,
    layout := { j.layout with window := j.layout.window.add x.toks } })).serviceMode h

/-! ## Direct mode (R142, R205, R214) -/

/-- The output records of a direct-mode step, in entry order (R142). -/
def outRecords (x : Step) (r : Results) : Bytes :=
  (x.toks.zipIdx.filter (fun t => t.1.emit)).flatMap (fun t =>
    leBytes 4 t.1.seq ++ leBytes 4 t.1.pos ++ leBytes 4 (lookupD 0 t.2 r.selected) ++ leBytes 4 x.number.toNat)

/-- A direct-mode job after its step: lengths rise by the tokens fed, and a sequence with END keeps nothing (R205, R214). -/
def Job.commitDirect (j : Job) (x : Step) : Job :=
  let j := x.lens.foldl (fun j l => j.settle x.env.graph x.isDraft l.seq (l.base + l.count)) j
  let ended := (x.toks.filter (·.fin)).map (·.seq)
  { j with direct := j.direct.filter (fun e => !ended.contains e.id) }

/-- Commit a RUN_STEP (R142, R144, R145). -/
def State.commitDirect (s : State) (j : Job) (x : Step) (r : Results) (p : PartId) (m : BoxId) (slot t : Nat) : State :=
  let s := (s.updJob j.handle (fun j => j.commitDirect x)).tidyJob j.handle
  let s := s.slotWrite p slot (outRecords x r)
  let s := s.commitCounts j x r t
  let s := s.stepOver j.handle x
  match s.cmdAt p m with
  | none => s
  | some c => s.answer c t ⟨0, 0, x.number.toNat, leBytes 4 x.number.toNat⟩

/-! ## Sequence mode (R240-R247) -/

/-- How a sequence came out of a committed step: its new length, drafts accepted, its records, tokens emitted, the last
token, and the reason it ends for, 0 for none. -/
structure SeqOut where
  seq : Nat
  len : Nat
  accepted : Nat
  recs : Bytes
  emitted : Nat
  last : Option Nat
  ends : Nat
  deriving DecidableEq, Repr

/-- The END field and reason that an emitted token gives (R240, R242). -/
def endOf (req : AdmitReq) (emitted token : Nat) : Nat :=
  if token = req.stop0 ∨ token = req.stop1 then 1 else if req.maxNew ≤ emitted then 2 else 0

/-- A sequence output record (R242). -/
def seqRecord (id pos token fin step : Nat) : Bytes :=
  leBytes 4 id ++ leBytes 4 pos ++ leBytes 4 (token % 2 ^ 18 + fin * 2 ^ 18 + 2 ^ 31) ++ leBytes 4 step

/-- Emit selections in order until one ends the sequence: EMITTED, records, last token, reason (R240). -/
def emitAll (e : SeqEntry) (step : Nat) : Nat → List (Nat × Nat) → Nat × Bytes × Option Nat × Nat
  | n, [] => (n, [], none, 0)
  | n, x :: xs =>
    let fin := endOf e.req (n + 1) x.2
    let rec_ := seqRecord e.req.id x.1 x.2 fin step
    if fin ≠ 0 then (n + 1, rec_, some x.2, fin)
    else
      let r := emitAll e step (n + 1) xs
      (r.1, rec_ ++ r.2.1, some (r.2.2.1.getD x.2), r.2.2.2)

/-- The tokens of a sequence in a step. -/
def LenRec.toks (l : LenRec) (x : Step) : List Tok := (x.toks.drop l.first).take l.count

/-- The main graph's selection at the i-th token of a sequence. -/
def LenRec.sel (l : LenRec) (r : Results) (i : Nat) : Nat := lookupD 0 (l.first + i) r.selected

/-- The drafts of a sequence that the main graph accepts: d(j) = s(j − 1) for j = 1 … a (R246). -/
def acceptedOf (l : LenRec) (x : Step) (r : Results) : Nat :=
  let ds := (l.toks x).drop 1
  (((ds.zipIdx).takeWhile (fun d => d.1.token == l.sel r d.2)).length)

/-- Does a step feed prompt tokens of an entry, from a base position? -/
def SeqEntry.feeds (e : SeqEntry) (base : Nat) : Bool := decide (base < e.p0 + e.req.promptLen)

/-- Does a step that feeds a prompt complete it? -/
def SeqEntry.completes (e : SeqEntry) (l : LenRec) : Bool := e.feeds l.base && decide (e.p0 + e.req.promptLen ≤ l.base + l.count)

/-- How an entry comes out of a main or standalone step (R219, R240, R246). -/
def SeqEntry.outcome (e : SeqEntry) (l : LenRec) (x : Step) (r : Results) : SeqOut :=
  let step := x.number.toNat
  if e.feeds l.base then
    let sels := if e.completes l then [(l.base + l.count - 1, l.sel r (l.count - 1))] else []
    let y := emitAll e step e.emitted sels
    ⟨e.req.id, l.base + l.count, 0, y.2.1, y.1, y.2.2.1, y.2.2.2⟩
  else
    let a := acceptedOf l x r
    let sels := (List.range (a + 1)).map (fun i => (l.base + i, l.sel r i))
    let y := emitAll e step e.emitted sels
    ⟨e.req.id, l.base + a + 1, a, y.2.1, y.1, y.2.2.1, y.2.2.2⟩

/-- The acceptance average and cool-down after a verification step, under SPEC_MIN and SPEC_COOLDOWN as the last build found
them (R235, R247). -/
def coolDown (cfg : Nat × Nat) (k a : Nat) (t : SeqTimes) : SeqTimes :=
  if 0 < t.cooldown then
    { t with cooldown := t.cooldown - 1, accAvg := if t.cooldown = 1 then Nat.min 0x8000 (2 * cfg.1) else t.accAvg }
  else if 0 < k then
    let avg := ((t.accAvg : Int) + (((32768 * a / k : Nat) : Int) - (t.accAvg : Int)) / 4).toNat
    { t with accAvg := avg, cooldown := if avg < cfg.1 then cfg.2 else t.cooldown }
  else t

/-- STATE after a step that fed an entry (R240). -/
def stateAfter (done : Bool) : SeqState → SeqState
  | .waiting => if done then .decode else .prefill
  | .prefill => if done then .decode else .prefill
  | st => st

/-- An entry after a committed main or standalone step, its lengths and pages apart (R240, R242, R246, R247). -/
def SeqEntry.afterStep (cfg : Nat × Nat) (l : LenRec) (x : Step) (o : SeqOut) (wrote : Bool) (t : Nat) (e : SeqEntry) : SeqEntry :=
  let feeding := e.feeds l.base
  let done := e.completes l
  let st (y : SeqState) : SeqState := if feeding then stateAfter done y else y
  let ts := { e.times with
    lastStep := x.number.toNat,
    firstEmit := if o.last.isSome ∧ e.emitted = 0 then t else e.times.firstEmit,
    lastEmit := if o.last.isSome then t else e.times.lastEmit }
  let ts := if x.kind = .verify ∧ e.req.specOk = true ∧ feeding = false then
      { coolDown cfg l.spec o.accepted ts with
        drafted := Nat.min 0xFFFFFFFF (ts.drafted + l.spec), acceptedN := Nat.min 0xFFFFFFFF (ts.acceptedN + o.accepted) }
    else ts
  { e with
    emitted := o.emitted, nextToken := o.last.getD e.nextToken,
    outNext := if wrote then (e.outNext + 1) % Nat.max 1 e.req.outSlots else e.outNext,
    state := st e.state, resume := e.resume.map st, times := ts }

/-- A job's entry after a step: the main graph's length and pages, and, after a verification step, the draft graph's (R219,
R220, R246). -/
def Job.commitSeq (j : Job) (g : Graph) (dg : Option Graph) (x : Step) (l : LenRec) (o : SeqOut) (wrote : Bool) (t : Nat) :
    Job :=
  let spec := j.seqs.any (fun e => e.req.id == l.seq && e.req.specOk)
  let j := j.settle g false l.seq o.len
  let j := match dg with
    | some d => if x.kind = StepKind.verify ∧ spec = true then j.settle d true l.seq o.len else j
    | none => j
  j.updSeq l.seq (fun e => e.afterStep j.serving.spec l x o wrote t)

/-- The sequences of a step that are still in the table, with how each comes out and its ring slot when it writes one. -/
def Job.outcomes (j : Job) (x : Step) (r : Results) : List (LenRec × SeqEntry × SeqOut × Option Nat) :=
  x.lens.filterMap (fun l => (j.seqs.find? (fun e => e.req.id == l.seq)).map (fun e =>
    let o := e.outcome l x r
    (l, e, o, if o.recs = [] ∨ e.cancel = true then none else some (e.req.outRing + e.outNext))))

/-- A committed round's duration joins the last sixteen (R236). -/
def Serving.roundDone (v : Serving) (t : Nat) : Serving :=
  match v.roundStart with
  | none => { v with current := [], drafts := [] }
  | some b =>
    let ts := v.times ++ [t - b]
    { v with times := ts.drop (ts.length - 16), roundStart := none, current := [], drafts := [] }

/-- Commit the last step of a round (R145, R240-R247). -/
def State.commitRound (s : State) (j : Job) (x : Step) (r : Results) (t : Nat) : State :=
  let os := j.outcomes x r
  let dg := s.draftOf j
  let s := s.updJob j.handle (fun j =>
    { os.foldl (fun j o => j.commitSeq x.env.graph dg x o.1 o.2.2.1 o.2.2.2.isSome t) j with
      serving := j.serving.roundDone t })
  let s := os.foldl (fun s o => match o.2.2.2 with
    | none => s
    | some k => s.slotWrite j.part k (fitBytes (s.planRec j.part).slotSize o.2.2.1.recs)) s
  let s := s.commitCounts j x r t
  let s := s.stepOver j.handle x
  let s := (s.tidyJob j.handle).returnSlots j.part (os.filterMap (·.2.2.2))
  (os.filter (fun o => o.2.2.1.ends != 0)).foldl (fun s o => match s.job j.handle with
    | none => s
    | some j => match j.seqs.find? (fun e => e.req.id == o.1.seq) with
      | none => s
      | some e => s.seqLeave j e (if e.cancel then 3 else o.2.2.1.ends) x.number.toNat t) s

/-- Commit a draft step: the drafts are staged for the verification step, no length changes (R245); LAST_STEP names it as the
last step that fed its sequences (R231). -/
def State.commitDraft (s : State) (j : Job) (x : Step) (r : Results) (t : Nat) : State :=
  let s := s.updJob j.handle (fun j => { j with
    serving := { j.serving with drafts := r.drafts },
    seqs := updIf (fun e => x.lens.any (fun l => l.seq == e.req.id))
      (fun e => { e with times := { e.times with lastStep := x.number.toNat } }) j.seqs })
  let s := (s.commitCounts j x r t).stepOver j.handle x
  s.tidyJob j.handle

/-! ## The commit of any step -/

/-- Does a step complete the prompt of a sequence that it feeds in prefill (R70)? -/
def Job.promptDone (j : Job) (l : LenRec) : Bool := j.seqs.any (fun e => e.req.id == l.seq && e.completes l)

/-- Commit the step of a job at a boundary (R144, R145). -/
def State.commitStep (s : State) (j : Job) (x : Step) (r : Results) (t : Nat) : State :=
  let j1 := j.mergeStep x r j.promptDone
  let s := (s.updJob j.handle (fun _ => j1)).storeKv j1 x r
  match x.kind with
  | .direct p m slot => s.commitDirect j1 x r p m slot t
  | .draft => s.commitDraft j1 x r t
  | _ => s.commitRound j1 x r t

/-- Has every rank completed the step before a boundary's instant (R147, R326)? -/
def Job.commits (j : Job) (x : Step) (t : Nat) : Bool :=
  match x.phase with
  | .complete tc =>
    if j.nRanks = 1 then decide (tc < t)
    else match x.b0 with
      | none => false
      | some b => decide (b + j.period ≤ t)
  | _ => false

/-- Rank 0 at a boundary: it sends its STEP_DONE with B0 when it held the merged message and every other rank's STEP_DONE
before the boundary's instant (R326). -/
def State.sendDone (s : State) (h t : Nat) : State :=
  match s.job h with
  | none => s
  | some j => match j.step with
    | none => s
    | some x =>
      let held := match x.merged with | some m => decide (m < t) | none => false
      if 1 < j.nRanks ∧ j.rank = 0 ∧ x.b0 = none ∧ held = true ∧ j.others.all (x.doneFrom.contains ·) = true
          ∧ x.doneTimes.all (fun d => decide (d < t)) = true then
        (s.updStep h (fun y => { y with b0 := some t })).control h j.others 1 0 0 x.number.toNat t
      else s

end Sys2Proof.Machine
end

