-- ==== Sys2Proof/Machine/Serving.lean ====
section
/-! DEFINITION. What the next step is: RUN_STEP's second stage (R141, R213), the step builder (R235-R238, R244), the launch
of a built round (R239, R245, R246), and the re-run of a killed step (R148). -/
namespace Sys2Proof.Machine

/-! ## Direct mode (R139-R141, R206) -/

/-- The length-table records of a work list, from entry `i` (R206): runs of one sequence; position 0 discards (R141). -/
def lensOf : Nat → List Tok → List LenRec
  | _, [] => []
  | i, t :: ts =>
    match lensOf (i + 1) ts with
    | [] => [⟨t.seq, i, 1, t.pos, 0, t.pos == 0⟩]
    | l :: ls =>
      if l.seq = t.seq then ⟨t.seq, i, l.count + 1, t.pos, 0, t.pos == 0⟩ :: ls
      else ⟨t.seq, i, 1, t.pos, 0, t.pos == 0⟩ :: l :: ls

/-- The second stage of RUN_STEP's checks (R141). -/
def Job.secondStage (j : Job) (draft : Bool) (toks : List Tok) (lens : List LenRec) : Option Result :=
  let ended := (toks.filter (·.fin)).map (·.seq)
  let held := ((j.direct.map (·.id)) ++ (lens.map (·.seq)).filter (fun i => !j.direct.any (fun e => e.id == i))).filter
    (fun i => !ended.contains i)
  match lens.find? (fun l => l.base != 0 && l.base != (j.kvIn draft l.seq).len) with
  | some l => some (failAt 0x8301 (16 * l.first + 4))
  | none => if seqSlots < held.length ∨ j.seqMode = true then some (failAt 0x8301 noField) else none

/-- Try to launch one RUN_STEP at a boundary: it launches, or it is answered with its failure (R141, R213). -/
def State.launchDirect (s : State) (h t : Nat) (c : Cmd) : State :=
  match s.job h with
  | none => s
  | some j =>
    if j.step.isSome then s
    else
      let draft := u8 c.body 8 % 4 == 1
      let lens := lensOf 0 c.toks
      match s.stepGraphOf j draft, j.secondStage draft c.toks lens with
      | none, _ => s.answer c t (failAt 0x8003 8)
      | some _, some r => s.answer c t r
      | some g, none => match allocStep g j draft lens with
        | none => s.answer c t (fail 0x8202)
        | some (j', ps) => s.startStep j' g (.direct c.p c.m (u32 c.body 0x0C)) draft c.toks lens [] ps t

/-- The RUN_STEPs that wait for a job, in the order of R146. -/
def flipOrder (cs : List Cmd) : List Cmd :=
  sortBy (fun a b => decide (a.flip < b.flip) || (a.flip == b.flip && decide (a.m.val ≤ b.m.val))) cs

/-- Launch the first RUN_STEP that stands; those before it that fail are answered. -/
def State.launchDirects (s : State) (h t : Nat) : State :=
  (flipOrder (s.cmds.filter (fun c => c.job == h && c.code == 0x30 && !c.sched))).foldl (fun s c => s.launchDirect h t c) s

/-! ## The step builder (R236-R238, R244) -/

/-- t_est of a job (R236). -/
def Job.tEst (j : Job) : Nat :=
  if j.serving.times.length < 16 then j.cfg.tEstInit else sumN j.serving.times / j.serving.times.length

/-- The slack of a sequence without a target (R237). -/
def bigSlack : Int := 2 ^ 62

/-- A key kept in 64 signed bits (R237). -/
def sat64 (x : Int) : Int := clampI (-(2 ^ 63)) (2 ^ 63 - 1) x

/-- What the builder sees of an entry: its tokens in the step in flight, and its length once that step commits as launched
(R237). -/
structure Seen where
  e : SeqEntry
  inFlight : Option LenRec
  len : Nat
  deriving DecidableEq, Repr

/-- An entry as the builder sees it. -/
def seenOf (x : Option Step) (e : SeqEntry) : Seen :=
  match x with
  | none => ⟨e, none, e.main.len⟩
  | some x => match x.lens.find? (fun l => l.seq == e.req.id) with
    | none => ⟨e, none, e.main.len⟩
    | some l => ⟨e, some l, l.base + l.count⟩

/-- Prompt tokens neither fed nor in the step in flight (R237). -/
def Seen.remain (v : Seen) : Nat := v.e.p0 + v.e.req.promptLen - v.len

/-- Does a token of the sequence in the step in flight emit (R237)? -/
def Seen.emits (v : Seen) : Bool :=
  match v.inFlight with
  | none => false
  | some l => !v.e.feeds l.base || v.e.completes l

/-- The key of a sequence (R237). -/
def Seen.key (cfg : JobCfg) (now tEst : Nat) (v : Seen) : Int :=
  let slack : Int :=
    if v.e.state = .draining then bigSlack
    else if v.e.emitted = 0 ∧ v.emits = false then
      if v.e.req.ttft = 0 then bigSlack
      else (v.e.times.admitTime : Int) + v.e.req.ttft * 1024 - (now + ceilDiv v.remain cfg.chunkMax * tEst : Nat)
    else
      let last := if v.emits then now else v.e.times.lastEmit
      if v.e.req.tbt = 0 then bigSlack else (last : Int) + v.e.req.tbt * 1024 - (now + tEst : Nat)
  sat64 (slack - (v.e.times.age * cfg.agingTicks : Nat))

/-- Is an entry in a state that the builder schedules (R232)? -/
def SeqEntry.eligible (e : SeqEntry) : Bool := e.state != .paused

/-- The draft length R244 gives an entry that has no prompt tokens left. -/
def Job.draftLen (j : Job) (e : SeqEntry) : Nat :=
  if j.dref.isNone || !e.req.specOk || e.cancel || decide (0 < e.times.cooldown) then 0 else e.req.draftK

/-- The frames, by B, that `n` positions of a sequence from `len` need in a graph beside its entries and those a step in
flight has staged for it (R237). -/
def framesFor (g : Graph) (j : Job) (draft : Bool) (staged : List (Nat × Pte)) (id len n : Nat) : List (Nat × Nat) :=
  let have_ := (j.kvIn draft id).pt.filter (·.valid) ++ (staged.filter (fun e => e.1 == id)).map (·.2)
  let first := len / 16
  (attends g j.nRanks j.rank).filterMap (fun a =>
    if a.2 = 0 then none
    else some (a.2, ((List.range' first ((len + n - 1) / 16 + 1 - first)).filter (fun p =>
      !have_.any (fun e => e.desc == a.1 && e.page == p))).length))

/-- The free frames of a job for a B. -/
def Job.freeOf (j : Job) (b : Nat) : Nat := sumN ((j.pools.filter (fun p => p.b == b)).map j.freeIn)

/-- Frames of a B among counts. -/
def framesOf (b : Nat) (xs : List (Nat × Nat)) : Nat := sumN ((xs.filter (fun x => x.1 == b)).map (·.2))

/-- What a build has chosen so far: items in order, the budget left, and frames reserved by B. -/
structure Built where
  items : List RoundItem
  budget : Nat
  frames : List (Nat × Nat)
  deriving DecidableEq, Repr

/-- The frames one sequence would need in every graph it runs. -/
def Job.needs (j : Job) (g : Graph) (dg : Option Graph) (x : Option Step) (v : Seen) (n : Nat) : List (Nat × Nat) :=
  let staged (draft : Bool) : List (Nat × Pte) := match x with
    | some x => if x.isDraft = draft then x.stagedPages else []
    | none => []
  framesFor g j false (staged false) v.e.req.id v.len n
    ++ (match dg with
        | some d => if v.e.req.specOk then framesFor d j true (staged true) v.e.req.id v.len n else []
        | none => [])

/-- Consider one sequence in order of keys (R237). -/
def Job.consider (j : Job) (g : Graph) (dg : Option Graph) (x : Option Step) (b : Built) (v : Seen) : Built :=
  if b.budget = 0 then b
  else
    let k := if 0 < v.remain then 0 else Nat.min (j.draftLen v.e) (b.budget - 1)
    let n := if 0 < v.remain then Nat.min v.remain (Nat.min j.cfg.chunkMax b.budget) else 1 + k
    let fs := b.frames ++ j.needs g dg x v n
    if fs.all (fun f => decide (framesOf f.1 fs ≤ j.freeOf f.1)) then
      ⟨b.items ++ [⟨v.e.req.id, n, k, v.e.times.age⟩], b.budget - n, fs⟩
    else b

/-- The items of a round: every eligible sequence in order of its key, the lower slot first on a tie (R237, R238). -/
def Job.roundItems (j : Job) (g : Graph) (dg : Option Graph) (x : Option Step) (now : Nat) : List RoundItem :=
  let vs := (j.seqs.filter SeqEntry.eligible).map (seenOf x)
  let keyed := vs.map (fun v => (v.key j.cfg now j.tEst, v))
  let order := sortBy (fun a b => decide (a.1 < b.1) || (a.1 == b.1 && decide (a.2.e.slot ≤ b.2.e.slot))) keyed
  ((order.map (·.2)).foldl (j.consider g dg x) ⟨[], j.cfg.stepBudget, []⟩).items

/-- Set AGE of an entry. -/
def SeqEntry.setAge (e : SeqEntry) (a : Nat) : SeqEntry := { e with times := { e.times with age := a } }

/-- A job with its next round built: the appended sequences' AGE is 0, every other eligible one's rises (R237). -/
def Job.build (j : Job) (g : Graph) (dg : Option Graph) (x : Option Step) (now : Nat) : Job :=
  let is_ := j.roundItems g dg x now
  { j with
    seqs := updIf SeqEntry.eligible (fun e =>
      e.setAge (if is_.any (fun i => i.seq == e.req.id) then 0 else satTo 65535 e.times.age)) j.seqs,
    serving := { j.serving with
      built := if is_ = [] then none else some is_, spec := (j.cfg.specMin, j.cfg.specCooldown) } }

/-- Build a job's next round when it is in sequence mode and none is built (R237). -/
def State.buildRound (s : State) (h : Nat) (x : Option Step) (now : Nat) : State :=
  match s.job h with
  | none => s
  | some j =>
    if j.seqMode = true ∧ j.serving.built = none then
      match s.mainOf j with
      | none => s
      | some g => s.updJob h (fun j => j.build g (s.draftOf j) x now)
    else s

/-! ## Launching a round (R239, R245, R246) -/

/-- A sequence as a launch resolves it: its item, its entry, tokens fed, draft length (R239). -/
structure Resolved where
  item : RoundItem
  e : SeqEntry
  n : Nat
  k : Nat
  deriving DecidableEq, Repr

/-- Does an item feed prompt tokens? -/
def Resolved.feeding (r : Resolved) : Bool := r.e.feeds r.e.main.len

/-- Items 1 and 2 of R239 for one item of a round: none when it is removed; `cap` caps the draft length in a verification
step. A draft step emits nothing (R240), so its launch makes no ring test (`ring`). -/
def State.resolve (s : State) (j : Job) (ring : Bool) (cap : Nat → Nat) (i : RoundItem) : Option Resolved :=
  match j.seqs.find? (fun e => e.req.id == i.seq) with
  | none => none
  | some e =>
    let feeding := e.feeds e.main.len
    let remain := e.p0 + e.req.promptLen - e.main.len
    let n := Nat.min i.n remain
    let k := if feeding then 0
      else Nat.min (cap i.seq) (if j.draftLen e = 0 then 0 else Nat.min i.k (e.req.maxNew - e.emitted - 1))
    let emits := !feeding || decide (remain ≤ i.n)
    if e.state = .paused then none
    else if ring = true ∧ emits = true ∧ e.state ≠ .draining ∧ s.slotOwned j.part (e.req.outRing + e.outNext) = false then none
    else some ⟨i, e, if feeding then n else 1 + k, k⟩

/-- The tokens of a resolved sequence (R239, R240, R245, R246). -/
def Resolved.toks (draft : Bool) (ds : Nat → List Nat) (r : Resolved) : List Tok :=
  let l := if draft then r.e.draft.len else r.e.main.len
  let tok (p token : Nat) (emit : Bool) : Tok := ⟨r.e.req.id, p, token, emit, false, r.e.req.topk, r.e.req.invTemp⟩
  if r.feeding then
    (List.range r.n).map (fun i =>
      let last := decide (i + 1 = r.n) && (draft || decide (r.e.p0 + r.e.req.promptLen ≤ l + r.n))
      tok (l + i) (r.e.prompt.getD (l + i - r.e.p0) 0) last)
  else
    (List.range (1 + r.k)).map (fun i =>
      tok (l + i) (if i = 0 then r.e.nextToken else (ds r.e.req.id).getD (i - 1) 0) true)

/-- The length-table record of a resolved sequence whose tokens begin at `first` (R206). -/
def Resolved.lenRec (draft : Bool) (first : Nat) (r : Resolved) : LenRec :=
  ⟨r.e.req.id, first, r.n, if draft then r.e.draft.len else r.e.main.len, r.k, false⟩

/-- Item 3 of R239: allocate sequence by sequence, removing those that find no frames. -/
def allocEach (g : Graph) (draft : Bool) : Job → List Resolved → Job × List (Resolved × List (Nat × Pte)) × List RoundItem
  | j, [] => (j, [], [])
  | j, r :: rs =>
    match allocPages j (newPages g j draft (r.lenRec draft 0)) with
    | none => let x := allocEach g draft j rs; (x.1, x.2.1, r.item :: x.2.2)
    | some (j', ps) => let x := allocEach g draft j' rs; (x.1, (r, ps) :: x.2.1, x.2.2)

/-- The length table of resolved sequences in work-list order (R206, R238). -/
def lenTable (draft : Bool) : Nat → List Resolved → List LenRec
  | _, [] => []
  | i, r :: rs => r.lenRec draft i :: lenTable draft (i + r.n) rs

/-- Sequences removed for want of frames age as though they had not been appended (R249). -/
def Job.ageBack (j : Job) (is_ : List RoundItem) : Job :=
  is_.foldl (fun j i => j.updSeq i.seq (fun e => e.setAge (satTo 65535 i.age))) j

/-- Launch a step of a round over resolved sequences; a round of which nothing is left is over. -/
def State.launchRound (s : State) (j : Job) (g : Graph) (kind : StepKind) (draft : Bool) (ds : Nat → List Nat)
    (rs : List Resolved) (rest : List RoundItem) (t : Nat) : State :=
  let a := allocEach g draft j rs
  let j := a.1.ageBack a.2.2
  let kept := a.2.1.map (·.1)
  if kept = [] then
    s.updJob j.handle (fun _ => { j with serving := { j.serving with current := [], drafts := [], roundStart := none } })
  else
    let toks := kept.flatMap (Resolved.toks draft ds)
    let prefill := (kept.filter (fun r => r.feeding && (r.e.state == .waiting || r.e.state == .prefill))).map (·.e.req.id)
    let items := if draft then rest.filter (fun i => kept.any (fun r => r.item.seq == i.seq)
        || j.seqs.any (fun e => e.req.id == i.seq && !e.req.specOk)) else kept.map (·.item)
    let j : Job := { j with serving := { j.serving with
      current := items, built := if kind = StepKind.verify then j.serving.built else none,
      roundStart := if kind = StepKind.verify then j.serving.roundStart else some t } }
    s.startStep j g kind draft toks (lenTable draft 0 kept) prefill (a.2.1.flatMap (·.2)) t

/-- Launch the first step of a built round: the draft step of a paired job, over the sequences whose SPEC_OK is 1; where no
such sequence is left, or the job is unpaired, the round's one step (R239, R245). -/
def State.launchBuilt (s : State) (j : Job) (g : Graph) (is_ : List RoundItem) (t : Nat) : State :=
  let j : Job := { j with serving := { j.serving with built := none } }
  let rs := is_.filterMap (s.resolve j true (fun _ => 8))
  match s.draftOf j with
  | some d =>
    let ds := (is_.filterMap (s.resolve j false (fun _ => 8))).filter (·.e.req.specOk)
    if (allocEach d true j ds).2.1 = [] then
      s.launchRound (j.ageBack (ds.map (·.item))) g .round false (fun _ => []) (rs.filter (fun r => !r.e.req.specOk)) [] t
    else s.launchRound j d .draft true (fun _ => []) ds is_ t
  | none => s.launchRound j g .round false (fun _ => []) rs [] t

/-- Launch the verification step of the round under way (R246). -/
def State.launchVerify (s : State) (j : Job) (g : Graph) (t : Nat) : State :=
  let ds (i : Nat) : List Nat := lookupD [] i j.serving.drafts
  let rs := j.serving.current.filterMap (s.resolve j true (fun i => (ds i).length))
  s.launchRound j g .verify false ds rs [] t

/-- Is the round under way waiting for its verification step: its draft step has committed? -/
def Job.verifying (j : Job) : Bool := !j.serving.current.isEmpty

/-- Launch in sequence mode (R239): the verification step of a round under way, else the built round. -/
def State.launchSeq (s : State) (h t : Nat) : State :=
  match s.job h with
  | none => s
  | some j => match s.mainOf j with
    | none => s
    | some g =>
      if j.step.isSome then s
      else if j.verifying then s.launchVerify j g t
      else match j.serving.built with
        | none => s
        | some is_ => s.launchBuilt j g is_ t

/-! ## Re-runs (R148) -/

/-- A re-run that finds too few frames does not launch: RUN_STEP ends with 0x8202; a round is discarded (R148). -/
def State.discardStep (s : State) (j : Job) (x : Step) (t : Nat) : State :=
  let s := (s.updJob j.handle Job.dropRound).tidyJob j.handle
  match x.kind with
  | .direct p m _ => match s.cmdAt p m with
    | none => s
    | some c => s.answer c t (fail 0x8202)
  | _ => s

/-- Launch the re-run of a killed step (R148). -/
def State.rerunStep (s : State) (j : Job) (x : Step) (t : Nat) : State :=
  match s.stepGraphOf j x.isDraft with
  | none => s
  | some g => match allocStep g j x.isDraft x.lens with
    | none => s.discardStep j x t
    | some (j', ps) =>
      let first := x.kind = StepKind.draft ∨ x.kind = StepKind.round
      let j' : Job := if first then { j' with serving := { j'.serving with roundStart := some t } } else j'
      s.restartStep j' g x ps t

/-! ## Item 5 of R146 -/

/-- Launch the next step of a job at a boundary: the re-run first, then a waiting RUN_STEP, then a round; and build the next
round behind the last step of a round, or for the next boundary when none is in flight (R146, R237). -/
def State.launchNext (s : State) (h t : Nat) : State :=
  match s.job h with
  | none => s
  | some j =>
    match j.step with
    | some x =>
      if x.phase = .killed ∧ x.noRerun = false then s.rerunStep j x t else s
    | none =>
      let s := (s.launchDirects h t).launchSeq h t
      match s.job h with
      | none => s
      | some j => match j.step with
        | some x => if x.kind = StepKind.draft then s else s.buildRound h (some x) (t + j.tEst)
        | none => if j.verifying then s else s.buildRound h none (t + j.period)

end Sys2Proof.Machine
end

