-- ==== Sys2Proof/Machine/Peers.lean ====
section
/-! DEFINITION. Peers of the fabric: how they are named, their violations and quarantine (R285, R304, R311, R312). -/
namespace Sys2Proof.Machine

/-! ## Names of peers -/

/-- The module that a fabric address belongs to, for any of its six ports; none for another form of address (R285). -/
def memberOfMac (a : BitVec 48) : Option Member :=
  let x := a.toNat
  if x / 2 ^ 40 = 0x06 ∧ x / 2 ^ 24 % 16 < 6 then
    some ⟨x / 2 ^ 32 % 256 * 16 + x / 2 ^ 28 % 16, x / 2 ^ 16 % 256, x % 65536⟩
  else none

/-! ## Quarantine (R312) -/

/-- The commands of a job that need the fabric fail, now that a peer is quarantined: its ships, and the RUN_STEPs running and
waiting (R226, R312). -/
def State.failFabric (s : State) (h : Nat) : State :=
  let s := s.failShips h s.now
  match s.job h with
  | none => s
  | some j =>
    let direct := match j.step with | some x => (match x.kind with | .direct .. => true | _ => false) | none => false
    let s := if direct then (s.updJob h Job.dropRound).tidyJob h else s
    (s.cmds.filter (fun c => c.job == h && c.code == 0x30 && !c.sched)).foldl (fun s c => s.finish c (fail 0x8601)) s

/-- Quarantine a peer of a job: nothing more goes to it, the job's command is killed, and the job's commands fail; `tell`
sends ABORT, with the NAK reason of the violation as its REASON, and posts the event (R312, R313). -/
def State.quarantine (s : State) (h peer count reason : Nat) (tell : Bool) : State :=
  let s : State := { s with net := { s.net with
    quarantined := s.net.quarantined ++ [(h, peer)], fabCounters :=
      { s.net.fabCounters with quarantines := if tell then satInc s.net.fabCounters.quarantines
                                              else s.net.fabCounters.quarantines } } }
  match s.job h with
  | none => s
  | some j =>
    let s := s.killStep h 6 tell
    let s := if tell then
        (s.control h j.others 3 peer reason (match j.step with | some x => x.number.toNat | none => 0) 0).postPart j.part
          { event 0x0033 s.now with job := h, arg0 := peer, arg1 := count }
      else s
    s.failFabric h

/-- A source address that is no rank of the job, as the number its violations count under (R311). -/
def strangerId (src : BitVec 48) : Nat := 2 ^ 48 + src.toNat

/-- Count a violation from a peer of a job, NAKed with a reason; at FAB_VIOL_LIMIT within FAB_VIOL_WINDOW the peer is
quarantined (R312). An address that is no peer of the job only counts (DEDUCED, notes/assumptions/85.md). -/
def State.violation (s : State) (h peer reason : Nat) : State :=
  let fresh := s.net.viols.filter (fun v => decide (s.now < v.2.2 + s.cfg.fabViolWindow))
  let vs := fresh ++ [(h, peer, s.now)]
  let n := (vs.filter (fun v => v.1 == h && v.2.1 == peer)).length
  let s : State := { s with net := { s.net with viols := vs } }
  if s.cfg.fabViolLimit ≤ n ∧ peer < 2 ^ 48 ∧ s.net.quarantined.contains (h, peer) = false then s.quarantine h peer n reason true
  else s

/-- Change the fabric counters. -/
def State.fabCount (s : State) (f : FabCounters → FabCounters) : State :=
  { s with net := { s.net with fabCounters := f s.net.fabCounters } }

/-- An ABORT from a rank of the job: the rank it names is quarantined here too (R312, R313). -/
def State.abortArrive (s : State) (job rank : Nat) : State :=
  match s.job job with
  | none => s
  | some j =>
    if rank < j.nRanks ∧ rank ≠ j.rank ∧ s.net.quarantined.contains (job, rank) = false then s.quarantine job rank 0 0 false
    else s

/-- CONTROL_ABORT (R312, R313). -/
def execControlAbort (job rank : Nat) (s : State) : Host.Outcome State Fault Refusal := .next (s.abortArrive job rank)

/-! ## Records of a step (R304, R310, R314, R315) -/

/-- SRC_RANK and DST_RANK of a frame that this module sends on the reverse of a stream (R303, R304): `last` is the SRC_RANK
of the stream's last frame. -/
def State.ranksOf (s : State) (k : StreamKey) (last : Nat) : Nat × Nat :=
  if k.job = 0 then (if k.cls = 5 then (last, last) else (0xFF, 0xFF))
  else ((match s.job k.job with | some j => j.rank | none => 0), k.peer)

/-- The ACK frame of a stream (R302, R303, R308). -/
def State.ackOut (s : State) (port : FabPort) (x : RxStream) : Out :=
  let r := s.ranksOf x.key x.rank
  .fabAck port x.key x.expected ((s.wire x.key).frame port
    (fabHeader x.key r.1 r.2 1 0 0 0 0 (4 + 256 * s.portsUp.toNat) x.expected.toNat 0))

/-- A NAK frame (R302, R303, R305); it carries no acknowledgement (DESIGN CHOICE, notes/assumptions/85.md). -/
def State.nakOut (s : State) (port : FabPort) (k : StreamKey) (rank : Nat) (seq : BitVec 32) (reason : Nat) : Out :=
  let r := s.ranksOf k rank
  .fabNak port k seq reason ((s.wire k).frame port
    (fabHeader k r.1 r.2 2 reason seq.toNat 0 0 (256 * s.portsUp.toNat) 0 0))

/-- Count a record field out of range and NAK it BAD_LENGTH on the stream that brought it, a violation (R311). -/
def State.badRecord (s : State) (job rank cls : Nat) : State :=
  let s := match s.net.rx.find? (fun x => x.key == ⟨job, rank, cls⟩) with
    | some x => s.emit (s.nakOut x.port x.key x.rank (x.expected - 1) 4)
    | none => s
  (s.fabCount (fun c => { c with badRecord := satInc c.badRecord })).violation job rank 4

/-- A record of another step is discarded; a step number that is not comparable with the one in flight is a violation too
(R310, R332). -/
def State.otherStep (s : State) (job rank cls step : Nat) : State :=
  match s.job job with
  | none => s
  | some j => match j.step with
    | none => s
    | some x => if serialCmp 32 step x.number.toNat = .notComparable then s.badRecord job rank cls else s

/-- The step of an open job that a record of a step number may reach: the one in flight (R310). -/
def State.stepFor (s : State) (job step : Nat) : Option (Job × Step) :=
  match s.job job with
  | none => none
  | some j => match j.step with
    | none => none
    | some x => if x.number.toNat = step ∧ x.phase ≠ .killed ∧ j.lost = false then some (j, x) else none

/-- Is a REDUCE record in range (R106, R314)? -/
def reduceOk (n : Nat) (g : Graph) (x : Step) (r : ReduceRec) : Bool :=
  decide (r.rank < n ∧ r.desc < g.descs.length ∧ r.token < x.toks.length ∧ r.shift ≤ 32 ∧ r.dir ≤ 1 ∧ r.vals.length = 256)
    && (match g.descs[r.desc]? with | some d => decide (r.block < ceilDiv d.outDim 256) | none => false)
    && r.vals.all (fun v => decide (-32767 ≤ v ∧ v ≤ 32767))

/-- A REDUCE record: out of range it counts, of another step it is discarded, else the step holds it (R109, R314). -/
def State.reduceArrive (s : State) (job : Nat) (r : ReduceRec) : State :=
  match s.stepFor job r.step with
  | none => s.otherStep job r.rank 2 r.step
  | some (j, x) =>
    if reduceOk j.nRanks x.env.graph x r then (s.updStep job (fun y => { y with reduces := y.reduces ++ [r] })).runOnReady job
    else s.badRecord job r.rank 2

/-- REDUCE_RECORD (R314). -/
def execReduceRecord (job : Nat) (rec : ReduceRec) (s : State) : Host.Outcome State Fault Refusal :=
  .next (s.reduceArrive job rec)

/-- Is a GATHER or TERM record in range (R315)? -/
def gatherOk (n : Nat) (g : Graph) (x : Step) (r : GatherRec) : Bool :=
  decide (r.rank < n ∧ r.desc < g.descs.length ∧ r.token < x.toks.length ∧ 1 ≤ r.blocks.length ∧ r.blocks.length ≤ 204)
    && (match g.descs[r.desc]? with
        | some d => decide (r.first + r.blocks.length ≤ ceilDiv d.outDim 64) && r.wisp3 == d.wisp3
        | none => false)
    && r.blocks.all (fun b => b.length == (if r.wisp3 then 24 else 40))

/-- Has a STATS body the fields that R316 gives it, each of 32 bits: per sequence of the length table the statistics and the
trigger bits, then the counts per descriptor, and in an audit step those per predicted descriptor? -/
def statsOk (x : Step) (b : StatsBody) : Bool :=
  let ds := x.env.graph.descs
  let wins := (ds.filter Desc.keepsWin).length
  let bits := sumN ((ds.filter Desc.keepsCd).map Desc.wideBlocks)
  let banks := if x.audits then (ds.filter Desc.predicts).length else 0
  decide (b.ms.length = x.lens.length ∧ b.trigs.length = x.lens.length ∧ b.clamps.length = ds.length ∧ b.lnsSats.length = ds.length
      ∧ b.active.length = banks ∧ b.missed.length = banks)
    && b.ms.all (fun m => m.length == wins) && b.trigs.all (fun t => t.length == bits)
    && (b.ms.flatten ++ b.clamps ++ b.lnsSats ++ b.active ++ b.missed).all (fun v => decide (v < 2 ^ 32))

/-- A STATS message: out of range it counts, of another step it is discarded, else it joins the merge (R311, R316). -/
def State.statsRecord (s : State) (job rank step : Nat) (down : Bool) (b : StatsBody) : State :=
  match s.stepFor job step with
  | none => s.otherStep job rank 4 step
  | some (_, x) => if statsOk x b then s.statsArrive job rank step down b else s.badRecord job rank 4

/-- STATS_MESSAGE (R316). -/
def execStatsMessage (job rank step : Nat) (down : Bool) (body : StatsBody) (s : State) :
    Host.Outcome State Fault Refusal := .next (s.statsRecord job rank step down body)

/-- A GATHER record (R154, R315). -/
def State.gatherArrive (s : State) (job : Nat) (r : GatherRec) : State :=
  match s.stepFor job r.step with
  | none => s.otherStep job r.rank 1 r.step
  | some (j, x) =>
    if gatherOk j.nRanks x.env.graph x r then (s.updStep job (fun y => { y with gathers := y.gathers ++ [r] })).runOnReady job
    else s.badRecord job r.rank 1

/-- GATHER_RECORD (R315). -/
def execGatherRecord (job : Nat) (rec : GatherRec) (s : State) : Host.Outcome State Fault Refusal :=
  .next (s.gatherArrive job rec)

/-- A TERM record: as a GATHER record, with token-scale word 0x00_0001 (R192, R315). -/
def State.termArrive (s : State) (job : Nat) (r : GatherRec) : State :=
  match s.stepFor job r.step with
  | none => s.otherStep job r.rank 3 r.step
  | some (j, x) =>
    if gatherOk j.nRanks x.env.graph x r = true ∧ r.scaleWord = tokOne then
      (s.updStep job (fun y => { y with terms := y.terms ++ [r] })).runOnReady job
    else s.badRecord job r.rank 3

/-- TERM_RECORD (R192, R315). -/
def execTermRecord (job : Nat) (rec : GatherRec) (s : State) : Host.Outcome State Fault Refusal :=
  .next (s.termArrive job rec)

end Sys2Proof.Machine
end

