-- ==== Sys2Proof/Machine/Firmware.lean ====
section
/-! DEFINITION. Firmware: manifests, deltas, staging, forwarding and activation (R387-R396, R400). -/
namespace Sys2Proof.Machine

/-! ## Manifests and headers (R387, R388) -/

/-- The chain of a manifest (R387). -/
def manifestChain (b : Bytes) : List Member := (List.range (Nat.min 64 (u8 b 0x1E))).map (fun i => memberAt b (0x100 + 8 * i))

/-- Read a manifest (R387), with the verdicts on its signatures. -/
def manifestOf (b : Bytes) (sigs : Sigs) : Manifest where
  full := bit (u8 b 6) 0
  firstStage := bit (u8 b 6) 1
  version := u32 b 8
  baseVersion := u32 b 0x0C
  targetBytes := u32 b 0x10
  deltaBytes := u32 b 0x14
  tableFormat := u16 b 0x18
  migrateFrom := u16 b 0x1A
  planVersion := u16 b 0x1C
  chain := manifestChain b
  baseDigest := BitVec.ofNat 384 (leNat (sub b 0x20 48))
  targetDigest := BitVec.ofNat 384 (leNat (sub b 0x50 48))
  sigs := sigs

/-- MAGIC, FORMAT, ranges and reserved fields of a manifest (R387). -/
def manifestFormOk (b : Bytes) : Bool :=
  let n := u8 b 0x1E
  b.length == manifestBytes && u32 b 0 == 0x464E414D && u16 b 4 == 1 && decide (u16 b 6 < 4)
    && decide (64 ≤ u32 b 0x10 ∧ u32 b 0x10 ≤ (if bit (u8 b 6) 1 then 0x1F0000 else 0x3F00000))
    && decide (u16 b 0x1A ≤ u16 b 0x18 ∧ n ≤ 64) && u8 b 0x1F == 0 && zeroAt b 0x80 128
    && (List.range 64).all (fun i =>
      if i < n then (memberChecks b (0x100 + 8 * i)).all (·.2) else zeroAt b (0x100 + 8 * i) 8)
    && (if bit (u8 b 6) 0 then u32 b 0x0C == 0 && u32 b 0x14 == 0 && zeroAt b 0x20 48 else !bit (u8 b 6) 1)

/-- Do both signatures of an object verify (R375)? -/
def sigsOk (x : Sigs) : Bool := x.rsaOk && x.slhOk

/-- Does an image's header agree with its manifest (R388)? -/
def headerAgrees (m : Manifest) (im : Bytes) : Bool :=
  u32 im 0 == 0x474D4952 && u32 im 4 == m.version && u16 im 8 == m.tableFormat && u16 im 0x0A == m.migrateFrom
    && u16 im 0x0C == m.planVersion && decide (64 ≤ im.length) && zeroAt im 0x0E 50

/-! ## Deltas (R389) -/

/-- One record of a delta: the bytes it writes, and the record's own length; none when it is not valid. -/
def deltaRecord (base d : Bytes) : Option (Bytes × Nat) :=
  let n := u32 d 4
  let src := u64 d 8
  if d.length < 16 ∨ zeroAt d 1 3 = false ∨ n = 0 then none
  else match u8 d 0 with
    | 0 => if src + n ≤ base.length then some (sub base src n, 16) else none
    | 1 =>
      let pad := ceilDiv n 8 * 8
      if src = 0 ∧ 16 + pad ≤ d.length ∧ zeroAt d (16 + n) (pad - n) = true then some (sub d 16 n, 16 + pad) else none
    | 2 => if src = 0 then some (zeros n, 16) else none
    | _ => none

/-- The target that a delta writes, `room` bytes at most (R389); `fuel` bounds its records. -/
def applyDelta (base : Bytes) : Nat → Nat → Bytes → Option Bytes
  | 0, _, d => if d = [] then some [] else none
  | fuel + 1, room, d =>
    if d = [] then some []
    else if room < u32 d 4 then none
    else match deltaRecord base d with
      | none => none
      | some r => (applyDelta base fuel (room - r.1.length) (d.drop r.2)).map (r.1 ++ ·)

/-! ## Staging (R390) -/

/-- The image of the slot that is not current. -/
def Flash.other (f : Flash) : Option Image := if f.slotB then f.imageA else f.imageB

/-- The image of the current slot. -/
def Flash.current (f : Flash) : Option Image := if f.slotB then f.imageB else f.imageA

/-- Write the slot that is not current. -/
def Flash.setOther (f : Flash) (x : Image) : Flash := if f.slotB then { f with imageA := some x } else { f with imageB := some x }

/-- MIN_FW_VERSION of the block in CONFIG. -/
def State.minFw (s : State) : Nat := s.flash.config.minFw

/-- What staging a delta gives: the image, or the status of the first failing check (R390). -/
def State.stageImage (s : State) (man delta : Bytes) (sigs : Sigs) : Except Nat Image :=
  let m := manifestOf man sigs
  match s.fw.running with
  | none => .error 0x8702
  | some run =>
    if sigsOk sigs = false ∨ manifestFormOk man = false ∨ m.full = true ∨ m.firstStage = true ∨ m.deltaBytes ≠ delta.length then
      .error 0x8701
    else if m.baseVersion ≠ run.manifest.version ∨ m.baseDigest ≠ Config.sha384 run.bytes then .error 0x8702
    else if m.version < s.minFw ∨ run.manifest.tableFormat < m.migrateFrom ∨ m.tableFormat < run.manifest.tableFormat then
      .error 0x8701
    else match applyDelta run.bytes (delta.length / 8) m.targetBytes delta with
      | none => .error 0x8701
      | some im =>
        if im.length = m.targetBytes ∧ Config.sha384 im = m.targetDigest ∧ headerAgrees m im = true then .ok ⟨m, im⟩
        else .error 0x8701

/-- Put a verified image into the slot that is not current (R390). -/
def State.putStaged (s : State) (x : Image) (obj : Bytes) : State :=
  { s with flash := s.flash.setOther x, fw := { s.fw with staged := true, stagedObj := obj } }

/-- Does a partition hold MODULE_CFG (R334)? -/
def State.moduleRight (s : State) (p : PartId) : Option Result := needs (s.planRec p).moduleCfg

/-- FW_STAGE_DELTA, accepted (R390). -/
def acceptStageDelta (sigs : Bytes → Sigs) (c : Cmd) (s : State) : State :=
  s.immediate c (firstFault [noScope c, bodyFault c.body (bodyFields 0x60) [], s.moduleRight c.p]) (fun c s =>
    let man := s.slotRead c.p (u32 c.body 8) manifestBytes
    let delta := s.slotRead c.p (u32 c.body 0) (u32 c.body 4)
    match s.stageImage man delta (sigs man) with
    | .error st => (s, fail st)
    | .ok x => (s.putStaged x (man ++ delta), ok []))

/-- FW_STAGE_DELTA (R390). -/
def execFwStageDelta (p : PartId) (m : BoxId) (sigs : Sigs) (s : State) : Host.Outcome State Fault Refusal :=
  .next (s.serve p m 0x60 (acceptStageDelta (fun _ => sigs)))

/-- The verdicts on an enclosed command's object, which no operand gives. -/
def verdictOf (man : Bytes) : Sigs := let v := Config.sigVerdict man; ⟨v.1, v.2⟩

/-! ## Forwarding (R391-R393) -/

/-- The next module of a chain after this one. -/
def successor (own : Member) : List Member → Option Member
  | [] => none
  | [_] => none
  | a :: b :: ms => if a = own then some b else successor own (b :: ms)

/-- The FW header (R392). -/
def fwHeader (kind status objBytes version serial : Nat) : Bytes :=
  leBytes 1 kind ++ zeros 1 ++ leBytes 2 status ++ leBytes 4 objBytes ++ leBytes 4 version ++ zeros 4 ++ leBytes 8 serial
    ++ zeros 40

/-- The version of the staged image. -/
def State.stagedVersion (s : State) : Option Nat :=
  if s.fw.staged then s.flash.other.map (fun x => x.manifest.version) else none

/-- FW_FORWARD, accepted: the staged manifest and delta go to the next module of the chain (R391). -/
def acceptForward (c : Cmd) (s : State) : State :=
  let c := s.named c
  let chain := match s.flash.other with | some x => x.manifest.chain | none => []
  match firstFault [noScope c, s.moduleRight c.p,
      if s.fw.staged && !s.fw.stagedObj.isEmpty then none else some (fail 0x8703)] with
  | some r => s.finish c r
  | none => match successor s.coord.member chain with
    | none => s.finish c (fail 0x8704)
    | some m =>
      if s.memberLost m then s.finish c (fail 0x8601)
      else
        let s : State := { s.stage c with fw := { s.fw with forward := some (c.p, c.m, m) } }
        (s.emit (.fwMessage m 1 0 s.fw.stagedObj)).transmit ⟨0, m.code, 6⟩ (0xFF, 0xFF)
          (fwHeader 1 0 s.fw.stagedObj.length (s.stagedVersion.getD 0) 0 :: objPayloads s.fw.stagedObj)

/-- FW_FORWARD (R391). -/
def execFwForward (p : PartId) (m : BoxId) (s : State) : Host.Outcome State Fault Refusal :=
  .next (s.serve p m 0x62 acceptForward)

/-- End the pending FW_FORWARD. -/
def State.endForward (s : State) (r : Result) : State :=
  match s.fw.forward with
  | none => s
  | some f =>
    let s : State := { s with fw := { s.fw with forward := none } }
    match s.cmdAt f.1 f.2.1 with
    | none => s
    | some c => s.finish c r

/-- A violation BAD_FLAGS on a JOB 0 stream (R311, R393). -/
def State.badFlags (s : State) (peer : Nat) : State :=
  (s.fabCount (fun c => { c with badFlags := satInc c.badFlags })).violation 0 peer 7

/-- The answer of the next module: STAGED or REFUSED while a forward to it is pending; anything else is a violation (R391,
R393). -/
def State.stagedReply (s : State) (peer kind _status : Nat) : State :=
  match s.fw.forward with
  | none => s.badFlags peer
  | some f =>
    if f.2.2.code = peer ∧ kind = 6 then s.endForward (ok [])
    else if f.2.2.code = peer ∧ kind = 7 then s.endForward (fail 0x8704)
    else s.badFlags peer

/-- FW_STAGED_REPLY (R393). -/
def execFwStagedReply (peer kind status : Nat) (s : State) : Host.Outcome State Fault Refusal :=
  .next (s.stagedReply peer kind status)

/-- Is a FW header in order (R392)? -/
def fwHeaderOk (hdr obj : Bytes) : Bool :=
  u8 hdr 1 == 0 && u16 hdr 2 == 0 && u32 hdr 4 == obj.length && zeroAt hdr 0x0C 4 && zeroAt hdr 0x18 40

/-- Answer a transfer on the reverse stream (R392, R393). -/
def State.fwAnswer (s : State) (peer kind status : Nat) : State :=
  (s.emit (.fwReply peer kind status)).transmit ⟨0, peer, 6⟩ (0xFF, 0xFF) [fwHeader kind status 0 0 0]

/-- A forwarded delta: staged under R390 and answered on the reverse stream; any other kind, or a header with a reserved
field set, is a violation; one for another SERIAL is not this module's (R392, R393). -/
def State.deltaArrive (s : State) (peer : Nat) (hdr obj : Bytes) (sigs : Sigs) : State :=
  if u8 hdr 0 ≠ 1 ∨ fwHeaderOk hdr obj = false then s.badFlags peer
  else if u64 hdr 0x10 ≠ 0 ∧ u64 hdr 0x10 ≠ s.flash.serial.toNat then s
  else match s.stageImage (obj.take manifestBytes) (obj.drop manifestBytes) sigs with
    | .error st => s.fwAnswer peer 7 st
    | .ok x => (s.putStaged x obj).fwAnswer peer 6 0

/-- FW_DELTA_MESSAGE (R393). -/
def execFwDeltaMessage (peer : Nat) (hdr object : Bytes) (sigs : Sigs) (s : State) : Host.Outcome State Fault Refusal :=
  .next (s.deltaArrive peer hdr object sigs)

/-! ## Activation (R329, R394-R396) -/

/-- What R329 and the timebase give a command with an instant T that flipped at F: a failure, or none. -/
def State.instantFault (s : State) (t f : Nat) (late : Bool) : Option Result :=
  if s.tb.state = .unseeded ∨ s.tb.state = .armed ∨ s.tb.state = .lost then some (fail 0x8602)
  else if f < t then (if t - f ≤ 2 ^ 37 then none else some (fail 0x8604))
  else if late then none else some (fail 0x8603)

/-- A command with an instant fails while the timebase is not synchronised, or out of the window of R329. -/
def State.instantCheck (s : State) (c : Cmd) : Option Result := s.instantFault (u64 c.body 0) c.flip (bit (u8 c.body 8) 0)

/-- The reserved bits of FW_ACTIVATE_AT (R346). -/
def activateChecks (b : Bytes) : List (Nat × Bool) := [(8, decide (u32 b 8 < 2))]

/-- The fixed layout of FW_ACTIVATE_AT (R346). -/
def activateFields : Fields := [(0, 8), (8, 4), (0x0C, 4)]

/-- FW_ACTIVATE_AT that has reached its instant. -/
def State.activationDue (s : State) (t : Nat) : Option Cmd :=
  (s.cmds.filter (fun c => c.code == 0x61 && decide (u64 c.body 0 ≤ t))).head?

/-- Start the staged image: stored state is migrated, the slot selector moves, M_RUNNING and ACTIVATIONS follow (R395 items
2 to 4, R396). -/
def State.startImage (s : State) (x : Image) : State :=
  { s with
    flash := { s.flash with slotB := !s.flash.slotB },
    fw := { s.fw with
      running := some x, staged := false, stagedObj := [], mRunning := Config.sha384 x.bytes,
      activations := s.fw.activations + 1, tableFormat := Nat.max s.fw.tableFormat x.manifest.tableFormat } }

/-- The new image's stage programs at item 4: an installed job's cells get them and run their first step in credit mode; a
job that streams in starts again (R395 item 5, R400). -/
def State.newPrograms (s : State) (t : Nat) : State :=
  match s.active with
  | none => s
  | some h => match s.job h with
    | none => s
    | some j => match j.prog with
      | .installed => (s.installCells h t).updJob h (fun j => { j with credit := true })
      | .none => s
      | _ => s.streamIn h t

/-- Activate at an instant: the step is killed without counting, the image starts, its programs are installed, and the
command is answered; a VERSION that is not the staged image's ends it with 0x8703 (R394, R395). -/
def State.activate (s : State) (c : Cmd) (t : Nat) : State :=
  if s.stagedVersion ≠ some (u32 c.body 0x0C) then s.answer c t (fail 0x8703)
  else match s.flash.other with
    | none => s.answer c t (fail 0x8703)
    | some x =>
      let s := match s.active with | some h => s.killStep h 10 true | none => s
      ((s.startImage x).newPrograms t).answer c t (ok [])

/-- Activate whatever is due at an instant. -/
def State.activateDue (s : State) (t : Nat) : State :=
  (flipOrder (s.cmds.filter (fun c => c.code == 0x61 && decide (u64 c.body 0 ≤ t)))).foldl (fun s c => s.activate c t) s

/-- FW_ACTIVATE_AT, accepted: it waits for its instant, or, LATE, acts as soon as it can (R329, R394). -/
def acceptActivate (c : Cmd) (s : State) : State :=
  let c := s.named c
  match firstFault [noScope c, bodyFault c.body activateFields (activateChecks c.body), s.moduleRight c.p, s.instantCheck c] with
  | some r => s.finish c r
  | none =>
    let s := s.stage c
    if s.active.isNone then s.activateDue s.now else s

/-- FW_ACTIVATE_AT (R394). -/
def execFwActivateAt (p : PartId) (m : BoxId) (s : State) : Host.Outcome State Fault Refusal :=
  .next (s.serve p m 0x61 acceptActivate)

/-- Migration fails, or the new image is not READY within 2 s: the previous image goes on over the unchanged state, the
staged image stays staged, and the command ends with 0x8701 (R396). -/
def State.migrationFails (s : State) (t : Nat) : State :=
  match s.activationDue t with
  | none => s
  | some c =>
    if s.stagedVersion ≠ some (u32 c.body 0x0C) then s
    else
      let s := match s.active with | some h => s.killStep h 10 true | none => s
      s.answer c t (fail 0x8701)

/-- FW_MIGRATION_TIMEOUT (R396). -/
def execFwMigrationTimeout (t : Nat) (s : State) : Host.Outcome State Fault Refusal :=
  .next (let s := advance t s; s.migrationFails s.now)

end Sys2Proof.Machine
end

