-- ==== Sys2Proof/Machine/Schedule.lean ====
section
/-! DEFINITION. SCHEDULE_AT and the instants at which what it encloses runs (R328-R330). -/
namespace Sys2Proof.Machine

/-- What a command's code does when it is accepted (R343); the codes that may not be enclosed do nothing here (R330). -/
def acceptOf (code : Nat) (c : Cmd) (s : State) : State :=
  match code with
  | 0x01 => acceptQueryModule c s
  | 0x02 => acceptConfigSet c s
  | 0x10 => acceptLoadGraph c s
  | 0x11 => acceptLoadWeights c s
  | 0x12 => acceptPlace c s
  | 0x13 => acceptQueryPlacement c s
  | 0x20 => acceptOpen c s
  | 0x21 => acceptClose c s
  | 0x22 => acceptSwitch c s
  | 0x30 => acceptRunStep c s
  | 0x31 => acceptAdmit c s
  | 0x32 => acceptCancel c s
  | 0x33 => acceptPause c s
  | 0x34 => acceptResume c s
  | 0x35 => acceptShipKv c s
  | 0x36 => acceptAcceptKv c s
  | 0x50 => acceptReadCounters c s
  | 0x51 => acceptReadEvents c s
  | 0x60 => acceptStageDelta verdictOf c s
  | 0x62 => acceptForward c s
  | 0x80 => acceptDebug c s
  | _ => s

/-- The body of the enclosed command (R346). -/
def innerBody (b : Bytes) : Bytes := sub b 0x20 (u16 b 0x14)

/-- The enclosed command, as though flipped at T, or at F when T has passed (R328, R329). DETAIL of its body counts from the
enclosed body's first byte (DESIGN CHOICE, notes/assumptions/84.md). -/
def Cmd.inner (c : Cmd) : Cmd :=
  { c with code := u16 c.body 0x0A, job := u32 c.body 0x10, tag := u32 c.body 0x0C, flip := Nat.max c.flip (u64 c.body 0),
           body := innerBody c.body, sched := false, slots := [] }

/-- The codes that SCHEDULE_AT may enclose (R330, R346). -/
def innerCodes : List Nat := commandCodes.filter (fun k => k != 0x40 && k != 0x61 && k != 0x70)

/-- The fields of SCHEDULE_AT that have a range (R346). -/
def scheduleChecks (b : Bytes) : List (Nat × Bool) :=
  [(8, decide (u16 b 8 < 2)), (0x0A, innerCodes.contains (u16 b 0x0A)), (0x14, decide (u16 b 0x14 ≤ 16288))]
    ++ zeroRun b 0x16 10 ++ [(0x20, decide (0x20 + u16 b 0x14 ≤ b.length))]

/-- Has a code job scope, as its body and, for a configuration set, its set say (R343)? -/
def State.jobScope (s : State) (c : Cmd) : Bool :=
  match c.code with
  | 0x02 => !bit (u8 (s.slotRead c.p (u32 c.body 0) 1) 0) 0
  | 0x12 => placeMode c.body
  | 0x50 => u8 c.body 0 % 16 == 2 || u8 c.body 0 % 16 == 3
  | k => [0x13, 0x21, 0x22, 0x30, 0x31, 0x32, 0x33, 0x34, 0x35, 0x36, 0x80].contains k

/-- INNER_JOB against the enclosed command's scope (R343). -/
def State.innerScope (s : State) (c : Cmd) : Option Result :=
  if s.jobScope c then scopeFault (s.scoped c) else noScope c

/-- The rights of the enclosed command that the plan alone decides (R335, R343). -/
def State.innerRight (s : State) (c : Cmd) : Option Result :=
  if c.code = 0x60 ∨ c.code = 0x62 then s.moduleRight c.p else none

/-- Every check of SCHEDULE_AT before its slots. -/
def State.scheduleCheck (s : State) (c : Cmd) : Option Result :=
  firstFault [noScope c, bodyFault c.body (bodyFields 0x40) (scheduleChecks c.body), s.innerScope c.inner,
    s.innerRight c.inner, s.instantCheck c]

/-- Run an enclosed command whose instant has come: its mailbox is the module's until it commits (R328). -/
def State.runInner (s : State) (c : Cmd) : State := acceptOf c.inner.code c.inner s

/-- SCHEDULE_AT, accepted: it waits for T, or, LATE, runs now as though flipped at F (R328, R329). -/
def acceptSchedule (c : Cmd) (s : State) : State :=
  let c := s.named c
  match s.vet c (s.scheduleCheck c) with
  | some x => s.refuse c x.2 x.1
  | none =>
    if c.flip < u64 c.body 0 then s.stage { c with sched := true }
    else (s.stage { c with sched := true }).runInner c

/-- SCHEDULE_AT (R328-R330). -/
def execScheduleAt (p : PartId) (m : BoxId) (s : State) : Host.Outcome State Fault Refusal :=
  .next (s.serve p m 0x40 acceptSchedule)

/-- Is this an enclosed QUERY_PLACEMENT of a job whose instant is `t`? -/
def Cmd.queryAt (h t : Nat) (c : Cmd) : Bool :=
  c.sched && u16 c.body 0x0A == 0x13 && u32 c.body 0x10 == h && u64 c.body 0 == t

/-- The enclosed commands whose instant has come, in the order of their instants, the lower mailbox first (R328). -/
def State.dueInner (s : State) (t : Nat) : List Cmd :=
  let cs := s.cmds.filter (fun c => c.sched && decide (u64 c.body 0 ≤ t))
  sortBy (fun a b => decide (u64 a.body 0 < u64 b.body 0)
    || (u64 a.body 0 == u64 b.body 0 && decide (a.m.val ≤ b.m.val))) cs

/-- Is a command still waiting as it was? -/
def State.stillWaits (s : State) (c : Cmd) : Bool := s.cmds.any (fun d => d.p == c.p && d.m == c.m && d.code == c.code && d.flip == c.flip)

/-- Run enclosed commands, each that still waits. -/
def State.runAll (s : State) (cs : List Cmd) : State := cs.foldl (fun s c => if s.stillWaits c then s.runInner c else s) s

/-- Run what is due at an instant. -/
def State.runDue (s : State) (t : Nat) : State := s.runAll (s.dueInner t)

/-- Run what is due at a boundary of a job, but for its own QUERY_PLACEMENTs of that instant. -/
def State.runDueAt (s : State) (h t : Nat) : State := s.runAll ((s.dueInner t).filter (fun c => !c.queryAt h t))

/-- Run a job's QUERY_PLACEMENTs of a boundary's instant: their report shows what item 4 leaves (R166). -/
def State.queriesDue (s : State) (h t : Nat) : State := s.runAll ((s.dueInner t).filter (fun c => c.queryAt h t))

end Sys2Proof.Machine
end

