-- ==== Sys2Proof/Machine/Power.lean ====
section
/-! DEFINITION. Power states: the request block, Lull and Calm, the power controller (R401-R410, R416). -/
namespace Sys2Proof.Machine

/-! ## The request block (R402, R403) -/

/-- Bytes 0x00-0x0F of the block as a request leaves them, GO excluded (R402). -/
def powLow (r : PowReq) (code : Nat) : BitVec 128 :=
  BitVec.ofNat 128 (code % 16 + 16 * (r.partition % 8) + 256 * (r.cell % 256) + 2 ^ 16 * b2n r.wakeOnFlip
    + 2 ^ 32 * (r.key % 2 ^ 16) + 2 ^ 64 * (r.atTime % 2 ^ 64))

/-- The request of a code; none of a code that asks for nothing the manual names (R402). -/
def powKind (r : PowReq) : Nat → Option PowKind
  | 1 => some .active
  | 2 => some .lull
  | 3 => some .calm
  | 4 => some .warm
  | 5 => some (.part r.partition)
  | 6 => some (.cell r.cell)
  | _ => none

/-- The RESULT with which a request is refused (R403). -/
def State.powerFault (s : State) (code : Nat) (r : PowReq) : Option (BitVec 3) :=
  if r.reservedNonzero = true ∨ 6 < code ∨ (4 ≤ code ∧ r.key ≠ 0x5254)
      ∨ (code = 5 ∧ (s.plan.getD r.partition PartRec.empty).enabled = false) ∨ (code = 6 ∧ 128 ≤ r.cell) then some 3
  else if (code = 2 ∨ code = 3) ∧ s.generating = true then some 4
  else if code = 6 ∧ (s.fenced.contains r.cell = true ∨ s.power.state = .calm) then some 4
  else none

/-- Is the state that a request asks for already in force (R403)? -/
def Power.inForce (q : Power) : PowKind → Bool
  | .active => q.state == .active
  | .lull => q.state == .lull
  | .calm => q.state == .calm
  | _ => false

/-- The request has reached its state at an instant (R404). -/
def Power.done (q : Power) (t : Nat) : Power :=
  { q with go := false, pending := none, result := 2, doneTime := BitVec.ofNat 64 t }

/-- Change the power controller. -/
def State.setPower (s : State) (f : Power → Power) : State := { s with power := f s.power }

/-- Does the request block answer: MOD_RESET_N is released, and the module is not in recovery mode (R431)? -/
def State.powerAnswers (s : State) : Bool := decide (3 ≤ s.board.bootStage.toNat ∧ s.board.bootStage.toNat ≤ 4)

/-- A request as the block latches it: while another that software submitted is pending it is ignored; else it is refused,
done at once, or pending (R402-R404). -/
def State.latchPower (s : State) (code : Nat) (r : PowReq) : State :=
  if s.powerAnswers = false ∨ s.power.go = true then s
  else
    let s := s.setPower (fun q => { q with reqLow := powLow r code })
    match s.powerFault code r, powKind r code with
    | some x, _ => s.setPower (fun q => { q with result := x })
    | none, none => s
    | none, some k =>
      if s.power.inForce k then s.setPower (fun q => q.done s.now)
      else s.setPower (fun q => { q with
        go := true, pending := some (k, r.atTime), result := 1, wakeOnFlip := decide (code = 3) && r.wakeOnFlip })

/-! ## Lull (R401, R405) -/

/-- The cells park, and the request is done (R405). -/
def State.enterLull (s : State) (t : Nat) : State :=
  (s.updCells (fun c => c.base != .off) (Cell.setBase .parked t)).setPower
    (fun q => { q.done t with state := .lull, activeMv := q.coreMv, coreMv := 450 })

/-- What a parked cell goes back to. -/
def State.unparkBase (s : State) (c : Cell) : CellBase :=
  match c.job with
  | none => .idle
  | some h => match s.job h with
    | none => .idle
    | some j => if j.prog = .streaming ∨ j.prog = .streamed then .loading else .waitBoundary

/-- The cells return to the core voltage with what they hold (R405). -/
def State.leaveLull (s : State) (t : Nat) : State :=
  let s : State := { s with cells := s.cells.map (fun c => if c.base = .parked then c.setBase (s.unparkBase c) t else c) }
  s.setPower (fun q => { q.done t with state := .active, coreMv := q.activeMv })

/-! ## Calm (R406-R408) -/

/-- What Calm and every reset leave of the debug snapshots: nothing (R114, R415). -/
def State.dropSnaps (s : State) : State :=
  { s with parts := s.parts.map (fun q => { q with snapSel := none, snap := none }) }

/-- Every pending SCHEDULE_AT and FW_ACTIVATE_AT ends with 0x8006 (R330, R394, R406). -/
def State.endInstants (s : State) (t : Nat) : State :=
  (s.cmds.filter (fun c => c.sched || c.code == 0x61)).foldl (fun s c => s.answer c t (fail 0x8006)) s

/-- Pending re-placements and ships of every job end (R166, R226, R406). -/
def State.abandonAll (s : State) (t : Nat) : State :=
  s.jobs.foldl (fun s j => (s.abandonRepl j.handle t).failShips j.handle t) s

/-- A cell without power: everything in it is lost (R415); the trap times of R361 are the control core's. -/
def Cell.powerOff (t : Nat) (c : Cell) : Cell := { Cell.reset with stateTime := if c.base = .off then c.stateTime else t, traps := c.traps }

/-- Calm takes effect at an instant: R406 after the boundary's items, up to the entry into self-refresh. -/
def State.enterCalm (s : State) (t : Nat) : State :=
  let s := match s.active with | some h => s.killStep h 10 true | none => s
  let s := ((s.endInstants t).abandonAll t).dropSnaps
  let s : State := { s with
    jobs := s.jobs.map (fun j => { j with prog := .none, credit := false }),
    cells := s.cells.map (Cell.powerOff t),
    hbm := s.hbm.endGens }
  s.setPower (fun q => { q with
    state := .calm, entering := true, waking := false, doneTime := BitVec.ofNat 64 t,
    coreMv := if q.state = .lull then q.activeMv else q.coreMv })

/-- Begin to leave Calm (R408): recalibration is under way until HBM_RECALIBRATION_DONE. -/
def State.beginWake (s : State) : State := s.setPower (fun q => { q with waking := true })

/-- CALM_ENTERED: self-refresh is reached and RESULT becomes 2 (R404); a flip that came before wakes the module at once
(R416). -/
def State.calmReached (s : State) : State :=
  if s.power.state = .calm ∧ s.power.entering = true then
    let s : State := { s with hbm := { s.hbm with selfRefresh := true } }
    let s := s.setPower (fun q => { q with entering := false, go := false, pending := none, result := 2 })
    if s.power.wakeAsked then
      (s.setPower (fun q => { q with wakeAsked := false, result := 1, pending := some (.active, 0) })).beginWake
    else s
  else s

/-- CALM_ENTERED (R406). -/
def execCalmEntered (s : State) : Host.Outcome State Fault Refusal := .next s.calmReached

/-- The module is Active again, at the boundary that launches or, with no active job, when R408's items are done (R404). -/
def State.wake (s : State) (t : Nat) : State :=
  s.setPower (fun q => { q.done t with state := .active, waking := false, wakeOnFlip := false, wakeAsked := false })

/-- HBM is out of self-refresh and recalibrated: the scrubber resumes, the cells take power, and the active job streams in
(R408). -/
def State.recalibrated (s : State) : State :=
  if s.power.waking = true ∧ s.hbm.selfRefresh = true then
    let now := s.now
    let s : State := { s with
      hbm := { s.hbm with selfRefresh := false },
      cells := Vector.ofFn (fun n => if s.fenced.contains n.val then s.cells[n] else
        { Cell.reset with base := .idle, stateTime := now, traps := s.cells[n].traps }) }
    match s.active with
    | none => s.wake now
    | some h => s.streamIn h now
  else s

/-- HBM_RECALIBRATION_DONE (R276, R408). -/
def execHbmRecalibrationDone (s : State) : Host.Outcome State Fault Refusal := .next s.recalibrated

/-! ## Acting on a request (R404) -/

/-- With no active job, a request for a power state acts when TIME has reached AT (R404). -/
def State.actPower (s : State) : State :=
  match s.power.pending with
  | some (k, at_) =>
    if s.active.isSome = true ∨ s.now < at_ ∨ s.power.entering = true then s
    else match k with
      | .lull => if s.power.state = .active then s.enterLull s.now else s
      | .calm => if s.power.state = .calm then s else s.enterCalm s.now
      | .active =>
        if s.power.state = .lull then s.leaveLull s.now
        else if s.power.state = .calm ∧ s.power.waking = false then s.beginWake else s
      | _ => s
  | none => s

/-- POWER_REQUEST_ACTIVE (R402-R404, R408). -/
def execPowerRequestActive (r : PowReq) (t : Nat) (s : State) : Host.Outcome State Fault Refusal :=
  .next ((advance t s).latchPower 1 r).actPower

/-- POWER_REQUEST_LULL (R402-R405). -/
def execPowerRequestLull (r : PowReq) (t : Nat) (s : State) : Host.Outcome State Fault Refusal :=
  .next ((advance t s).latchPower 2 r).actPower

/-- POWER_REQUEST_CALM (R402-R404, R406). -/
def execPowerRequestCalm (r : PowReq) (t : Nat) (s : State) : Host.Outcome State Fault Refusal :=
  .next ((advance t s).latchPower 3 r).actPower

/-- A mailbox flip with WAKE_ON_FLIP: in Calm it makes an ACTIVE request with AT 0; before Calm has taken effect the request
waits (R402, R407, R416). -/
def State.wakeFlip (s : State) : State :=
  let q := s.power
  if q.wakeOnFlip = false then s
  else if q.state = .calm ∧ q.entering = false then
    if q.pending.isSome then s
    else (s.setPower (fun q => { q with pending := some (.active, 0), result := 1 })).actPower
  else match q.pending with
    | some (.calm, _) => s.setPower (fun q => { q with wakeAsked := true })
    | _ => s

/-- At a boundary of the active job, after item 4: a due request for Lull with no step in flight, or for Active from Lull
(R404, R405, R416). -/
def State.powerAtBoundary (s : State) (h t : Nat) : State :=
  match s.power.pending with
  | some (k, at_) =>
    let idle := match s.job h with | some j => j.step.isNone | none => true
    if t < at_ then s
    else match k with
      | .lull => if s.power.state = .active ∧ idle = true then s.enterLull t else s
      | .active => if s.power.state = .lull then s.leaveLull t else s
      | _ => s
  | none => s

/-- Is entry to Calm due at a boundary's instant (R404)? -/
def State.calmDue (s : State) (t : Nat) : Bool :=
  match s.power.pending with
  | some (.calm, at_) => decide (at_ ≤ t) && s.power.state != .calm
  | _ => false

/-! ## The power controller (R409, R410) -/

/-- The mean of the samples the controller holds. -/
def meanOf (xs : List Nat) : Nat := sumN xs / Nat.max 1 xs.length

/-- One sample of the controller: the voltage steps by 5 mV between 0.55 V and 0.70 V (R409), CAP_UNMET and THERM_LIMIT
follow (R410, R432). Temperatures are in units of 0.125 °C. -/
def Power.sample (q : Power) (watts : Nat) (tj : Int) : Power :=
  let xs := (q.samples ++ [watts])
  let xs := xs.drop (xs.length - 8)
  let sum := sumN xs
  let n := xs.length
  let above := decide (q.cap * n < sum)
  let hot := decide (800 < tj)
  let mv := q.coreMv.toNat
  let down := above || hot
  let up := decide (100 * sum < 98 * q.cap * n ∧ tj < 760)
  let mv' := if down then Nat.max 550 (mv - 5) else if up then Nat.min 700 (mv + 5) else mv
  { q with
    samples := xs,
    coreMv := if q.state = .active then BitVec.ofNat 16 mv' else q.coreMv,
    thermLimit := hot,
    capUnmet := if above && mv == 550 && q.state == .active then true
                else if sum < q.cap * n then false else q.capUnmet }

/-- POWER_SAMPLE (R409, R410). -/
def execPowerSample (watts : Nat) (tjEighths : Int) (t : Nat) (s : State) : Host.Outcome State Fault Refusal :=
  .next (let s := advance t s; if s.ready then s.setPower (fun q => q.sample watts tjEighths) else s)

end Sys2Proof.Machine
end

