-- ==== Sys2Proof/Machine/Boundary.lean ====
section
/-! DEFINITION. Step boundaries and instants (R146-R148, R323-R328, R404-R408). -/
namespace Sys2Proof.Machine

/-! ## Which boundaries act (R322, R323) -/

/-- Is an instant one of a job's boundaries, later than the last that was processed (R323, R325)? -/
def Job.onGrid (j : Job) (t : Nat) : Bool :=
  decide (j.openTime ≤ t ∧ j.phase ≤ t ∧ (t - j.phase) % j.period = 0)
    && (match j.lastBoundary with | none => true | some l => decide (l < t))

/-- Does a boundary of a job act: the job is open, and HOLDOVER or LOST does not hold it (R322)? -/
def State.boundaryActs (s : State) (h t : Nat) : Bool :=
  match s.job h with
  | none => false
  | some j => j.onGrid t && !s.tbHolds j && s.ready

/-! ## Item 1: losses and the commit (R144, R227) -/

/-- KV_LOST for a sequence (R227, R369). -/
def kvLostEvent (j : Job) (step t : Nat) (x : Nat × Nat × Nat × Nat) : Event :=
  { event 0x0002 t with job := j.handle, step := step, arg0 := x.1, arg1 := x.2.1, arg2 := x.2.2.1, arg3 := x.2.2.2 }

/-- The sequences to remove, each under the first page that failed. -/
def firstLosses : List (Nat × Nat × Nat × Nat) → List (Nat × Nat × Nat × Nat)
  | [] => []
  | x :: xs => x :: (firstLosses xs).filter (fun y => y.1 != x.1)

/-- One lost sequence leaves its job: a table entry with reason 4, a direct-mode sequence without a word (R227, R241). -/
def State.loseSeq (s : State) (h step t id : Nat) : State :=
  match s.job h with
  | none => s
  | some j => match j.seqs.find? (fun e => e.req.id == id) with
    | some e => s.seqLeave j e 4 step t
    | none => (s.updJob h (fun j => { j with direct := j.direct.filter (fun e => e.id != id) })).tidyJob h

/-- The killed step that is not re-run is over: RUN_STEP ends with 0x8406, a round is discarded (R227). -/
def State.endLostStep (s : State) (h t : Nat) : State :=
  match s.job h with
  | none => s
  | some j => match j.step with
    | none => s
    | some x =>
      if x.phase = .killed ∧ x.noRerun = true then
        let s := (s.updJob h Job.dropRound).tidyJob h
        match x.kind with
        | .direct p m _ => match s.cmdAt p m with
          | none => s
          | some c => s.answer c t (fail 0x8406)
        | _ => s
      else s

/-- Remove every sequence that lost its state (R227). -/
def State.removeLost (s : State) (h t : Nat) : State :=
  match s.job h with
  | none => s
  | some j =>
    let step := match j.step with | some x => x.number.toNat | none => noField
    let xs := firstLosses j.seqLost
    let s := s.updJob h (fun j => { j with seqLost := [] })
    let s := xs.foldl (fun s x => s.postPart j.part (kvLostEvent j step t x)) s
    (xs.foldl (fun s x => s.loseSeq h step t x.1) s).endLostStep h t

/-- Copy what a partition selected when a step ends: the lines of its regions, up to 4 MiB, then the stage state records, with
the tiles of its cells (R113). -/
def State.snapOf (s : State) (p : PartId) (x : SnapSel) : Snap :=
  let mine := x.pairs.filter (fun y => (s.cellAt y.1).job == some x.job)
  let lines := mine.flatMap (fun y => ((s.cellAt y.1).regions.toList.getD y.2 Region.reset).lines.flatMap (·.data))
  let cells := (x.pairs.map (·.1)).eraseDups
  ⟨x.job, lines.take 0x400000 ++ cells.flatMap (s.stageRecord p),
    cells.map (fun n => (n, (List.range 64).map (fun k =>
      let c := s.cellAt n
      (k, tileImage (if c.job = some x.job then
          (match c.groups.find? (fun g => g.tile.val == k) with | some g => g.wide | none => lookupD [] k c.tiles)
        else [])))))⟩

/-- Take the snapshots of a job's step at the boundary that ends it; the selection is used up (R113). -/
def State.takeSnaps (s : State) (h step : Nat) : State :=
  allParts.foldl (fun s p => match s.parts[p.val].snapSel with
    | none => s
    | some x => if x.job = h ∧ x.step = step then
        let y := s.snapOf p x
        s.updPart p (fun q => { q with snapSel := none, snap := some y })
      else s) s

/-- Commit the step of a job if every rank has completed it (R147). -/
def State.commitAt (s : State) (h t : Nat) : State :=
  match s.job h with
  | none => s
  | some j => match j.step with
    | none => s
    | some x => match x.results with
      | none => s
      | some r => if j.commits x t = true ∧ j.lost = false then (s.commitStep j x r t).takeSnaps h x.number.toNat else s

/-- Item 1 of R146. -/
def State.itemOne (s : State) (h t : Nat) : State := ((s.removeLost h t).commitAt h t).sendDone h t

/-! ## Items 2 and 3: staged commands, configuration sets, an activation (R146, R394) -/

/-- What a staged command does at its commit. -/
def commitOf (c : Cmd) (t : Nat) (s : State) : State :=
  match c.code with
  | 0x11 => commitLoadWeights c t s
  | 0x20 => commitOpen c t s
  | 0x21 => commitClose c t s
  | 0x22 => commitSwitch c t s
  | 0x31 => commitAdmit c t s
  | 0x32 => commitCancel c t s
  | 0x33 => commitPause c t s
  | 0x34 => commitResume c t s
  | 0x35 => commitShipKv c t s
  | 0x36 => commitAcceptKv c t s
  | 0x80 => commitDebugArm c t s
  | _ => s

/-- The codes that commit at item 2 of a boundary (R343). -/
def itemTwoCodes : List Nat := [0x11, 0x20, 0x21, 0x22, 0x31, 0x32, 0x33, 0x34, 0x35, 0x36, 0x80]

/-- The staged commands of some codes that were flipped by an instant, in the order of R146. -/
def State.stagedFor (s : State) (codes : List Nat) (t : Nat) : List Cmd :=
  flipOrder (s.cmds.filter (fun c => !c.sched && codes.contains c.code && decide (c.flip ≤ t)))

/-- Item 2 of R146: each staged command that is still there commits in its turn. -/
def State.itemTwo (s : State) (t : Nat) : State :=
  (s.stagedFor itemTwoCodes t).foldl (fun s c => if s.stillWaits c then commitOf c t s else s) s

/-- Item 3 of R146: pending configuration sets in flip order, then a firmware activation (R394). -/
def State.itemThree (s : State) (t : Nat) : State :=
  ((s.stagedFor [0x02] t).foldl (fun s c => if s.stillWaits c then commitConfigSet c t s else s) s).activateDue t

/-! ## Item 4: installs (R82, R165, R353, R361) -/

/-- Does a job's layout place a stage on a fenced cell (R361)? -/
def State.fencedIn (s : State) (j : Job) : Bool := j.layout.stages.any (fun x => x.cells.any (s.fenced.contains ·))

/-- Install a re-placement whose copies are done, or one that a fenced cell asks for (R165, R361). -/
def State.installNew (s : State) (h t : Nat) : State :=
  match s.job h with
  | none => s
  | some j =>
    match j.layout.pending with
    | some r =>
      if r.copied = true ∨ s.fencedIn j = true then (s.installRepl h t).installCells h t else s
    | none => if s.fencedIn j then (s.installRepl h t).installCells h t else s

/-- A job's stage programs come to stand in their cells once they have streamed in (R353). -/
def State.installStreamed (s : State) (h t : Nat) : State :=
  match s.job h with
  | none => s
  | some j =>
    if j.prog = .streamed then (s.installCells h t).updJob h (fun j => { j with prog := .installed, credit := true })
    else s

/-- Item 4 of R146 for the active job: installs, then the placement report of this boundary (R165, R168, R353). -/
def State.itemFour (s : State) (h t : Nat) : State :=
  match s.job h with
  | none => s
  | some j =>
    let s := if j.prog = .installed ∨ j.prog = .streamed then (s.installNew h t).installStreamed h t else s
    (s.reportPlacement h t).queriesDue h t

/-! ## Item 5: the launch (R146, R362, R405) -/

/-- Does a job's placement on this rank hold a poisoned block (R362)? -/
def State.poisonHolds (s : State) (j : Job) : Bool :=
  (s.jobGraphs j).any (fun g => s.blocks.any (fun b => b.gref == g.gref && b.poison != .clean
    && holdsBlock g.descs j.nRanks j.rank b))

/-- Does a stage of a job have no cell, or a cell that is trapped or whose engine is halted (R359-R361)? -/
def State.cellsHold (s : State) (j : Job) : Bool :=
  j.layout.stages.any (fun x => x.cells.isEmpty)
    || s.cells.toList.any (fun c => c.job == some j.handle && (c.trapped || c.upd.toList.any (·.halted.isSome)))

/-- May a job launch at a boundary: Active, programs installed, nothing that holds it (R312, R353, R361, R362, R405)? -/
def State.mayLaunch (s : State) (j : Job) : Bool :=
  s.power.state == .active && j.prog == .installed && s.haltedDma.isEmpty && !j.lost && !s.poisonHolds j && !s.cellsHold j
    && (decide (j.nRanks = 1) || (s.peerLost j.handle).isNone)

/-- Does a poisoned block hold a job's killed step: its re-run waits for the first boundary after the poison clears (R362)? -/
def State.holdsRerun (s : State) (h : Nat) : Bool :=
  match s.job h with
  | none => false
  | some j => j.step.isSome && s.poisonHolds j

/-- A boundary that launches nothing, in a cell of the job: ARRIVED is cleared with no step to expect lines for, and the cell has
received the boundary before the step that comes next (R91, R111; DESIGN CHOICE, notes/assumptions/86.md). -/
def Cell.passBoundary (next : BitVec 32) (c : Cell) : Cell :=
  { c with boundary := next, regions := c.regions.map (fun r => { r.boundary with expect := 0 }) }

/-- The cells of a job at a boundary after which no step of it runs (R91). -/
def State.idleBoundary (s : State) (h : Nat) : State :=
  match s.job h with
  | none => s
  | some j =>
    if j.step.any (fun x => x.phase != .killed) then s
    else s.updCells (fun c => c.job == some h) (Cell.passBoundary j.nextStep)

/-- Item 5 of R146. -/
def State.itemFive (s : State) (h t : Nat) : State :=
  match s.job h with
  | none => s
  | some j => if s.active = some h ∧ s.mayLaunch j = true then s.launchNext h t else s

/-! ## A boundary -/

/-- The boundary of the active job, served in full: commands whose instant has come, items 1 to 5, and a power request in
place of item 5 (R146, R328, R404-R406). -/
def State.fullBoundary (s : State) (h t : Nat) : State :=
  let s := s.runDueAt h t
  let s := s.itemOne h t
  let calm := s.calmDue t
  let s := if calm then s.killStep h 10 true else s
  let held := s.holdsRerun h
  let s := (((s.itemTwo t).itemThree t).itemFour h t).settle
  if calm then s.enterCalm t
  else
    let s := s.powerAtBoundary h t
    (if held then s else s.itemFive h t).idleBoundary h

/-- A boundary of the active job in Calm: the launching boundary after R408's streaming ends Calm; a due request for Active
begins to leave it; else nothing (R404, R407, R408). -/
def State.calmBoundary (s : State) (h t : Nat) : State :=
  let streamed := match s.job h with | some j => j.prog == .streamed | none => false
  if s.power.waking = true ∧ streamed = true then (s.wake t).fullBoundary h t
  else match s.power.pending with
    | some (.active, at_) => if at_ ≤ t ∧ s.power.waking = false ∧ s.power.entering = false then s.beginWake else s
    | _ => s

/-- A boundary of a job: in full for the active job; a suspended one only loses what it must (R227, R325). -/
def State.boundary (s : State) (h t : Nat) : State :=
  if s.boundaryActs h t = false then s
  else
    let s := if s.active = some h then
        (if s.power.state = .calm then s.calmBoundary h t else s.fullBoundary h t)
      else if s.power.state = .calm then s else s.removeLost h t
    s.updJob h (fun j => { j with lastBoundary := some t })

/-- STEP_BOUNDARY (R146). -/
def execStepBoundary (job t : Nat) (s : State) : Host.Outcome State Fault Refusal := .next ((advance t s).boundary job t)

/-! ## Instants -/

/-- TIME has reached an instant: enclosed commands run; with no active job a firmware activation and a power request act
(R328, R394, R404). -/
def State.instant (s : State) : State :=
  let s := if s.serves then
      (let s := s.runDue s.now
       if s.active.isNone then s.activateDue s.now else s)
    else s
  if s.ready then s.actPower else s

/-- SCHEDULED_INSTANT (R328, R394). -/
def execScheduledInstant (t : Nat) (s : State) : Host.Outcome State Fault Refusal := .next (advance t s).instant

end Sys2Proof.Machine
end

