-- ==== Sys2Proof/Machine/Boot.lean ====
section
/-! DEFINITION. Supplies, resets of the whole module and the boot (R375-R383, R411, R415, R424-R426, R436). -/
namespace Sys2Proof.Machine

/-! ## The signed configuration block (R334, R335, R381-R383) -/

/-- A partition record (R334). -/
def partRecOf (b : Bytes) : PartRec where
  enabled := bit (u8 b 0) 0
  debug := bit (u8 b 0) 1
  moduleCfg := bit (u8 b 0) 2
  sharedWriter := bit (u8 b 0) 3
  priority := fld (u8 b 0) 4 3
  maxJobs := u8 b 1
  ctrlKey := BitVec.ofNat 32 (u32 b 4)
  bulkKey := BitVec.ofNat 32 (u32 b 8)
  slotLog2 := u8 b 0x0C % 32
  slotsM1 := u16 b 0x0E
  hbmQuota := u32 b 0x10

/-- Reserved fields of a partition record (R334). -/
def partReservedOk (b : Bytes) : Bool :=
  !bit (u8 b 0) 7 && u16 b 2 == 0 && decide (u8 b 0x0C < 32) && u8 b 0x0D == 0 && zeroAt b 0x14 12

/-- The ranges of R334 for an enabled partition. -/
def PartRec.ok (r : PartRec) : Bool :=
  !r.enabled || decide (1 ≤ r.maxJobs ∧ r.maxJobs ≤ 16 ∧ 12 ≤ r.slotLog2 ∧ r.slotLog2 ≤ 24 ∧ 1 ≤ r.hbmQuota
    ∧ r.hbmQuota ≤ 589824)

/-- The keys of the enabled partitions. -/
def keysOf (ps : List PartRec) : List (BitVec 32) := (ps.filter (·.enabled)).flatMap (fun r => [r.ctrlKey, r.bulkKey])

/-- What boot asks of a plan: ranges, distinct keys, quotas within the stacks (R334, R335). -/
def planOk (ps : List PartRec) : Bool :=
  decide (ps.length = 8) && ps.all PartRec.ok && decide ((keysOf ps).eraseDups.length = (keysOf ps).length)
    && decide (sumN ((ps.filter (·.enabled)).map (·.hbmQuota)) ≤ 589824)

/-- Read a configuration block with its signatures (R381); the owner number is that of the keys it is held against. -/
def configOf (b : Bytes) (ownerNumber : Nat) (sigs : Sigs) : ConfigBlock :=
  let nf := u16 b 0x1A
  let nq := u16 b 0x1C
  let q := 0x140 + 16 * nf + 64 * nq
  let recs := (List.range 8).map (fun i => sub b (0x40 + 32 * i) 32)
  { version := u32 b 8, minFw := u32 b 0x0C, serial := u64 b 0x10, powerCap := u16 b 0x18,
    parts := recs.map partRecOf,
    fields := (List.range (Nat.min nf 512)).map (fun k =>
      let o := 0x140 + 16 * k
      ⟨u16 b o, u16 b (o + 2), u64 b (o + 8)⟩),
    qps := (List.range (Nat.min nq 1024)).map (fun j => sub b (0x140 + 16 * nf + 64 * j) 64),
    wellFormed := u32 b 0 == 0x4B4C4243 && u16 b 4 == 1 && u16 b 6 == 0 && zeroAt b 0x1E 34 && decide (nf ≤ 512 ∧ nq ≤ 1024)
      && recs.all partReservedOk && (List.range (Nat.min nf 512)).all (fun k => zeroAt b (0x144 + 16 * k) 4)
      && b.length == q + 384 + 16224,
    ownerNumber := ownerNumber, sigs := sigs, digest := Config.sha384 b }

/-- The module-scope values that a block leaves (R382). -/
def ConfigBlock.modCfg (c : ConfigBlock) : ModCfg := ModCfg.reset.apply (c.fields.filter (fun e => moduleField e.field))

/-- Do a block's field entries and QP records stand (R350, R383)? -/
def ConfigBlock.fieldsOk (c : ConfigBlock) : Bool :=
  c.fields.all (fun e => (jobField e.field || moduleField e.field) && indexOk e.field e.index && valueOk e.field e.value)
    && c.qps.all (fun r => (qpChecks c.modCfg r).all (·.2))

/-- Does a block verify under the owner keys in flash and stand under R383 (R375, R376)? -/
def Flash.configStands (f : Flash) (c : ConfigBlock) : Bool :=
  sigsOk c.sigs && c.wellFormed && c.ownerNumber == f.owner.number && (c.serial == 0 || c.serial == f.serial.toNat)
    && (c.powerCap == 0 || decide (800 ≤ c.powerCap)) && planOk c.parts && c.fieldsOk

/-- The envelope of a grade in watts (R3). -/
def envelope (grade : Nat) : Nat := if grade = 16 then 1600 else 2000

/-- POWER_CAP in force: 0 asks for the envelope, and a cap above it is clamped (R4, R381). -/
def capOf (grade cap : Nat) : Nat := if cap = 0 then envelope grade else Nat.min cap (envelope grade)

/-! ## What a reset of the whole module leaves (R411, R415) -/

/-- Power-on, MOD_RESET and a trip: every item at its default, but for flash, the supplies and straps, and what the model
records; a staged image stays in flash (R400, R415). -/
def State.fresh (s : State) : State :=
  { State.reset with
    flash := s.flash, board := s.board, draws := s.draws, out := s.out, pending := s.pending,
    fw := { Fw.reset with staged := s.fw.staged } }

/-- The board as the hub's rails go or its reset begins: the hub's own sideband target forgets its address (R430). -/
def Board.hubDown (b : Board) (stage : BitVec 3) : Board := { b with bootStage := stage, i3cMctp := none, eid := 0 }

/-- The TAP without power (R434). -/
def Board.tapDown (b : Board) : Board := { b with tap := Tap.reset }

/-! ## Boot (R378-R380) -/

/-- Does an image verify: its manifest's signatures and fields, and the agreement of its header (R375, R387, R388)? -/
def Image.stands (x : Image) (first : Bool) : Bool :=
  sigsOk x.manifest.sigs && x.manifest.firstStage == first && x.manifest.targetBytes == x.bytes.length
    && headerAgrees x.manifest x.bytes

/-- The first-stage image that the ROM starts: FIRST_A, or FIRST_B when FIRST_A fails (R378). -/
def Flash.firstStage (f : Flash) : Option Image :=
  if f.rootOk = false then none
  else if f.firstA.stands true then some f.firstA
  else if f.firstB.stands true then some f.firstB else none

/-- The slot that a boot chooses at a failed-boot count, IMAGE_B when true (R379). -/
def Flash.chosen (f : Flash) : Bool :=
  let otherOk := match f.other with | some x => x.stands false | none => false
  if f.failedBoots ≠ 0 ∧ otherOk = true then !f.slotB else f.slotB

/-- The image in a slot. -/
def Flash.inSlot (f : Flash) (b : Bool) : Option Image := if b then f.imageB else f.imageA

/-- Channels that training or the self-test failed (R277, R366). -/
def badChannels (b : BootIn) : List Nat :=
  (List.range 192).filter (fun c => b.failedChannels.contains c
    || b.selfTest.any (fun i => decide (i < 1152 ∧ i % 384 / 2 = c)))

/-- The cell that a failed checker belongs to (R366, R380). -/
def selfTestCell (i : Nat) : Option Nat :=
  if 1152 ≤ i ∧ i < 1664 then some ((i - 1152) % 128) else if 1664 ≤ i ∧ i < 1920 then some ((i - 1664) / 2) else none

/-- Cells that the self-test fenced (R361, R366). -/
def fencedBy (selfTest : List Nat) : List Nat := (List.range 128).filter (fun c => selfTest.any (fun i => selfTestCell i == some c))

/-- Hub DMA channels 16-31 that the self-test fenced (R366). -/
def fencedDmaBy (selfTest : List Nat) : List Nat :=
  (List.range' 16 16).filter (fun c => selfTest.any (fun i => i == 1904 + c))

/-- Did a hub memory fail its self-test (R366)? -/
def hubMemoryBad (selfTest : List Nat) : Bool := selfTest.any (fun i => decide (1946 ≤ i ∧ i < 1949))

/-- The boot report of a boot (R380). -/
def reportOf (cause : BitVec 2) (f : Flash) (b : BootIn) (version : Nat) (slot : Bool) (degraded : Bool) : BootReport where
  fwVersion := version
  configVersion := f.config.version
  cause := cause
  slotB := slot
  fallback := slot != f.slotB
  hbmDegraded := degraded
  pufFailed := false
  failedBoots := BitVec.ofNat 2 (Nat.min 2 f.failedBoots)
  readyTime := b.readyTime
  sparesTotal := sumN (b.spares.map (·.2))
  failedChannels := b.failedChannels
  selfTest := b.selfTest
  spares := b.spares

/-- HBM once every channel is trained: the channels that failed, the lanes replaced (R276, R277). -/
def Hbm.trainedBy (h : Hbm) (b : BootIn) : Hbm :=
  let failed := badChannels b
  { h with failed := failed, spares := b.spares, degraded := !failed.isEmpty, trained := true }

/-- Enter recovery mode (R397): cells and fabric off, HBM untrained, no mailbox; the report shows the failures. -/
def State.enterRecovery (s : State) (pufFailed : Bool) : State :=
  { s with
    board := { s.board with bootStage := 5 },
    report := { BootReport.reset with
      cause := s.board.bootCause, slotB := s.flash.slotB, pufFailed := pufFailed,
      failedBoots := BitVec.ofNat 2 (Nat.min 2 s.flash.failedBoots) },
    fw := { s.fw with
      recovery := true,
      recoveryCfgValid := sigsOk s.flash.owner.sigs && s.flash.configStands s.flash.config } }

/-- READY (R378): the configuration block applied, the plan locked, the report written, the image running, the failed-boot
count 0. -/
def State.goReady (s : State) (b : BootIn) (first image : Image) (slot : Bool) : State :=
  let f := s.flash
  let c := f.config
  let failed := badChannels b
  let fenced := fencedBy b.selfTest
  let t := b.readyTime
  { s with
    flash := { f with failedBoots := 0 },
    plan := c.parts,
    planLocked := true,
    board := { s.board with bootStage := 4 },
    tb := { s.tb with time := t % 2 ^ 64 },
    power := { s.power with cap := capOf f.grade c.powerCap },
    cfg := c.modCfg,
    net := { s.net with qps := c.qps.foldl applyQp [] },
    hbm := s.hbm.trainedBy b,
    fenced := fenced,
    fencedDma := fencedDmaBy b.selfTest,
    haltedDma := [],
    cells := Vector.ofFn (fun n => if fenced.contains n.val then Cell.reset else
      { Cell.reset with base := .idle, stateTime := t }),
    fw := { s.fw with
      running := some image, mRom := Config.romDigest, mFirst := Config.sha384 first.bytes,
      mImage := Config.sha384 image.bytes, mConfig := c.digest, mOwner := f.owner.digest,
      mRunning := Config.sha384 image.bytes, activations := 0, tableFormat := image.manifest.tableFormat },
    report := reportOf s.board.bootCause f b image.manifest.version slot (!failed.isEmpty) }

/-- CELL_FENCED for the cells that the self-test fenced (R361, R369). -/
def State.postFenced (s : State) (b : BootIn) : State :=
  s.fenced.foldl (fun s n => s.postModule { event 0x0012 b.readyTime with cell := n, arg0 := 1 }) s

/-- What one attempt at a boot meets. -/
inductive Attempt where
  | ready (first image : Image) (slot : Bool)
  | waiting
  | failed
  | recovery (pufFailed : Bool)
  deriving DecidableEq, Repr

/-- One attempt at a boot (R378, R379). -/
def State.attempt (s : State) (b : BootIn) : Attempt :=
  let f := s.flash
  if s.board.recovLevel = false ∨ 3 ≤ f.failedBoots then .recovery false
  else if b.pufOk = false then .recovery true
  else match f.firstStage with
    | none => .failed
    | some first =>
      if hubMemoryBad b.selfTest then .recovery false
      else if sigsOk f.owner.sigs = false ∨ f.configStands f.config = false then .failed
      else match f.inSlot f.chosen with
        | none => .failed
        | some x =>
          if x.stands false = false ∨ x.manifest.version < f.config.minFw then .failed
          else if b.reachesReady then .ready first x f.chosen else .waiting

/-- Add one to the failed-boot count (R379). -/
def State.bootFailed (s : State) : State := { s with flash := { s.flash with failedBoots := s.flash.failedBoots + 1 } }

/-- Boot: a failed boot is followed by the next, until one is READY, waits for READY, or the count reaches 3 (R379,
notes/assumptions/27.md). -/
def State.bootLoop (b : BootIn) : Nat → State → State
  | 0, s => s
  | n + 1, s =>
    match s.attempt b with
    | .ready first image slot => (s.goReady b first image slot).postFenced b
    | .waiting => { s with board := { s.board with bootStage := 3 }, hbm := s.hbm.trainedBy b }
    | .recovery p => s.enterRecovery p
    | .failed => State.bootLoop b n s.bootFailed

/-- Boot from a release of reset: the timebase counts from 0 (R378, R426). -/
def State.boot (s : State) (b : BootIn) : State :=
  let s := s.fresh
  State.bootLoop b 4 { s with tb := { s.tb with running := true } }

/-- A release of reset: RECOV_N and SA0-SA2 are sampled, and the module boots (R426). -/
def State.release (s : State) (recovN : Bool) (sa : Fin 8) (b : BootIn) : State :=
  ({ s with board := { s.board with
      resetLow := false, tripped := false, thermTripLow := false, pgood := true, recovLevel := recovN, sa := sa, bootStage := 2 } } : State).boot b

/-- MOD_RESET_N_RELEASE (R426): with VIN applied and the pin low, the module boots, also after a trip (R436). -/
def execModResetNRelease (recovN : Bool) (sa : Fin 8) (b : BootIn) (s : State) : Host.Outcome State Fault Refusal :=
  .next (if s.board.resetLow = true ∧ s.board.vin = true then s.release recovN sa b else s)

/-- BOOT_WATCHDOG_EXPIRY (R379): a boot that waits for READY has failed, and the next boot begins. -/
def execBootWatchdogExpiry (b : BootIn) (s : State) : Host.Outcome State Fault Refusal :=
  .next (if s.board.bootStage = 3 then s.bootFailed.boot b else s)

/-- MOD_RESET_N_ASSERT (R411): everything returns to its default, held in reset; a module that tripped stays off until the
release (R436). -/
def execModResetNAssert (s : State) : Host.Outcome State Fault Refusal :=
  .next (if s.board.resetLow = true ∨ s.board.vin = false then s
    else
      let s := s.fresh
      { s with board := { s.board.hubDown (if s.board.tripped then 6 else 1) with resetLow := true, bootCause := 1 } })

/-! ## Supplies (R424-R426) -/

/-- The status target as it begins to answer: nothing measured yet (R432). -/
def Board.statusUp (b : Board) : Board := { b with sensors := Sensors.reset, statusOffset := 0 }

/-- VIN_RISE (R424, R426): the rails come up, PGOOD is released, and MOD_RESET_N is held low. -/
def execVinRise (s : State) : Host.Outcome State Fault Refusal :=
  .next (if s.board.vin then s
    else
      let s := s.fresh
      let b := (if s.board.aux then s.board else s.board.statusUp).hubDown 1
      { s with board := { b.tapDown with
          vin := true, pgood := true, resetLow := true, bootCause := 0, tripped := false, thermTripLow := false } })

/-- VIN_FALL (R424): every internal rail goes; LAST_TRIP stays only where 3V3_AUX does (R432). -/
def execVinFall (s : State) : Host.Outcome State Fault Refusal :=
  .next (if s.board.vin = false then s
    else
      let s := s.fresh
      let b := s.board.hubDown 0
      { s with board := { b.tapDown with
          vin := false, pgood := false, resetLow := true, bootCause := 0, tripped := false, thermTripLow := false,
          lastTrip := if b.aux then b.lastTrip else 0, i3cStatus := if b.aux then b.i3cStatus else none } })

/-- AUX_POWER_APPLIED (R425). -/
def execAuxPowerApplied (s : State) : Host.Outcome State Fault Refusal :=
  .next (if s.board.aux then s
    else { s with board := { (if s.board.vin then s.board else s.board.statusUp) with aux := true } })

/-- AUX_POWER_REMOVED (R425, R432, R438): the status target runs on from VIN, or stops. -/
def execAuxPowerRemoved (s : State) : Host.Outcome State Fault Refusal :=
  .next (if s.board.vin then { s with board := { s.board with aux := false } }
    else { s with board := { s.board with aux := false, lastTrip := 0, i3cStatus := none } })

/-- LAST_TRIP of a cause (R432). -/
def tripCode : TripCause → BitVec 3
  | .junction => 1
  | .coolant => 2
  | .overvoltage => 3
  | .converter => 4

/-- TRIP (R436): the rails go, HBM is lost, and the module latches off. -/
def execTrip (cause : TripCause) (s : State) : Host.Outcome State Fault Refusal :=
  .next (if s.board.vin = false ∨ s.board.pgood = false then s
    else
      let s := s.fresh
      let b := (s.board.hubDown 6).tapDown
      { s with
        board := { b with
          tripped := true, pgood := false, thermTripLow := true, lastTrip := tripCode cause, resetLow := b.resetLow },
        flash := { s.flash with trips := satInc s.flash.trips } })

end Sys2Proof.Machine
end

