-- ==== Sys2Proof/Machine/Resets.lean ====
section
/-! DEFINITION. The resets that a request makes: warm, of one partition, of one cell (R402-R404, R411-R416). -/
namespace Sys2Proof.Machine

/-! ## Ending what a reset reaches -/

/-- The mailboxes of a partition. -/
def allBoxes : List BoxId := [0, 1, 2, 3, 4, 5, 6, 7]

/-- End whatever a mailbox holds with 0x8006: a command in progress, or one flipped and not yet taken (R412). -/
def State.endBox (s : State) (p : PartId) (m : BoxId) (t : Nat) : State :=
  match s.cmdAt p m with
  | some c => (s.dropStaged c).answer c t (fail 0x8006)
  | none => if (s.box p m).owned then s.answer (s.named (s.flipped p m)) t (fail 0x8006) else s

/-- End every command in a partition's mailboxes (R412). -/
def State.endBoxes (s : State) (p : PartId) (t : Nat) : State := allBoxes.foldl (fun s m => s.endBox p m t) s

/-- Close a job at once, as CLOSE_JOB does; a reset ends its ships and receives under R226 (R224, R228, R354, R412). -/
def State.closeNow (s : State) (h t : Nat) : State :=
  let s := s.killStep h 10 true
  (s.failReceives h t).freeJob h t

/-- Every bulk flag of a partition 0x00 (R412, R415). -/
def State.clearFlags (s : State) (p : PartId) : State :=
  if s.enabled p then s.bulkStore p 0 (zeros (s.planRec p).slots) else s

/-- A queue pair restarted at its record's initial PSNs (R301, R412). -/
def Qp.restart (q : Qp) : Qp :=
  { q with
    sendPsn := q.initSend, recvPsn := q.initRecv, inError := none, nakSent := false, notices := [], flips := [] }

/-- An emptied event queue; EVSEQ is kept (R415). -/
def Part.emptyEvents (q : Part) : Part := { q with events := [], evLostSince := 0, evEmptied := true }

/-- What every reset leaves: no snapshot, scrubbers at line 0, generator blocks at their defaults (R114, R274, R415). -/
def State.anyReset (s : State) : State :=
  let s := if s.generating then s.testMode false else s
  let s := s.dropSnaps
  { s with hbm := { s.hbm.endGens with scrub := [] } }

/-! ## PARTITION_RESET (R412) -/

/-- Reset one partition. -/
def State.partReset (s : State) (p : PartId) (t : Nat) : State :=
  let s := (s.jobs.filter (fun j => j.part == p)).foldl (fun s j => s.failReceives j.handle t) s
  let s := s.endBoxes p t
  let s := (s.jobs.filter (fun j => j.part == p)).foldl (fun s j => s.closeNow j.handle t) s
  let s := s.clearFlags p
  let s : State := { s with net := { s.net with qps := updIf (fun q => q.part == p) Qp.restart s.net.qps } }
  (s.updPart p Part.emptyEvents).anyReset

/-- PARTITION_RESET (R404, R412): it acts when TIME has reached AT. -/
def execPartitionReset (r : PowReq) (t : Nat) (s : State) : Host.Outcome State Fault Refusal :=
  .next (
    let s := (advance t s).latchPower 5 r
    match s.power.pending with
    | some (.part p, a) =>
      let s := advance a s
      if s.ready then (s.partReset (partOf p) s.now).setPower (fun q => q.done s.now) else s
    | _ => s)

/-! ## CELL_RESET (R413) -/

/-- A cell cleared, its stage program written again; a cell that serves no stage is IDLE (R413). -/
def State.reloadCell (s : State) (n : CellId) (t : Nat) : State :=
  let c := s.cells[n]
  match c.job, c.stage with
  | some h, some st =>
    let kind := match s.job h with
      | some j => (match j.layout.stages.find? (fun x => x.number == st) with | some x => x.kind | none => 0)
      | none => 0
    let loading : Bool := match s.job h with | some j => j.prog == .streaming || j.prog == .streamed | none => false
    s.updCell n (fun c =>
      if loading then { Cell.loading h st t with traps := c.traps }
      else { c.install h st kind t with trapped := false })
  | _, _ => s.updCell n (fun c => { Cell.idle t c with traps := c.traps })

/-- Reset one cell: the running command of its job is killed with cause 9, its pending re-placement is abandoned (R166, R369,
R413). -/
def State.cellReset (s : State) (n : CellId) (t : Nat) : State :=
  let s := match s.cells[n].job with | some h => (s.killStep h 9 true).abandonRepl h t | none => s
  (s.reloadCell n t).anyReset

/-- CELL_RESET (R404, R413). -/
def execCellReset (r : PowReq) (t : Nat) (s : State) : Host.Outcome State Fault Refusal :=
  .next (
    let s := (advance t s).latchPower 6 r
    match s.power.pending with
    | some (.cell c, a) =>
      let s := advance a s
      if s.ready then
        (s.cellReset ⟨c % 128, Nat.mod_lt _ (by decide)⟩ s.now).setPower (fun q => q.done s.now)
      else s
    | _ => s)

/-! ## WARM_RESET (R414) -/

/-- Every mailbox command of the module ends, and every job closes without SEQ_END (R414). -/
def State.endEverything (s : State) (t : Nat) : State :=
  let s := s.jobs.foldl (fun s j => s.failReceives j.handle t) s
  let s := allParts.foldl (fun s p => if s.enabled p then s.endBoxes p t else s) s
  s.jobs.foldl (fun s j => s.closeNow j.handle t) s

/-- The network side after a warm reset: QP records of the signed block, no stream, no quarantine, counters 0 (R414, R415). -/
def Net.warm (n : Net) (c : ConfigBlock) : Net :=
  { n with
    host := n.host.map (fun h => { h with counters := HostCounters.reset }),
    fabCounters := FabCounters.reset, qps := c.qps.foldl applyQp [], tx := [], rx := [], viols := [], quarantined := [] }

/-- A warm reset: the hub, the control core and the cells start over on retained HBM (R411, R414-R416). An image that does not
verify leaves the module waiting for the boot watchdog (notes/assumptions/28.md). -/
def State.warmReset (s : State) (sigs : Sigs) (t : Nat) : State :=
  let s := s.endEverything t
  let s := allParts.foldl State.clearFlags s
  let s := s.anyReset
  let c := s.flash.config
  let s : State := { s with
    active := none,
    cfg := c.modCfg,
    net := s.net.warm c,
    counters := ModCounters.reset,
    parts := s.parts.map (fun q => { q.emptyEvents with evLost := 0 }),
    cells := Vector.ofFn (fun n => if s.fenced.contains n.val then Cell.reset else
      { Cell.reset with base := .idle, stateTime := t }),
    contexts := Vector.replicate 2 [], waitingReds := Vector.replicate 2 [], moduleSums := [], haltedDma := [],
    hbm := { s.hbm with selfRefresh := false },
    fw := { s.fw with forward := none, stagedObj := [] } }
  let s := s.setPower (fun q => { q with
    state := .active, entering := false, waking := false, wakeOnFlip := false, wakeAsked := false,
    coreMv := if q.state = .lull then q.activeMv else q.coreMv })
  match s.flash.current with
  | some x =>
    if sigsOk sigs = true ∧ x.stands false = true then
      { s with
        flash := { s.flash with failedBoots := 0 },
        fw := { s.fw with running := some x, mRunning := Config.sha384 x.bytes } }
    else { s with board := { s.board with bootStage := 3 }, fw := { s.fw with running := none } }
  | none => { s with board := { s.board with bootStage := 3 }, fw := { s.fw with running := none } }

/-- WARM_RESET (R404, R414, R416): it acts when TIME has reached AT; a wake request that was pending ends with RESULT 5. -/
def execWarmReset (r : PowReq) (t : Nat) (sigs : Sigs) (s : State) : Host.Outcome State Fault Refusal :=
  .next (
    let s := advance t s
    let other := s.power.pending.isSome && !s.power.go
    let s := s.latchPower 4 r
    match s.power.pending with
    | some (.warm, a) =>
      let s := advance a s
      if s.ready then
        (s.warmReset sigs s.now).setPower (fun q => if other then { q.done s.now with result := 5 } else q.done s.now)
      else s
    | _ => s)

end Sys2Proof.Machine
end

