-- ==== Sys2Proof/Machine/Cells.lean ====
section
/-! DEFINITION. The units of a cell around its array: scratchpad regions and their flow control, the updraft engines, traps and
channel halts, the log engine and the vector unit (R58, R84-R102, R112, R133, R178, R186, R357-R361). -/
namespace Sys2Proof.Machine

/-! ## Links (R85, R93) -/

/-- The steps of a walk from `a` to `b`. -/
def walk (a b : Nat) : List Nat := if a ≤ b then List.range' (a + 1) (b - a) else (List.range' b (a - b)).reverse

/-- The cells of one die that a line passes from a cell to another, along x and then along y (R85). -/
def dieRoute (a b : Nat) : List Nat :=
  (walk (a % 8) (b % 8)).map (fun x => a / 8 * 8 + x) ++ (walk (a % 64 / 8) (b % 64 / 8)).map (fun y => a / 64 * 64 + 8 * y + b % 8)

/-- The seam link that serves a cell, out of its die or into it: 128-131 and 132-135. -/
def seamOf (cell : Nat) : Nat := 2 * (cell / 64) + cell % 64 / 32

/-- The links, each from one node to the next, that a line takes from a producer to a cell: the mesh on one die; between dies the
seam of the producer's half and the matching one of the other die; from the hub, the seam of the cell's half. -/
def linksTo (src : Option CellId) (dst : CellId) : List (Nat × Nat) :=
  match src with
  | none => [(132 + seamOf dst.val, dst.val)]
  | some a =>
    if cellDie a.val = cellDie dst.val then
      let path := a.val :: dieRoute a.val dst.val
      path.zip path.tail
    else
      let into := 132 + 2 * cellDie dst.val + a.val % 64 / 32
      [(a.val, 128 + seamOf a.val), (128 + seamOf a.val, into), (into, dst.val)]

/-- The links on which a held line stands: the last of its way, where the region's write port holds it (R93). -/
def State.heldLinks (s : State) : List (Nat × Nat) :=
  (List.finRange 128).flatMap (fun n => s.cells[n].regions.toList.filterMap (fun r =>
    r.held.bind (fun h => (linksTo h.src n).getLast?)))

/-! ## Regions (R89-R94) -/

/-- Is a region full: its occupancy equals its size (R93)? -/
def Region.full (r : Region) : Bool := decide (r.size ≤ r.lines.length)

/-- A line lands at HEAD (R90, R91). -/
def Region.land (line : RLine) (r : Region) : Region :=
  { r with lines := r.lines ++ [line], head := r.head + 1, arrived := satInc r.arrived }

/-- What a line that a producer other than an engine sends does to a region (R92-R94): the cell's own units check for space, a
line over the mesh or seam needs a credit in credit mode and is held in service mode when it finds the region full. -/
def Region.receive (by_ : Producer) (src : Option CellId) (now : Nat) (step : BitVec 32) (line : Bytes) (r : Region) : Region :=
  let x : RLine := ⟨line, none, step⟩
  if by_ = .ownCell then (if r.full then r else r.land x)
  else if r.credit then (if r.credits = 0 ∨ r.full = true then r else { r.land x with credits := r.credits - 1 })
  else if r.full then { r with held := some ⟨line, now, src⟩ }
  else r.land x

/-- Is a write into some region of a cell held? -/
def Cell.holds (c : Cell) : Bool := c.regions.toList.any (fun r => r.held.isSome)

/-- The ticks of FULL_STALL_TICKS run while some write into the cell is held (R93, R111). -/
def Cell.timeHold (now : Nat) (c : Cell) : Cell :=
  if c.holds then { c with stallSince := c.stallSince.or (some now) }
  else { c with stallTicks := c.stalled now, stallSince := none }

/-- A cell is HELD while some region downstream holds its output (R112). -/
def State.markHeld (s : State) (src : Option CellId) : State :=
  match src with
  | none => s
  | some n =>
    let held := s.cells.toList.any (fun c => c.regions.toList.any (fun r => r.held.any (fun h => h.src == some n)))
    s.onCell n (fun c => { c with heldOut := held })

/-- A line from the mesh, the seam or the cell itself: none while a held line stops a link of its way, or holds the region's
port (R85, R93). -/
def State.unitWrite (s : State) (n : CellId) (r : RegionId) (by_ : Producer) (src : Option CellId) (line : Bytes) : State :=
  let x := s.cells[n].regions[r]
  if x.producer ≠ by_ ∨ x.held.isSome = true ∨ line.length ≠ 64 then s
  else if by_ ≠ .ownCell ∧ (linksTo src n).any (fun l => s.heldLinks.contains l) = true then s
  else
    (s.onCell n (fun c => (c.updRegion r (Region.receive by_ src s.now c.step line)).timeHold s.now)).markHeld src

/-! ## Updraft engines (R84, R98-R102, R178, R186) -/

/-- Change one engine of a cell. -/
def Cell.updEngine (c : Cell) (e : EngineId) (f : Updraft → Updraft) : Cell :=
  { c with upd := c.upd.set e.val (f c.upd[e.val]) e.isLt }

/-- The producer that an engine is (R89). -/
def engineOf (e : EngineId) : Producer := if e = 0 then .updraft0 else .updraft1

/-- An entry in flight with one line fewer to come. -/
def Updraft.arrive (u : Updraft) : Updraft :=
  match u.flight with
  | [] => u
  | x :: xs => { u with flight := if x.lines ≤ 1 then xs else { x with addr := x.addr + 64, lines := x.lines - 1 } :: xs }

/-- The next line of the first entry in flight reaches its region: read from HBM under its codes, into space reserved before
(R99, R101, R259). -/
def State.engineWrite (s : State) (n : CellId) (r : RegionId) (e : EngineId) : State :=
  match s.cells[n].upd[e].flight with
  | [] => s
  | x :: _ =>
    if x.region ≠ r ∨ s.hbmUp = false then s
    else
      let q := s.checkWords ⟨[], []⟩ (s.codeWords x.addr 64)
      if q.2 ≠ [] then q.2.foldl (State.badWord (.updraft e)) q.1
      else
        let line : RLine := ⟨q.1.hbm.read x.addr 64, some x.addr, x.step⟩
        q.1.onCell n (fun c => (c.updRegion r (fun y => { y.land line with reserved := y.reserved - 1 })).updEngine e Updraft.arrive)

/-- REGION_LINE_WRITE (R90): an updraft engine brings the next line of its list, any other producer the line given. -/
def execRegionLineWrite (n : CellId) (r : RegionId) (by_ : Producer) (src : Option CellId) (line : Bytes) (s : State) :
    Host.Outcome State Fault Refusal :=
  .next (match by_ with
    | .none => s
    | .updraft0 => s.engineWrite n r 0
    | .updraft1 => s.engineWrite n r 1
    | _ => s.unitWrite n r by_ src line)

/-- HELD_WRITE_RELEASE (R93): the held line lands once TAIL has advanced; its ticks count. -/
def execHeldWriteRelease (n : CellId) (r : RegionId) (t : Nat) (s : State) : Host.Outcome State Fault Refusal :=
  .next (
    let s := advance t s
    let x := s.cells[n].regions[r]
    match x.held with
    | none => s
    | some h =>
      if x.full then s
      else
        (s.onCell n (fun c => (c.updRegion r (fun y => { y.land ⟨h.line, none, c.step⟩ with held := none })).timeHold s.now)).markHeld
          h.src)

/-- The consumer takes the line at TAIL; in credit mode it grants what is free now (R90, R94). -/
def Region.consume (r : Region) : Region :=
  let r := { r with lines := r.lines.drop 1, tail := r.tail + 1 }
  if r.credit then { r with credits := satAdd r.credits r.toGrant } else r

/-- Have all token tiles of the step that need it passed the block a line is of (R84)? -/
def State.linePassed (s : State) (n : CellId) (x : RLine) : Bool :=
  match s.work n, x.src with
  | some w, some a =>
    (match s.blocks.find? (fun b => b.gref == w.step.env.graph.gref && decide (b.addr ≤ a ∧ a < b.addr + 64 * b.lines)) with
     | none => true
     | some b => match w.descs[b.desc]? with
       | none => true
       | some d =>
         if b.isData || x.step != s.cells[n].step then true
         else match w.tokens b.desc d (b.entry / Nat.max 1 (sumN (d.mats.map matEntries))) with
           | none => false
           | some xs => decide (tilesOf xs.length ≤ lookupD 0 (b.desc, b.entry) s.cells[n].passed))
  | _, _ => true

/-- REGION_LINE_CONSUME (R84, R90, R92, R260): the line at TAIL goes once an arrival wait covers it and every tile that needs it has
passed; its codes are checked as it is read. -/
def execRegionLineConsume (n : CellId) (r : RegionId) (u : Upset) (s : State) : Host.Outcome State Fault Refusal :=
  .next (
    let c := s.cells[n]
    let x := c.regions[r]
    match x.lines with
    | [] => s
    | line :: _ =>
      if x.usable c.step 0 = false ∨ s.linePassed n line = false then s
      else
        let q := c.checkAt (r, 0) u
        match q.2.2 with
        | some a => (s.cellFixed q.2.1).cellMemory n 3 a
        | none => (s.cellFixed q.2.1).onCell n (fun _ => q.1.updRegion r Region.consume))

/-- An arrival wait on a count: it completes when ARRIVED has reached it, else the cell waits (R92). -/
def Cell.awaitLines (r : RegionId) (n now : Nat) (c : Cell) : Cell :=
  if c.waitRegion.any (· != r) then c
  else if n ≤ c.regions[r].arrived.toNat then
    { c.updRegion r (fun x => { x with waited := some (Nat.max n (x.waited.getD 0)) }) with
      waitRegion := none, waitTicks := c.waited now }
  else if c.waitRegion = none ∧ c.works = true then { c with waitRegion := some r, waitSince := now }
  else c

/-- ARRIVAL_WAIT_DONE (R92). -/
def execArrivalWaitDone (c : CellId) (r : RegionId) (n t : Nat) (s : State) : Host.Outcome State Fault Refusal :=
  .next (let s := advance t s; s.onCell c (Cell.awaitLines r n s.now))

/-- A flow stall on a cell's region (R96, R357): the command is killed and re-run in credit mode; placement hears of it. -/
def State.flowStall (s : State) (n : CellId) (r : RegionId) (ticks : Nat) : State :=
  let s : State := { s with counters := { s.counters with flowStalls := satInc s.counters.flowStalls } }
  let e := { s.cellEvent 0x0005 n with arg0 := r.val, arg1 := ticks }
  match s.cells[n].job with
  | none => s
  | some h => ((s.killStep h 5 true).updJob h (fun j => { j with layout := { j.layout with flowStalled := true } })).postCell n e

/-- FLOW_STALL (R96): a write held for more than STALL_LIMIT ticks. -/
def execFlowStall (n : CellId) (r : RegionId) (t : Nat) (s : State) : Host.Outcome State Fault Refusal :=
  .next (
    let s := advance t s
    match s.cells[n].regions[r].held with
    | none => s
    | some h => if s.cfg.stallLimit < s.now - h.since then s.flowStall n r (s.now - h.since) else s)

/-- Has an engine finished the list it works on: every entry issued, and every line of them there (R99, R100)? -/
def Updraft.done (u : Updraft) : Bool := decide (u.cur.length ≤ u.pos) && u.flight.isEmpty

/-- Begin the next step's list once it is published and the current one is finished, one step ahead at most (R100). -/
def Updraft.startNext (u : Updraft) : Updraft :=
  if u.ahead = false ∧ u.halted = none ∧ u.done = true ∧ u.next.isSome = true then
    { u with ahead := true, pos := 0, waitSpace := false }
  else u

/-- UPDRAFT_LIST_START (R100). -/
def execUpdraftListStart (n : CellId) (e : EngineId) (s : State) : Host.Outcome State Fault Refusal :=
  .next (s.onCell n (fun c => c.updEngine e Updraft.startNext))

/-- The list an engine works on. -/
def Updraft.list (u : Updraft) : List FetchEntry := if u.ahead then u.next.getD [] else u.cur

/-- The step that an engine's list is for. -/
def Updraft.listStep (u : Updraft) : BitVec 32 := if u.ahead then u.curStep + 1 else u.curStep

/-- Free lines of a region that no entry has reserved (R101). -/
def Region.unreserved (r : Region) : Nat := r.size - r.lines.length - r.reserved

/-- Cut rising line numbers into runs (first, count). -/
def lineRuns : List Nat → List (Nat × Nat)
  | [] => []
  | k :: ks =>
    match lineRuns ks with
    | [] => [(k, 1)]
    | r :: rs => if r.1 = k + 1 then (k, r.2 + 1) :: rs else (k, 1) :: r :: rs

/-- The lines of a gate or up block that hold some of its rows: of Trit5 the lines of each row, of the wide formats the scale table
and the lines of each row, of a sparse block all of `n` (R178). -/
def rowLines (f : WFmt) (n : Nat) (rows : List Nat) : List (Nat × Nat) :=
  let xs := match f with
    | .trit5 => rows.flatMap (fun r => List.range' (205 * r / 64) ((205 * r + 204) / 64 + 1 - 205 * r / 64))
    | .wide2 => List.range 64 ++ rows.flatMap (fun r => List.range' (64 + 4 * r) 4)
    | .wide4 => List.range 64 ++ rows.flatMap (fun r => List.range' (64 + 8 * r) 8)
    | .sparse => List.range n
  lineRuns (sortBy (fun a b => decide (a ≤ b)) xs.eraseDups)

/-- Has the predictor pass of an expert finished its last token tile of the step, in every cell that holds a part of its second
layer (R178)? -/
def State.predictorDone (s : State) (w : Work) (desc e : Nat) : Bool :=
  (List.finRange 128).all (fun n => w.stage.cells.contains n.val == false ||
    (w.held n.val).all (fun h => !(h.desc == desc && h.row.e == e && h.row.j == 4) || s.cells[n].finished w h))

/-- The line runs that an entry fetches, none while what it waits for is not there: an expert whose token list is empty fetches
nothing, and a row-selective entry the lines of the union's rows (R178, R186, R190). -/
def State.fetchRuns (s : State) (w : Option Work) (x : FetchEntry) : Option (List (Nat × Nat)) :=
  match x.gate, w with
  | none, _ => some [(0, x.lines)]
  | some _, none => none
  | some (.route desc), some w =>
    if (w.pass.records.filter (fun r => r.1 == desc)).length = w.step.toks.length then some [(0, x.lines)] else none
  | some (.expert desc e rows), some w => match w.pass.unions.find? (fun u => u.desc == desc && u.expert == e) with
    | none => none
    | some u =>
      if u.visited = false then some []
      else match rows with
        | none => some [(0, x.lines)]
        | some (ob, f) =>
          let mine := (u.rows.filter (fun r => r / 256 == ob)).map (· % 256)
          if s.predictorDone w desc e = false then none else if mine = [] then some [] else some (rowLines f x.lines mine)

/-- The routing records that an entry brings are written before it is issued (R186). -/
def State.recordsFor (s : State) (w : Option Work) (x : FetchEntry) : State :=
  match x.gate, w with
  | some (.route desc), some w => s.storeRoutes w.job w.step.isDraft (w.pass.records.filter (fun r => r.1 == desc))
  | _, _ => s

/-- An entry is issued: its whole length is reserved, and its lines are in flight (R101). -/
def Cell.issue (e : EngineId) (x : FetchEntry) (runs : List (Nat × Nat)) (c : Cell) : Cell :=
  (c.updRegion x.region (fun r => { r with reserved := r.reserved + sumN (runs.map (·.2)) })).updEngine e (fun u => { u with
    pos := u.pos + 1, waitSpace := false,
    flight := u.flight ++ runs.map (fun r => ⟨x.addr + 64 * r.1, r.2, x.region, x.kind, u.listStep⟩) })

/-- Issue the entry reached: its whole length is reserved first, or the engine waits; an engine writes only regions whose
PRODUCER names it (R98, R101). -/
def State.issueEntry (s : State) (n : CellId) (e : EngineId) : State :=
  let c := s.cells[n]
  let u := c.upd[e]
  match u.list[u.pos]? with
  | none => s
  | some x =>
    if u.halted.isSome = true ∨ c.trapped = true ∨ c.regions[x.region].producer ≠ engineOf e then s
    else match s.fetchRuns (s.work n) x with
      | none => s
      | some runs =>
        if sumN (runs.map (·.2)) ≤ c.regions[x.region].unreserved then
          (s.recordsFor (s.work n) x).onCell n (Cell.issue e x runs)
        else s.onCell n (fun c => c.updEngine e (fun u => { u with waitSpace := true }))

/-- UPDRAFT_ENTRY_ISSUE (R101). -/
def execUpdraftEntryIssue (n : CellId) (e : EngineId) (s : State) : Host.Outcome State Fault Refusal := .next (s.issueEntry n e)

/-! ## Traps and halts (R359-R361) -/

/-- Fence a cell: 1 self-test, 2 halt, 3 repeated traps (R361, R369). It reports OFF from then on (R111, R361). -/
def State.fenceCell (s : State) (n : CellId) (why : Nat) : State :=
  if s.fenced.contains n.val then s
  else
    let s : State := { s with fenced := s.fenced ++ [n.val] }
    (s.updCell n (fun c => { c with stateTime := s.now })).postModule { event 0x0012 s.now with cell := n.val, arg0 := why }

/-- The ticks within which three traps fence a cell (R361). -/
def trapWindow : Nat := 2 ^ 30

/-- A microcode trap (R359, R361): the command is killed, the cell stays TRAPPED until its store is loaded again, and a third
trap in the window fences it. -/
def State.trapCell (s : State) (n : CellId) (offset syndrome : Nat) : State :=
  let now := s.now
  let times := s.cells[n].traps.filter (fun x => decide (now ≤ x + trapWindow)) ++ [now]
  let s : State := { s with counters := { s.counters with
    microcodeTraps := satInc s.counters.microcodeTraps, cellUncorrectable := satInc s.counters.cellUncorrectable } }
  let e := { s.cellEvent 0x0010 n with arg0 := offset, arg1 := syndrome, arg2 := times.length }
  let s := s.onCell n (fun c => { c with trapped := true, traps := times })
  let s := (s.killCell n 1).postCell n e
  if 3 ≤ times.length then s.fenceCell n 3 else s

/-- MICROCODE_TRAP (R359): a cell that runs a stage program's microcode. -/
def execMicrocodeTrap (n : CellId) (offset syndrome t : Nat) (s : State) : Host.Outcome State Fault Refusal :=
  .next (
    let s := advance t s
    let c := s.cells[n]
    if c.job = none ∨ c.base = .off ∨ c.trapped = true ∨ s.fenced.contains n.val = true then s else s.trapCell n offset syndrome)

/-- MICROCODE_RELOAD_DONE (R359): the reload is a cell reset (R411, R415): the cell leaves TRAPPED with its stage program installed,
and runs its next step in credit mode (R95). -/
def execMicrocodeReloadDone (n : CellId) (s : State) : Host.Outcome State Fault Refusal :=
  .next (
    if s.cells[n].trapped then
      let s := match s.cells[n].job with | some h => s.abandonRepl h s.now | none => s
      (s.reloadCell n s.now).anyReset
    else s)

/-- Halt an updraft engine or a hub DMA channel: its transfers are discarded and the running command is killed (R360). -/
def State.haltChannel (s : State) (chan : Nat) (n : CellId) (entry : Nat) : State :=
  let s : State := { s with counters := { s.counters with channelHalts := satInc s.counters.channelHalts } }
  if chan < 2 then
    let e : EngineId := Fin.ofNat 2 chan
    (s.onCell n (fun c => c.updEngine e (fun u => { u.restart with halted := some entry }))).killCell n 2
  else { s with haltedDma := s.haltedDma ++ [(chan, entry)] }.killActive 2

/-- CHANNEL_HALT (R360); channels 2-15 do not exist. -/
def execChannelHalt (chan : Nat) (n : CellId) (entry : Nat) (s : State) : Host.Outcome State Fault Refusal :=
  .next (
    if chan < 2 then
      (if (s.cells[n].upd.toList.getD chan Updraft.reset).halted.isSome = true ∨ s.fenced.contains n.val = true then s
       else s.haltChannel chan n entry)
    else if 16 ≤ chan ∧ chan < 32 then
      (if s.haltedDma.any (fun x => x.1 == chan) = true ∨ s.fencedDma.contains chan = true then s
       else s.haltChannel chan n entry)
    else s)

/-- CHANNEL_HALT as it is posted, once the patterns have shown their outcome (R369). -/
def State.postHalt (s : State) (chan cell entry : Nat) (pass : Bool) : State :=
  s.postModule { event 0x0011 s.now with cell := cell, loc := chan, arg0 := entry, arg1 := if pass then 1 else 2 }

/-- CHANNEL_PATTERN_DONE (R360, R361): a halted channel is restored, or its cell or itself is fenced. -/
def execChannelPatternDone (chan : Nat) (n : CellId) (pass : Bool) (s : State) : Host.Outcome State Fault Refusal :=
  .next (
    if chan < 2 then
      (match (s.cells[n].upd.toList.getD chan Updraft.reset).halted with
       | none => s
       | some entry =>
         let e : EngineId := Fin.ofNat 2 chan
         let s := s.onCell n (fun c => c.updEngine e (fun u => { u with halted := none }))
         let s := s.postHalt chan n.val entry pass
         if pass then s else s.fenceCell n 2)
    else match s.haltedDma.find? (fun x => x.1 == chan) with
      | none => s
      | some x =>
        let s : State := { s with
          haltedDma := s.haltedDma.filter (fun y => y.1 != chan),
          fencedDma := if pass then s.fencedDma else s.fencedDma ++ [chan] }
        s.postHalt chan 0xFF x.2 pass)

/-! ## LOG_ENGINE_STEP (R33, R58) -/

/-- The product of two LNS16 operands, aligned at q (R33, R58). -/
def logProduct (a b q : Nat) : Int :=
  if lnsIsZero a || lnsIsZero b then 0 else alignLog (lnsNeg a != lnsNeg b) (lnsLog a + lnsLog b) q

/-- The sums of the 64 × 64 array after a step, sum 64 i + j of row operand i and column operand j, modulo 2^48. -/
def logSumsAfter (old : List Int) (x : LogIn) : List Int :=
  x.rows.zipIdx.flatMap (fun a => x.cols.zipIdx.map (fun b =>
    wrap48 ((if x.first then 0 else old.getD (x.cols.length * a.2 + b.2) 0) + logProduct a.1 b.1 x.q)))

/-- LOG_ENGINE_STEP (R58). -/
def execLogEngineStep (n : CellId) (x : LogIn) (s : State) : Host.Outcome State Fault Refusal :=
  .next (s.onCell n (fun c => if c.works then { c with logSums := logSumsAfter c.logSums x } else c))

/-! ## VECTOR_UNIT_STEP (R133) -/

/-- LNS words with their saturations, as results. -/
def lnsResults (xs : List Lns) : List Int × Nat := (xs.map (fun x => ((x.1 : Nat) : Int)), sumN (xs.map (·.2)))

/-- exit of R133 over a vector of LNS words: align at 16, C = 1, and the requantiser at an output width. -/
def vectorExit (lsh outW tw : Nat) (seed : Option (Nat × Nat × Nat × Nat)) (a : List Int) : List Int :=
  let y0s := a.zipIdx.map (fun x => roundShift (lnsAlign x.1.toNat 16 * tokT tw) (lsh + tokS tw)
    (seed.map (fun d => lfsrValue d.1 d.2.1 d.2.2.1 (d.2.2.2 + x.2))))
  if outW = 31 then (formWisp31 y0s).1 else if outW = 16 then (formWide16 y0s).1 else (formBlock outW y0s).full

/-- What the vector unit forms, one element per lane, and the LNS saturations it counts (R133). -/
def vectorResult (op : VectorOp) (a b : List Int) : List Int × Nat :=
  match op with
  | .entry => lnsResults (List.zipWith (fun y w => entryWord y w.toNat) a b)
  | .product => lnsResults (List.zipWith (fun x y => lnsMul x.toNat y.toNat) a b)
  | .quotient => lnsResults (List.zipWith (fun x y => lnsDiv x.toNat y.toNat) a b)
  | .alignSum q => (List.zipWith (fun x y => wrap48 (y + lnsAlign x.toNat q)) a b, 0)
  | .ret q => lnsResults (a.map (fun x => lnsRet x q))
  | .fn f => match fnOfCode f with
    | some f => lnsResults (a.map (fun x => fnTable f x.toNat))
    | none => (a, 0)
  | .exit lsh outW tw seed => (vectorExit lsh outW tw seed a, 0)

/-- VECTOR_UNIT_STEP (R133). -/
def execVectorUnitStep (n : CellId) (op : VectorOp) (a b : List Int) (s : State) : Host.Outcome State Fault Refusal :=
  .next (s.onCell n (fun c =>
    if c.works then
      let r := vectorResult op a b
      { c with vec := r.1, lnsSats := satAdd c.lnsSats r.2 }
    else c))

end Sys2Proof.Machine
end

