-- ==== Sys2Proof/Machine/Recovery.lean ====
section
/-! DEFINITION. Recovery mode: its objects, their checks and where they are written, the beacon and the restart
(R397-R399). -/
namespace Sys2Proof.Machine

/-- Is the module in recovery mode (R397)? -/
def State.recovers (s : State) : Bool := s.board.bootStage == 5

/-- Is a message addressed to this module: SERIAL 0, or its own (R392)? -/
def State.forMe (s : State) (serial : Nat) : Bool := serial == 0 || serial == s.flash.serial.toNat

/-- Answer an object: STAGED, or REFUSED with a status (R399). -/
def State.recoveryAnswer (s : State) (status : Option Nat) : State :=
  s.emit (match status with | none => .recoveryReply 6 0 | some x => .recoveryReply 7 x)

/-- Does the block in CONFIG verify now, under the owner key record in flash? -/
def Flash.cfgValid (f : Flash) : Bool := sigsOk f.owner.sigs && f.configStands f.config

/-- MIN_FW_VERSION in recovery: of the block in force, 0 when none verifies (R399). -/
def State.recoveryMinFw (s : State) : Nat := if s.fw.recoveryCfgValid then s.flash.config.minFw else 0

/-- Set the flash in recovery mode; what stands in CONFIG is judged again. -/
def State.recoveryFlash (s : State) (f : Flash) : State :=
  { s with flash := f, fw := { s.fw with recoveryCfgValid := f.cfgValid } }

/-- KIND 2 IMAGE: a full runtime image goes into the slot that is not current, which becomes current (R399). -/
def State.recoverImage (s : State) (man im : Bytes) (sigs : Sigs) : State :=
  let m := manifestOf man sigs
  if sigsOk sigs = true ∧ manifestFormOk man = true ∧ m.full = true ∧ m.firstStage = false ∧ s.recoveryMinFw ≤ m.version
      ∧ im.length = m.targetBytes ∧ Config.sha384 im = m.targetDigest ∧ headerAgrees m im = true then
    let f := s.flash.setOther ⟨m, im⟩
    let s := s.recoveryFlash { f with slotB := !f.slotB }
    ({ s with fw := { s.fw with staged := false, stagedObj := [] } } : State).recoveryAnswer none
  else s.recoveryAnswer (some 0x8701)

/-- KIND 3 CONFIG: a configuration block, checked under the owner keys in force (R383, R399). -/
def State.recoverConfig (s : State) (block : Bytes) (ownerNumber : Nat) (sigs : Sigs) : State :=
  let c := configOf block ownerNumber sigs
  if sigsOk s.flash.owner.sigs = true ∧ s.flash.configStands c = true then
    (s.recoveryFlash { s.flash with config := c }).recoveryAnswer none
  else s.recoveryAnswer (some 0x8701)

/-- KIND 4 OWNER: an owner key record, checked under the root keys (R399). -/
def State.recoverOwner (s : State) (number : Nat) (digest : BitVec 384) (sigs : Sigs) : State :=
  if sigsOk sigs = true ∧ s.flash.rootOk = true then
    (s.recoveryFlash { s.flash with owner := ⟨number, digest, sigs⟩ }).recoveryAnswer none
  else s.recoveryAnswer (some 0x8701)

/-- KIND 5 FIRST: a first-stage image, written to FIRST_B and then FIRST_A (R399). -/
def State.recoverFirst (s : State) (man im : Bytes) (sigs : Sigs) : State :=
  let m := manifestOf man sigs
  if sigsOk sigs = true ∧ s.flash.rootOk = true ∧ manifestFormOk man = true ∧ m.firstStage = true
      ∧ im.length = m.targetBytes ∧ Config.sha384 im = m.targetDigest then
    let f : Flash := { s.flash with firstB := ⟨m, im⟩ }
    (s.recoveryFlash { f with firstA := ⟨m, im⟩ }).recoveryAnswer none
  else s.recoveryAnswer (some 0x8701)

/-- What RESTART does before the internal reset: the failed-boot count is 0, and the next boot's CAUSE is 2 (R399). -/
def State.restartFlash (s : State) : State :=
  { s with flash := { s.flash with failedBoots := 0 }, board := { s.board with bootCause := 2 } }

/-- RECOVERY_BEACON (R398): the boot report, over H0. -/
def execRecoveryBeacon (t : Nat) (s : State) : Host.Outcome State Fault Refusal :=
  .next (
    let s := advance t s
    if s.recovers = true ∧ s.net.host[0].up = true then s.emit (.beacon s.report.bytes) else s)

/-- RECOVERY_IMAGE (R399). -/
def execRecoveryImage (serial : Nat) (man im : Bytes) (sigs : Sigs) (s : State) : Host.Outcome State Fault Refusal :=
  .next (if s.recovers = true ∧ s.forMe serial = true then s.recoverImage man im sigs else s)

/-- RECOVERY_CONFIG (R399). -/
def execRecoveryConfig (serial : Nat) (block : Bytes) (ownerNumber : Nat) (sigs : Sigs) (s : State) :
    Host.Outcome State Fault Refusal :=
  .next (if s.recovers = true ∧ s.forMe serial = true then s.recoverConfig block ownerNumber sigs else s)

/-- RECOVERY_OWNER (R399). -/
def execRecoveryOwner (serial number : Nat) (digest : BitVec 384) (sigs : Sigs) (s : State) :
    Host.Outcome State Fault Refusal :=
  .next (if s.recovers = true ∧ s.forMe serial = true then s.recoverOwner number digest sigs else s)

/-- RECOVERY_FIRST (R399). -/
def execRecoveryFirst (serial : Nat) (man im : Bytes) (sigs : Sigs) (s : State) : Host.Outcome State Fault Refusal :=
  .next (if s.recovers = true ∧ s.forMe serial = true then s.recoverFirst man im sigs else s)

/-- RECOVERY_RESTART (R399): reset is asserted and released internally, and the module boots. -/
def execRecoveryRestart (serial : Nat) (recovN : Bool) (sa : Fin 8) (b : BootIn) (s : State) :
    Host.Outcome State Fault Refusal :=
  .next (if s.recovers = true ∧ s.forMe serial = true then s.restartFlash.release recovN sa b else s)

end Sys2Proof.Machine
end

