-- ==== Sys2Proof/Machine/Timebase.lean ====
section
/-! DEFINITION. The timebase and the coordinates: markers, the reference, seeds, and the commit of staged coordinates
(R283-R285, R317-R321, R428, R429). -/
namespace Sys2Proof.Machine

/-! ## Markers (R317, R319-R321) -/

/-- Ticks between markers (R317). -/
def markerTicks : Nat := 2 ^ 20

/-- d of R320: the count less the nearest multiple of 2^20. -/
def markerOffset (count : Nat) : Int :=
  let r := count % markerTicks
  if 2 * r < markerTicks then (r : Int) else (r : Int) - markerTicks

/-- LAST_SLIP: d saturated to ±32,767, two's complement (R318). -/
def slipField (d : Int) : BitVec 16 := BitVec.ofInt 16 (clampI (-32767) 32767 d)

/-- A 16-bit count raised by one, saturating (R318). -/
def satInc16 (c : BitVec 16) : BitVec 16 := if c = 0xFFFF then c else c + 1

/-- The correction of R320: the count holds for d ticks, or jumps forward by -d; at 2^18 or more the timebase is LOST. -/
def Timebase.correct (b : Timebase) (d : Int) : Timebase :=
  if d = 0 then b
  else
    let b := { b with slips := satInc16 b.slips, lastSlip := slipField d }
    if 2 ^ 18 ≤ d.natAbs then { b with state := .lost }
    else if 0 < d then { b with hold := d.toNat }
    else { b with time := (b.time + d.natAbs) % 2 ^ 64 }

/-- What a marker does to the timebase (R319-R321): ARMED loads the seed, SYNCED and HOLDOVER correct the count, and a corrected
HOLDOVER is SYNCED again. A seed that the count has passed is refused, so that TIME never goes back. -/
def Timebase.onMarker (b : Timebase) : Timebase :=
  let count := b.time
  let b := { b with markers := b.markers + 1, markerPresent := true, lastMarker := some count }
  match b.state with
  | .armed =>
    if b.seed.toNat < count then { b with seedStatus := 2 }
    else { b with time := b.seed.toNat, hold := 0, state := .synced, seedStatus := 1, lastMarker := some b.seed.toNat }
  | .synced => b.correct (markerOffset count)
  | .holdover =>
    let b := b.correct (markerOffset count)
    if b.state = .lost then b else { b with state := .synced }
  | _ => b

/-- Events of a marker: TIMEBASE_STEPPED for an offset of 5 or more, TIMEBASE_LOST for 2^18 or more (R320). -/
def State.markerEvents (s : State) (before : TbState) (d : Int) : State :=
  if before ≠ .synced ∧ before ≠ .holdover then s
  else if 2 ^ 18 ≤ d.natAbs then s.postModule { event 0x0042 s.now with arg0 := ofSigned 64 d }
  else if 5 ≤ d.natAbs then s.postModule { event 0x0040 s.now with arg0 := ofSigned 64 d }
  else s

/-- A marker at this instant: it is seen only while the reference clock is (R429). -/
def State.marker (s : State) : State :=
  if s.tb.running = false ∨ s.tb.refPresent = false then s
  else
    let d := markerOffset s.tb.time
    let before := s.tb.state
    ({ s with tb := s.tb.onMarker } : State).markerEvents before d

/-- MARKER (R320). -/
def execMarker (t : Nat) (s : State) : Host.Outcome State Fault Refusal := .next (advance t s).marker

/-- MARKER_MISSING (R321). -/
def execMarkerMissing (t : Nat) (s : State) : Host.Outcome State Fault Refusal :=
  .next (
    let s := advance t s
    if s.tb.running then { s with tb := { s.tb with missing := satInc16 s.tb.missing, markerPresent := false } } else s)

/-! ## REFCLK_CHECK (R321, R428) -/

/-- Is the reference within its limits: a swing above 250 mV, within 1,000 ppm (R428)? -/
def refWithin (swingMv ppm : Int) : Bool := decide (250 < swingMv ∧ -1000 ≤ ppm ∧ ppm ≤ 1000)

/-- A measurement of the reference: a SYNCED timebase that loses it holds over (R321). -/
def State.refclk (s : State) (ok : Bool) : State :=
  if s.tb.running = false then s
  else if ok = false ∧ s.tb.state = .synced then
    ({ s with tb := { s.tb with refPresent := false, state := .holdover } } : State).postModule (event 0x0041 s.now)
  else { s with tb := { s.tb with refPresent := ok } }

/-- REFCLK_CHECK (R428). -/
def execRefclkCheck (t : Nat) (swingMv ppm : Int) (s : State) : Host.Outcome State Fault Refusal :=
  .next ((advance t s).refclk (refWithin swingMv ppm))

/-! ## SEED_COMMIT (R318, R319) -/

/-- The count that the next marker meets: the next multiple of 2^20 once the count follows the markers, else one marker interval
after the last, or one from now when no marker has been seen. -/
def Timebase.atNextMarker (b : Timebase) : Nat :=
  match b.state, b.lastMarker with
  | .synced, _ => (b.time / markerTicks + 1) * markerTicks
  | .holdover, _ => (b.time / markerTicks + 1) * markerTicks
  | _, some m => if b.time < m + markerTicks then m + markerTicks else b.time + markerTicks
  | _, none => b.time + markerTicks

/-- A commit of the seed: armed, or refused with the reason in SEED_STATUS (R319). -/
def State.commitSeed (s : State) : State :=
  let b := s.tb
  if b.seed.toNat % markerTicks ≠ 0 then { s with tb := { b with seedStatus := 3 } }
  else if b.seed.toNat < b.atNextMarker then { s with tb := { b with seedStatus := 2 } }
  else if b.state = .synced ∧ s.jobs ≠ [] then { s with tb := { b with seedStatus := 4 } }
  else { s with tb := { b with state := .armed } }

/-- SEED_COMMIT (R319): 0x5A arms; other values do nothing. -/
def State.seedWrite (s : State) (v : Nat) : State := if s.powerAnswers = true ∧ v = 0x5A then s.commitSeed else s

/-- SEED_COMMIT (R319). -/
def execSeedCommit (v : Byte) (s : State) : Host.Outcome State Fault Refusal := .next (s.seedWrite v.toNat)

/-- TIME_LATCH_READ (R318): all eight bytes of TIME, where the block answers. -/
def execTimeLatchRead (s : State) : Host.Outcome State Fault Refusal :=
  .next (if s.powerAnswers then { s with tb := { s.tb with latched := BitVec.ofNat 64 s.tb.time } } else s)

/-! ## COORDINATE_COMMIT (R283, R284) -/

/-- Is a set of staged fields valid (R283)? -/
def coordValid (x : BitVec 256) : Bool :=
  let n := x.toNat
  decide (fld n 0 12 ≤ 4094 ∧ fld n 16 8 ≤ 254)
    && (List.range 6).all (fun p =>
      fld n (8 * (8 + 4 * p)) 16 == 0 || fld n (8 * (8 + 4 * p) + 16) 8 != 0)

/-- The commit of the staged copy: all of it at one instant, or none (R284). -/
def State.commitCoord (s : State) : State :=
  if coordValid s.coord.staged = false then { s with coord := { s.coord with status := 3 } }
  else if s.jobs ≠ [] then { s with coord := { s.coord with status := 2 } }
  else { s with coord := { s.coord with live := s.coord.staged, status := 1, committed := true } }

/-- A write to COMMIT: 0xA5 commits; other values do nothing (R283). -/
def State.coordWrite (s : State) (v : Nat) : State := if s.powerAnswers = true ∧ v = 0xA5 then s.commitCoord else s

/-- COORDINATE_COMMIT (R284). -/
def execCoordinateCommit (v : Byte) (s : State) : Host.Outcome State Fault Refusal := .next (s.coordWrite v.toNat)

end Sys2Proof.Machine
end

