-- ==== Sys2Proof/Machine/Board.lean ====
section
/-! DEFINITION. The sideband and the board: sensors, the test access port, the two I3C targets, writes to the status area, and
MCTP messages (R430-R434). -/
namespace Sys2Proof.Machine

/-! ## SENSOR_REFRESH (R432) -/

/-- Does the status target have a supply (R425)? -/
def Board.statusOn (b : Board) : Bool := b.aux || b.vin

/-- SENSOR_REFRESH (R432). -/
def execSensorRefresh (v : Sensors) (t : Nat) (s : State) : Host.Outcome State Fault Refusal :=
  .next (
    let s := advance t s
    if s.board.statusOn then { s with board := { s.board with sensors := v } } else s)

/-! ## The TAP (R434) -/

/-- Change the TAP. -/
def State.setTap (s : State) (f : Tap → Tap) : State := { s with board := { s.board with tap := f s.board.tap } }

/-- Do the boundary cells drive the pins: EXTEST or CLAMP, while MOD_RESET_N is low (R434)? -/
def Board.tapDrives (b : Board) : Bool := (b.tap.ir == .extest || b.tap.ir == .clamp) && b.resetLow

/-- Do the pins float: HIGHZ, while MOD_RESET_N is low (R434)? -/
def Board.tapFloats (b : Board) : Bool := b.tap.ir == .highz && b.resetLow

/-- TAP_RESET (R434): the pins are under functional control. -/
def execTapReset (s : State) : Host.Outcome State Fault Refusal := .next (s.setTap (fun t => { t with ir := .reset }))

/-- TAP_BYPASS (R434): the one-bit register takes TDI and shifts out what it held. -/
def execTapBypass (tdi : Bool) (s : State) : Host.Outcome State Fault Refusal :=
  .next ((s.emit (.tdo [s.board.tap.bypassBit])).setTap (fun t => { t with ir := .bypass, bypassBit := tdi }))

/-- The identification code (R434). -/
def idCode : Nat := 0x15B7354B

/-- TAP_IDCODE (R434): the code leaves least significant bit first. -/
def execTapIdcode (s : State) : Host.Outcome State Fault Refusal :=
  .next ((s.emit (.tdo ((List.range 32).map (idCode.testBit ·)))).setTap (fun t => { t with ir := .idcode }))

/-- TAP_SAMPLE_PRELOAD (R434): the boundary cells capture the pins and take what is shifted in; the pins keep their
function. -/
def execTapSamplePreload (captured loaded : List Bool) (s : State) : Host.Outcome State Fault Refusal :=
  .next ((s.emit (.tdo captured)).setTap (fun t => { t with ir := .sample, captured := captured, loaded := loaded }))

/-- An instruction that acts only while MOD_RESET_N is low, and as BYPASS otherwise (R434). -/
def State.tapInReset (s : State) (ir : TapIr) : State :=
  s.setTap (fun t => { t with ir := if s.board.resetLow then ir else .bypass })

/-- TAP_EXTEST (R434). -/
def execTapExtest (s : State) : Host.Outcome State Fault Refusal := .next (s.tapInReset .extest)

/-- TAP_CLAMP (R434). -/
def execTapClamp (s : State) : Host.Outcome State Fault Refusal := .next (s.tapInReset .clamp)

/-- TAP_HIGHZ (R434). -/
def execTapHighz (s : State) : Host.Outcome State Fault Refusal := .next (s.tapInReset .highz)

/-! ## The I3C targets (R430) -/

/-- The static address of a target: 0x30 or 0x38 plus the straps (R430). -/
def Board.staticAddr (b : Board) : I3cTarget → Nat
  | .status => 0x30 + b.sa.val
  | .mctp => 0x38 + b.sa.val

/-- Is the MCTP target served: in READY and in recovery mode (R430)? -/
def Board.mctpOn (b : Board) : Bool := b.bootStage == 4 || b.bootStage == 5

/-- Give a target a dynamic address, where it is there and has none yet. -/
def Board.assign (b : Board) (x : I3cTarget) (addr : Nat) : Board :=
  match x with
  | .status => if b.statusOn = true ∧ b.i3cStatus = none then { b with i3cStatus := some addr } else b
  | .mctp => if b.mctpOn = true ∧ b.i3cMctp = none then { b with i3cMctp := some addr } else b

/-- I3C_SETDASA (R430): by the static address. -/
def execI3cSetdasa (x : I3cTarget) (static dyn : Nat) (s : State) : Host.Outcome State Fault Refusal :=
  .next (if static = s.board.staticAddr x then { s with board := s.board.assign x dyn } else s)

/-- I3C_ENTDAA (R430): by the provisional ID. -/
def execI3cEntdaa (x : I3cTarget) (dyn : Nat) (s : State) : Host.Outcome State Fault Refusal :=
  .next { s with board := s.board.assign x dyn }

/-! ## STATUS_TARGET_WRITE (R431) -/

/-- A block's bytes with a write laid over them: the block begins at `base`, the write at `off`. -/
def overlay (img : Bytes) (base off : Nat) (data : Bytes) : Bytes :=
  img.zipIdx.map (fun b => if off ≤ base + b.2 then (data[base + b.2 - off]?).getD b.1 else b.1)

/-- The byte that a write puts at an offset. -/
def written (off : Nat) (data : Bytes) (o : Nat) : Option Nat :=
  if off ≤ o then (data[o - off]?).map (·.toNat) else none

/-- Does a write meet `n` bytes from an offset? -/
def meets (off : Nat) (data : Bytes) (o n : Nat) : Bool := decide (off < o + n ∧ o < off + data.length)

/-- The fields of the staged coordinates; reserved bits are not kept (R283). -/
def coordMask : Nat :=
  0xFFF + 0xFF * 2 ^ 16 + 0xFFFF * 2 ^ 32 + sumN ((List.range 6).map (fun p => 0xFFFFFF * 2 ^ (8 * (8 + 4 * p))))

/-- The coordinate block: staged fields, then COMMIT (R283). -/
def State.writeCoord (s : State) (off : Nat) (data : Bytes) : State :=
  let img := leNat (overlay (leBytes 32 s.coord.staged.toNat) 0x100 off data)
  let s : State := { s with coord := { s.coord with staged := BitVec.ofNat 256 (img &&& coordMask) } }
  match written off data 0x120 with
  | some v => s.coordWrite v
  | none => s

/-- The timebase block: SEED, then SEED_COMMIT (R318). -/
def State.writeTime (s : State) (off : Nat) (data : Bytes) : State :=
  let img := leNat (overlay (leBytes 8 s.tb.seed.toNat) 0x208 off data)
  let s : State := { s with tb := { s.tb with seed := BitVec.ofNat 64 img } }
  match written off data 0x210 with
  | some v => s.seedWrite v
  | none => s

/-- The request that bytes 0x00-0x0F of the power request block make (R402). -/
def powReqOf (b : Bytes) : PowReq where
  atTime := u64 b 8
  partition := fld (u8 b 0) 4 3
  cell := u8 b 1
  wakeOnFlip := bit (u8 b 2) 0
  key := u16 b 4
  reservedNonzero := decide (2 ≤ u8 b 2) || u8 b 3 != 0 || u16 b 6 != 0

/-- The power request block: while GO reads 1 a write is ignored; GO submits what the block then holds (R402). -/
def State.writePower (s : State) (off : Nat) (data : Bytes) : State :=
  if s.power.go = true ∨ meets off data 0x300 16 = false then s
  else
    let b := overlay (leBytes 16 s.power.reqLow.toNat) 0x300 off data
    let r := powReqOf b
    let code := u8 b 0 % 16
    let s := s.setPower (fun q => { q with reqLow := powLow r code })
    if bit (u8 b 0) 7 ∧ (written off data 0x300).isSome = true then (s.latchPower code r).actPower else s

/-- The software fields of a generator block (R279). -/
def Gen.lowBytes (g : Gen) : Bytes :=
  [0] ++ leBytes 1 (g.pattern.toNat + 8 * g.op.toNat + 32 * g.pcMask.toNat) ++ leBytes 2 g.loops.toNat ++ leBytes 4 g.first.toNat
    ++ leBytes 4 g.last.toNat ++ leBytes 4 g.seed.toNat

/-- A generator block with its software fields from bytes. -/
def Gen.withLow (b : Bytes) (g : Gen) : Gen :=
  { g with
    pattern := BitVec.ofNat 3 (u8 b 1), op := BitVec.ofNat 2 (fld (u8 b 1) 3 2), pcMask := BitVec.ofNat 2 (fld (u8 b 1) 5 2),
    loops := BitVec.ofNat 16 (u16 b 2), first := BitVec.ofNat 32 (u32 b 4), last := BitVec.ofNat 32 (u32 b 8),
    seed := BitVec.ofNat 32 (u32 b 0x0C) }

/-- A generator block: its fields, then CTRL: 1 starts, 2 stops, 0 and 3 do nothing (R279). -/
def State.writeGen (off : Nat) (data : Bytes) (s : State) (c : ChannelId) : State :=
  let base := 0x1000 + 64 * c.val
  if meets off data base 16 = false then s
  else
    let s := s.updGen c.val (fun g => g.withLow (overlay g.lowBytes base off data))
    match written off data base with
    | some v => if v % 4 = 1 then s.startGen c else if v % 4 = 2 then s.stopGen c else s
    | none => s

/-- Every channel. -/
def allChannels : List ChannelId := List.ofFn (fun i : Fin 192 => i)

/-- A private write to the status area (R431): the blocks behind it answer from BOOT_STAGE 3 on; in recovery mode only the
generator blocks take writes. -/
def State.statusWrite (s : State) (off : Nat) (data : Bytes) : State :=
  let s : State := { s with board := { s.board with statusOffset := (off + data.length) % 65536 } }
  let s := if s.powerAnswers then
      let s := if meets off data 0x100 0x60 then s.writeCoord off data else s
      let s := if meets off data 0x200 0x20 then s.writeTime off data else s
      s.writePower off data
    else s
  if (s.powerAnswers || s.recovers) && meets off data 0x1000 0x3000 then allChannels.foldl (State.writeGen off data) s else s

/-- STATUS_TARGET_WRITE (R431): at most 64 bytes. -/
def execStatusTargetWrite (off : Nat) (data : Bytes) (s : State) : Host.Outcome State Fault Refusal :=
  .next (if s.board.statusOn then s.statusWrite off (data.take 64) else s)

/-! ## MCTP_MESSAGE (R398, R433) -/

/-- A sensor's reading by index: VIN, PIN_W, TJ_MAX, HBM_TMAX, COOLANT_IN, COOLANT_OUT (R433). -/
def sensorValue (v : Sensors) : Nat → Option (BitVec 16)
  | 0 => some v.vin10mv
  | 1 => some v.pinW
  | 2 => some v.tjMax
  | 3 => some v.hbmTmax
  | 4 => some v.coolantIn
  | 5 => some v.coolantOut
  | _ => none

/-- What a FRU answer carries: GRADE, SERIAL and FW_VERSION (R433). -/
def State.fruData (s : State) : Bytes :=
  leBytes 1 s.flash.grade ++ leBytes 8 s.flash.serial.toNat ++ leBytes 4 s.report.fwVersion

/-- A recovery message over MCTP: the object of its header's KIND (R392, R398, R399). RESTART asserts the reset; the release that
follows is MOD_RESET_N_RELEASE. -/
def State.mctpRecovery (s : State) (hdr obj : Bytes) (sigs : Sigs) : State :=
  let man := obj.take manifestBytes
  let im := obj.drop manifestBytes
  if s.recovers = false ∨ fwHeaderOk hdr obj = false ∨ s.forMe (u64 hdr 0x10) = false then s
  else match u8 hdr 0 with
    | 2 => s.recoverImage man im sigs
    | 3 => s.recoverConfig obj s.flash.owner.number sigs
    | 4 => s.recoverOwner (Config.ownerNumberOf obj) (Config.sha384 obj) sigs
    | 5 => s.recoverFirst man im sigs
    | 9 =>
      let s := s.restartFlash.fresh
      { s with board := { s.board.hubDown 1 with resetLow := true } }
    | _ => s

/-- An answer to a message: the DMTF encodings are outside the manual, so the words around the data are a free value (R433). -/
def State.mctpReply (s : State) (kind : Nat) (data : Bytes) : State :=
  s.emit (.mctpReply (Config.pldmEncoding kind ++ data))

/-- A message to the MCTP target (R433). -/
def State.mctp (s : State) : MctpMsg → State
  | .setEndpointId e => ({ s with board := { s.board with eid := e % 256 } } : State).mctpReply 0 (leBytes 1 e)
  | .getEndpointId => s.mctpReply 1 (leBytes 1 s.board.eid)
  | .pldmDiscovery => s.mctpReply 2 []
  | .pldmSensor i => match sensorValue s.board.sensors i with
    | some v => s.mctpReply 3 (leBytes 2 v.toNat)
    | none => s
  | .pldmFru => s.mctpReply 4 s.fruData
  | .recovery hdr obj rsa slh => s.mctpRecovery hdr obj ⟨rsa, slh⟩
  | .other => s

/-- MCTP_MESSAGE (R433). -/
def execMctpMessage (msg : MctpMsg) (s : State) : Host.Outcome State Fault Refusal :=
  .next (if s.board.mctpOn then s.mctp msg else s)

end Sys2Proof.Machine
end

