-- ==== Sys2Proof/Machine/Fabric.lean ====
section
/-! DEFINITION. The fabric ports: links and LLDP (R282, R286), and the fabric transport (R302-R312). -/
namespace Sys2Proof.Machine

/-! ## Links (R281, R282, R286, R366) -/

/-- Change one fabric port. -/
def State.updFab (s : State) (p : FabPort) (f : FPort → FPort) : State :=
  { s with net := { s.net with fab := s.net.fab.set p.val (f s.net.fab[p.val]) p.isLt } }

/-- Change one host port. -/
def State.updHost (s : State) (p : HostPort) (f : HPort → HPort) : State :=
  { s with net := { s.net with host := s.net.host.set p.val (f s.net.host[p.val]) p.isLt } }

/-- The bit of SELFTEST that a port has (R380). -/
def portTestBit : Port → Nat
  | .host p => 1936 + p.val
  | .fabric p => 1940 + p.val

/-- Does the self-test hold a port down (R366)? -/
def State.portHeld (s : State) (p : Port) : Bool := s.report.selfTest.contains (portTestBit p)

/-- Does the module run its Ethernet ports: READY, or, for H0 alone, in recovery mode (R397, R398)? -/
def State.portsRun (s : State) (p : Port) : Bool :=
  s.ready || (s.board.bootStage == 5 && (match p with | .host h => h == 0 | .fabric _ => false))

/-- Send what one stream may send; nothing goes to a quarantined peer (R306, R312). -/
def State.pumpOne (s : State) (k : StreamKey) : State :=
  match s.net.tx.find? (fun x => x.key == k) with
  | none => s
  | some x =>
    if s.streamLost k then s
    else
      let r := s.net.pump (s.wire k) x
      { s with net := r.1, out := s.out ++ r.2 }

/-- Send what the streams may send, on ports that have come to carry frames (R309). -/
def State.pumpAll (s : State) : State := (s.net.tx.map (·.key)).foldl State.pumpOne s

/-- A link has come up (R281, R282): a fabric port waits for its neighbour's LLDP. -/
def State.linkRises (s : State) (p : Port) : State :=
  if s.portHeld p = true ∨ s.portsRun p = false then s
  else match p with
    | .host h => s.updHost h (fun q => { q with up := true })
    | .fabric f =>
      if s.net.fab[f.val].up then s
      else (s.updFab f (fun q => { q with up := true, upAt := s.now, matched := false, miswired := false })).pumpAll

/-- LINK_UP (R281, R282). -/
def execLinkUp (port : Port) (t : Nat) (s : State) : Host.Outcome State Fault Refusal := .next ((advance t s).linkRises port)

/-- A link has gone down: a host port counts it and carries nothing that waited (R290, R373). -/
def State.linkFalls (s : State) (p : Port) : State :=
  match p with
  | .host h =>
    if s.net.host[h.val].up then
      s.updHost h (fun q => { q with
        up := false, xoff := false, pausedUntil := none, paused := [], counters := { q.counters with linkDown := satInc q.counters.linkDown } })
    else s
  | .fabric f => s.updFab f (fun q => { q with up := false, matched := false, miswired := false })

/-- LINK_DOWN (R281, R373). -/
def execLinkDown (port : Port) (s : State) : Host.Outcome State Fault Refusal := .next (s.linkFalls port)

/-! ## LLDP (R286) -/

/-- The ticks of one second (R317). -/
def second : Nat := 156250000

/-- Does a fabric port take part in LLDP: up, with a non-zero SWITCH, in a running module? -/
def State.lldpRuns (s : State) (p : FabPort) : Bool := s.ready && s.net.fab[p.val].up && s.coord.switch p.val != 0

/-- The port's own frame, once a second. -/
def State.lldpSend (s : State) (p : FabPort) : State :=
  let q := s.net.fab[p.val]
  if s.lldpRuns p = true ∧ (q.lldpAt = 0 ∨ q.lldpAt + second ≤ s.now) then
    (s.updFab p (fun q => { q with lldpAt := s.now })).emit
      (.lldp p (s.coord.member.mac 0x02 0) (s.coord.member.fabMac p))
  else s

/-- LLDP_TRANSMIT (R286). -/
def execLldpTransmit (port : FabPort) (t : Nat) (s : State) : Host.Outcome State Fault Refusal :=
  .next ((advance t s).lldpSend port)

/-- The decimal digits of a number as text; `fuel` bounds them. -/
def decimalGo : Nat → Nat → Bytes
  | 0, _ => []
  | fuel + 1, n => (if n < 10 then [] else decimalGo fuel (n / 10)) ++ [BitVec.ofNat 8 (48 + n % 10)]

/-- A number below 10^5 as decimal text (R286). -/
def decimal (n : Nat) : Bytes := decimalGo 5 n

/-- Does a neighbour's frame name the switch and port that the coordinates expect (R286)? -/
def State.neighbourOk (s : State) (p : FabPort) (f : LldpIn) : Bool :=
  f.chassisSub == 7 && f.chassis == decimal (s.coord.switch p.val) && f.portSub == 7 && f.portId == decimal (s.coord.portNo p.val)

/-- A neighbour's frame: one that matches within 5 s of link-up settles the port; a port marked miswired stays so. -/
def State.lldpSee (s : State) (p : FabPort) (f : LldpIn) : State :=
  if s.lldpRuns p = true ∧ s.neighbourOk p f = true ∧ s.net.fab[p.val].miswired = false then
    s.updFab p (fun q => { q with matched := true })
  else s

/-- LLDP_FRAME (R286). -/
def execLldpFrame (port : FabPort) (f : LldpIn) (s : State) : Host.Outcome State Fault Refusal := .next (s.lldpSee port f)

/-- Five seconds after link-up without a match the port is miswired (R286, R369). -/
def State.miswire (s : State) (p : FabPort) : State :=
  let q := s.net.fab[p.val]
  if s.lldpRuns p = true ∧ q.matched = false ∧ q.miswired = false ∧ q.upAt + 5 * second ≤ s.now then
    (s.updFab p (fun q => { q with miswired := true })).postModule
      { event 0x0031 s.now with loc := 4 + p.val, arg0 := s.coord.switch p.val + 65536 * s.coord.portNo p.val }
  else s

/-- LLDP_MISWIRE_TIMEOUT (R286). -/
def execLldpMiswireTimeout (port : FabPort) (t : Nat) (s : State) : Host.Outcome State Fault Refusal :=
  .next ((advance t s).miswire port)

/-! ## A received frame (R303) -/

/-- A received frame: its transport header, whether a reserved field is set, and its payload. -/
structure FabFrame where
  job : Nat
  src : Nat
  dst : Nat
  typ : Nat
  reason : Nat
  cls : Nat
  seq : BitVec 32
  offset : Nat
  length : Nat
  first : Bool
  last : Bool
  ackv : Bool
  sync : Bool
  ports : BitVec 6
  ack : BitVec 32
  crc : Nat
  reservedSet : Bool
  payload : Bytes
  whole : Bool
  deriving DecidableEq, Repr

/-- Big-endian field of a header. -/
def beAt (b : Bytes) (o n : Nat) : Nat := beNat (sub b o n)

/-- Read a frame's MAC client data (R302, R303); bytes after LENGTH are ignored. -/
def fabFrameOf (b : Bytes) : FabFrame :=
  let flags := beAt b 0x16 2
  let len := beAt b 0x14 2
  { job := beAt b 0 4, src := beAt b 4 1, dst := beAt b 5 1, typ := beAt b 6 1 % 16, reason := beAt b 7 1,
    cls := beAt b 8 2 % 16, seq := BitVec.ofNat 32 (beAt b 0x0C 4), offset := beAt b 0x10 4, length := len,
    first := bit flags 0, last := bit flags 1, ackv := bit flags 2, sync := bit flags 3,
    ports := BitVec.ofNat 6 (fld flags 8 6), ack := BitVec.ofNat 32 (beAt b 0x18 4), crc := beAt b 0x1C 4,
    reservedSet := decide (16 ≤ beAt b 6 1 ∨ 16 ≤ beAt b 8 2 ∨ beAt b 0x0A 2 ≠ 0 ∨ fld flags 4 4 ≠ 0 ∨ fld flags 14 2 ≠ 0),
    payload := sub b 0x20 len, whole := decide (len + 32 ≤ b.length) }

/-- The key of a peer's stream, and what a frame's addresses make of it: dropped and counted, perhaps a violation, or the
stream (R304, R311). -/
inductive Sender where
  | notOpen
  | wrongRank
  | badSource (job peer : Nat)
  | stream (k : StreamKey)
  deriving DecidableEq, Repr

/-- Whom a violation of a source address counts against: a rank of the job, or the address itself (R311). -/
def Job.peerOfMac (j : Job) (src : BitVec 48) : Nat :=
  match memberOfMac src with
  | none => strangerId src
  | some m => if j.members.contains m then j.members.findIdx (· == m) else strangerId src

/-- What a frame's addresses say (R302, R304, R311). -/
def State.senderOf (s : State) (port : FabPort) (src : BitVec 48) (x : FabFrame) : Sender :=
  if x.job = 0 then
    match memberOfMac src with
    | none => .badSource 0 (strangerId src)
    | some m => if m.fabMac port = src then .stream ⟨0, m.code, x.cls⟩ else .badSource 0 m.code
  else match s.job x.job with
    | none => .notOpen
    | some j =>
      if x.dst ≠ j.rank then .wrongRank
      else match j.members[x.src]? with
        | none => .badSource x.job (j.peerOfMac src)
        | some m =>
          if x.src ≠ j.rank ∧ m.fabMac port = src then .stream ⟨x.job, x.src, x.cls⟩
          else .badSource x.job (j.peerOfMac src)

/-- Does a graph have a routed bank, whose terms travel (R192)? -/
def Graph.routes (g : Graph) : Bool := g.descs.any (fun d => d.routed)

/-- Does a job, or JOB 0, use a class (R304)? TERM is for graphs with a routed bank, and REDUCE for those with a shared one,
the only operator whose sums cross ranks (R152). -/
def State.classUsed (s : State) (job cls : Nat) : Bool :=
  if job = 0 then cls == 5 || cls == 6
  else match s.job job with
    | none => false
    | some j =>
      if cls = 3 then (s.jobGraphs j).any Graph.routes
      else if cls = 2 then (s.jobGraphs j).any (fun g => g.descs.any (fun d => d.opcode == 8 && !d.routed))
      else decide (cls < 5)

/-- Do GATHER or TERM records fill a payload exactly (R315)? `fuel` bounds them. -/
def gathersFill : Nat → Bytes → Bool
  | 0, bs => bs.isEmpty
  | fuel + 1, bs =>
    if bs = [] then true
    else
      let n := u16 bs 6
      let size := 16 + n * (if bit (u8 bs 0x0B) 0 then 24 else 40)
      decide (1 ≤ n ∧ n ≤ 204 ∧ size ≤ bs.length) && gathersFill fuel (bs.drop size)

/-- Does a DATA frame carry whole records (R304, R311)? -/
def wholeRecords (x : FabFrame) : Bool :=
  let body := if x.first = true ∧ 1 ≤ x.cls ∧ x.cls ≤ 4 then x.payload.drop 8 else x.payload
  let headed := !(x.first && decide (1 ≤ x.cls ∧ x.cls ≤ 4)) || decide (8 ≤ x.length)
  headed && (match x.cls with
    | 0 => x.length == 16
    | 1 => gathersFill (body.length / 40 + 1) body
    | 2 => body.length % 520 == 0
    | 3 => gathersFill (body.length / 40 + 1) body
    | 4 => body.length % 4 == 0
    | _ => true)

/-! ## Acceptance (R306-R308) -/

/-- A stream from which nothing has been received (R306). -/
def RxStream.fresh (k : StreamKey) (port : FabPort) (rank : Nat) : RxStream := ⟨k, 0, [], [], none, 0, 0, port, rank, none⟩

/-- The stream as a frame with SYNC finds it: such a frame starts it anew at its SEQ, except that the very frame with which it
began, sent again, is a duplicate (R306, R307; DEDUCED, notes/assumptions/85.md). -/
def RxStream.sync (x : RxStream) (seq : BitVec 32) (crc : Nat) : RxStream :=
  if x.synced = some (seq, crc) ∧ (x.expected - seq).toNat ≤ 1024 then x
  else { RxStream.fresh x.key x.port x.rank with expected := seq, synced := some (seq, crc) }

/-- Where a frame's SEQ falls (R306, R332). -/
inductive Window where
  | duplicate
  | outside
  | inside
  deriving DecidableEq, Repr

/-- The window of R306: at the expected number or less than 1,024 beyond it is inside; earlier, or held already, is a
duplicate; anything else is outside. -/
def RxStream.window (x : RxStream) (seq : BitVec 32) : Window :=
  if (seq - x.expected).toNat < 1024 then (if x.held.any (fun f => f.seq == seq) then .duplicate else .inside)
  else match serialCmp 32 seq.toNat x.expected.toNat with
    | .earlier => .duplicate
    | _ => .outside

/-- OFFSET that the frame after another of its message carries. -/
def RxFrame.nextOffset (f : RxFrame) : Nat := if f.last then 0 else f.offset + f.length

/-- Does OFFSET follow the previous frame of the message, where that frame is known (R311)? -/
def RxStream.offsetOk (x : RxStream) (f : RxFrame) : Bool :=
  if f.seq = x.expected then f.offset == x.nextOffset
  else match x.held.find? (fun g => g.seq == f.seq - 1) with
    | some g => f.offset == g.nextOffset
    | none => true

/-- Move the expected number over the frames held in order. -/
def RxStream.drain : Nat → RxStream → RxStream
  | 0, x => x
  | n + 1, x => match x.held.find? (fun f => f.seq == x.expected) with
    | none => x
    | some f => RxStream.drain n { x with
        expected := x.expected + 1, nextOffset := f.nextOffset, held := x.held.filter (fun g => g.seq != f.seq) }

/-- The SEQs missing before an arriving frame. -/
def RxStream.gapsTo (x : RxStream) (seq : BitVec 32) : List (BitVec 32) :=
  ((List.range (seq - x.expected).toNat).map (fun i => x.expected + BitVec.ofNat 32 i)).filter (fun q =>
    !x.held.any (fun f => f.seq == q) && !x.missing.any (fun m => m.1 == q))

/-- Accept a frame (R306, R308). -/
def RxStream.accept (x : RxStream) (f : RxFrame) (port : FabPort) (now : Nat) : RxStream :=
  let x := { x with
    missing := (x.missing ++ (x.gapsTo f.seq).map (fun q => (q, now))).filter (fun m => m.1 != f.seq),
    held := x.held ++ [f], port := port, ackDue := some (x.ackDue.getD now), unackedCount := x.unackedCount + 1 }
  x.drain (x.held.length + 1)

/-- Put a receiving stream in its place. -/
def State.setRx (s : State) (x : RxStream) : State :=
  { s with net := { s.net with rx := s.net.rx.filter (fun y => y.key != x.key) ++ [x] } }

/-- Send an ACK of a stream on a port (R308, R309). -/
def State.sendAck (s : State) (x : RxStream) (port : FabPort) : State :=
  (s.setRx x.acked).emit (s.ackOut port x)

/-- NAK a frame, count it, and count the violation where its reason is one (R305, R311). -/
def State.nakFrame (s : State) (port : FabPort) (k : StreamKey) (x : FabFrame) (reason : Nat)
    (count : FabCounters → FabCounters) : State :=
  let s := (s.emit (s.nakOut port k x.src x.seq reason)).fabCount count
  if 3 ≤ reason then s.violation k.job k.peer reason else s

/-! ## The sender's side of a frame (R308-R310) -/

/-- Change a sending stream. -/
def State.updTx (s : State) (k : StreamKey) (f : TxStream → TxStream) : State :=
  { s with net := { s.net with tx := updIf (fun x => x.key == k) f s.net.tx } }

/-- An acknowledgement of a stream (R308): the frames before it are done, and frames that waited go out. -/
def State.ackArrive (s : State) (k : StreamKey) (ack : BitVec 32) : State :=
  match s.net.tx.find? (fun x => x.key == k) with
  | none => s
  | some x =>
    let rest := x.unacked.dropWhile (fun f => serialCmp 32 f.seq.toNat ack.toNat == .earlier && f.sentOn.isSome)
    if rest.length = x.unacked.length then s
    else (s.updTx k (fun x => { x with unacked := rest, progressAt := s.now })).pumpOne k

/-- A frame has been resent FAB_RETRIES times: the peer is unreachable, and its job's command is killed; a forward that
waits for it fails (R310, R391). -/
def State.unreachable (s : State) (k : StreamKey) (seq : BitVec 32) : State :=
  if k.job = 0 then
    (match s.fw.forward with
     | some f => if k.cls = 6 ∧ f.2.2.code = k.peer then s.endForward (fail 0x8704) else s
     | none => s)
  else match s.job k.job with
    | none => s
    | some j =>
      let step := match j.step with | some x => x.number.toNat | none => noField
      (s.killStep k.job 6 true).postPart j.part
        { event 0x0032 s.now with job := k.job, step := step, arg0 := k.peer, arg1 := seq.toNat, arg2 := k.cls }

/-- Resend one frame of a stream on the port after the one that carried it before (R308, R309). -/
def State.resend (s : State) (k : StreamKey) (seq : BitVec 32) : State :=
  match s.net.tx.find? (fun x => x.key == k) with
  | none => s
  | some x => match x.unacked.find? (fun f => f.seq == seq && f.sentOn.isSome) with
    | none => s
    | some f =>
      let last := match f.sentOn with | some p => rotation.findIdx (· == p) | none => x.lastPort
      let w := s.wire k
      match nextPort w.up w.peerUp last with
      | none => s
      | some (p, _) =>
        let f : TxFrame := { f with resends := f.resends + 1, sentOn := some p }
        let o := s.net.dataOut w p k f
        let s := (s.updTx k (fun x => { x with unacked := updIf (fun g => g.seq == seq) (fun _ => f) x.unacked })).emit o
        let s : State := { s with net := s.net.ackCarried k [o] }
        let s := s.fabCount (fun c => { c with resends := satInc c.resends })
        if f.resends = s.cfg.fabRetries then s.unreachable k seq else s

/-- What a frame of any type tells of the reverse stream: the ports its sender has up, and an acknowledgement (R303,
R309). -/
def State.reverse (s : State) (k : StreamKey) (x : FabFrame) : State :=
  let s : State := match s.peerOf k with
    | some m => { s with net := { s.net with peerPorts := assocSet m.code x.ports s.net.peerPorts } }
    | none => s
  if x.ackv then s.ackArrive k x.ack else s

/-! ## The frame as R311 handles it -/

/-- A DATA frame past the checks of its header: CRC, then its records, the window and OFFSET, then acceptance (R306, R307,
R311). -/
def State.dataArrive (s : State) (port : FabPort) (k : StreamKey) (x : FabFrame) : State :=
  if x.length ≠ 0 ∧ crc32 x.payload ≠ x.crc then s.nakFrame port k x 2 (fun c => { c with crc := satInc c.crc })
  else if wholeRecords x = false then s.nakFrame port k x 4 (fun c => { c with badLength := satInc c.badLength })
  else
    let s := s.reverse k x
    let r := ((s.net.rx.find? (fun y => y.key == k)).getD (RxStream.fresh k port x.src))
    let r := { (if x.sync = true ∧ k.job = 0 then r.sync x.seq x.crc else r) with rank := x.src }
    let f : RxFrame := ⟨x.seq, x.offset, x.length, x.last⟩
    match r.window x.seq with
    | .duplicate => (s.fabCount (fun c => { c with duplicates := satInc c.duplicates })).sendAck r port
    | .outside => s.nakFrame port k x 5 (fun c => { c with outOfWindow := satInc c.outOfWindow })
    | .inside =>
      if r.offsetOk f = false then s.nakFrame port k x 3 (fun c => { c with badOffset := satInc c.badOffset })
      else
        let r := r.accept f port s.now
        let s := (s.setRx r).emit (.deliver k x.seq x.payload)
        if 32 ≤ r.unackedCount then s.sendAck r port else s

/-- Do FIRST and LAST agree with OFFSET (R311): FIRST stands at OFFSET 0 alone, and a CONTROL record is a whole message (R313)? -/
def flagsOk (x : FabFrame) : Bool := x.first == (x.offset == 0) && (x.cls != 0 || (x.first && x.last))

/-- A frame whose addresses stand: its fields, then what its TYPE asks (R308, R311). -/
def State.frameFrom (s : State) (port : FabPort) (k : StreamKey) (x : FabFrame) : State :=
  if s.streamLost k then s
  else if 3 ≤ x.typ ∨ x.reservedSet = true ∨ (x.typ = 0 ∧ flagsOk x = false) then
    s.nakFrame port k x 7 (fun c => { c with badFlags := satInc c.badFlags })
  else if s.classUsed k.job x.cls = false then s.nakFrame port k x 6 (fun c => { c with badClass := satInc c.badClass })
  else if 8192 < x.length ∨ x.whole = false then
    s.nakFrame port k x 4 (fun c => { c with badLength := satInc c.badLength })
  else match x.typ with
    | 0 => s.dataArrive port k x
    | 1 => s.reverse k x
    | _ =>
      let s := s.reverse k x
      if x.reason = 1 ∨ x.reason = 2 then s.resend k x.seq else s

/-- A received frame (R286, R311): a port that carries no transport frame drops it. -/
def State.fabArrive (s : State) (port : FabPort) (src : BitVec 48) (frame : Bytes) : State :=
  let x := fabFrameOf frame
  if s.ready = false ∨ s.carries port = false then s
  else match s.senderOf port src x with
    | .notOpen => s.fabCount (fun c => { c with notOpen := satInc c.notOpen })
    | .wrongRank => s.fabCount (fun c => { c with wrongRank := satInc c.wrongRank })
    | .badSource h peer =>
      let s := s.fabCount (fun c => { c with badSource := satInc c.badSource })
      if s.streamLost ⟨h, peer, 0⟩ then s else s.violation h peer 6
    | .stream k => s.frameFrom port k x

/-- TYPE of a frame (R303). -/
def fabType (frame : Bytes) : Nat := (fabFrameOf frame).typ

/-- FABRIC_DATA_FRAME (R306, R311): a DATA frame, or one of a reserved TYPE. -/
def execFabricDataFrame (port : FabPort) (src : BitVec 48) (frame : Bytes) (s : State) : Host.Outcome State Fault Refusal :=
  .next (if fabType frame = 1 ∨ fabType frame = 2 then s else s.fabArrive port src frame)

/-- FABRIC_ACK_FRAME (R308). -/
def execFabricAckFrame (port : FabPort) (src : BitVec 48) (frame : Bytes) (s : State) : Host.Outcome State Fault Refusal :=
  .next (if fabType frame = 1 then s.fabArrive port src frame else s)

/-- FABRIC_NAK_FRAME (R308). -/
def execFabricNakFrame (port : FabPort) (src : BitVec 48) (frame : Bytes) (s : State) : Host.Outcome State Fault Refusal :=
  .next (if fabType frame = 2 then s.fabArrive port src frame else s)

/-! ## The transport's timers (R308) -/

/-- A SEQ that stays missing is NAKed with GAP every FAB_GAP ticks (R308). -/
def State.gapExpires (s : State) (k : StreamKey) (seq : BitVec 32) : State :=
  match s.net.rx.find? (fun x => x.key == k) with
  | none => s
  | some x => match x.missing.find? (fun m => m.1 == seq) with
    | none => s
    | some m =>
      if m.2 + s.cfg.fabGap ≤ s.now ∧ s.streamLost k = false then
        (s.setRx { x with missing := updIf (fun m => m.1 == seq) (fun m => (m.1, s.now)) x.missing }).emit
          (s.nakOut x.port k x.rank seq 1)
      else s

/-- FAB_GAP_EXPIRY (R308). -/
def execFabGapExpiry (key : StreamKey) (seq : Nat) (t : Nat) (s : State) : Host.Outcome State Fault Refusal :=
  .next ((advance t s).gapExpires key (BitVec.ofNat 32 seq))

/-- FAB_RTO ticks without progress: the oldest unacknowledged frame goes again, or what never went out goes (R308). -/
def State.rtoExpires (s : State) (k : StreamKey) : State :=
  match s.net.tx.find? (fun x => x.key == k) with
  | none => s
  | some x => match x.unacked with
    | [] => s
    | f :: _ =>
      if x.progressAt + s.cfg.fabRto ≤ s.now ∧ s.streamLost k = false then
        let s := s.updTx k (fun x => { x with progressAt := s.now })
        if f.sentOn.isSome then s.resend k f.seq else s.pumpOne k
      else s

/-- FAB_RTO_EXPIRY (R308, R310). -/
def execFabRtoExpiry (key : StreamKey) (t : Nat) (s : State) : Host.Outcome State Fault Refusal :=
  .next ((advance t s).rtoExpires key)

/-- 625 ticks after the first unacknowledged frame an ACK goes out (R308). -/
def State.ackDelay (s : State) (k : StreamKey) : State :=
  match s.net.rx.find? (fun x => x.key == k) with
  | none => s
  | some x => match x.ackDue with
    | none => s
    | some d => if d + 625 ≤ s.now ∧ s.streamLost k = false then s.sendAck x x.port else s

/-- FABRIC_ACK_DELAY (R308). -/
def execFabricAckDelay (key : StreamKey) (t : Nat) (s : State) : Host.Outcome State Fault Refusal :=
  .next ((advance t s).ackDelay key)

end Sys2Proof.Machine
end

