-- ==== Sys2Proof/Machine/Roce.lean ====
section
/-! DEFINITION. The host ports: RoCE packets into and out of the windows, notices, congestion, PFC, ARP (R287-R301). -/
namespace Sys2Proof.Machine

/-! ## Counters and violations (R300, R301, R373) -/

/-- Change the counters of a host port. -/
def State.hostCount (s : State) (p : HostPort) (f : HostCounters → HostCounters) : State :=
  s.updHost p (fun q => { q with counters := f q.counters })

/-- The rows of R300, each with its counter. -/
inductive RoceFault where
  | icrc
  | badQp
  | wrongPath
  | badTransport
  | psnAhead
  | duplicate
  | invalid
  | access
  | owned
  deriving DecidableEq, Repr

/-- The offset of a fault's counter (R373). -/
def RoceFault.offset : RoceFault → Nat
  | .icrc => 0
  | .badQp => 4
  | .wrongPath => 8
  | .badTransport => 0x0C
  | .psnAhead => 0x10
  | .duplicate => 0x14
  | .invalid => 0x18
  | .access => 0x1C
  | .owned => 0x20

/-- Count a fault (R300). -/
def RoceFault.count (x : RoceFault) (c : HostCounters) : HostCounters :=
  match x with
  | .icrc => { c with icrcErr := satInc c.icrcErr }
  | .badQp => { c with badQp := satInc c.badQp }
  | .wrongPath => { c with wrongPath := satInc c.wrongPath }
  | .badTransport => { c with badTransport := satInc c.badTransport }
  | .psnAhead => { c with psnSeq := satInc c.psnSeq }
  | .duplicate => { c with dup := satInc c.dup }
  | .invalid => { c with invReq := satInc c.invReq }
  | .access => { c with access := satInc c.access }
  | .owned => { c with owned := satInc c.owned }

/-- ROCE_VIOLATION for a queue pair and counter, at most once in each 156,250 ticks (R301). -/
def State.roceEvent (s : State) (q : Qp) (port : HostPort) (psn : Nat) (x : RoceFault) : State :=
  let recent := match q.lastEvents.find? (fun e => e.1 == x.offset) with
    | some e => decide (s.now < e.2 + 156250)
    | none => false
  if recent then s
  else (s.updQp q.index (fun q => { q with lastEvents := assocSet x.offset s.now q.lastEvents })).postPart q.part
    { event 0x0030 s.now with loc := port.val, arg0 := q.index, arg1 := psn, arg2 := x.offset }

/-- A message that ends early hands over no mailbox: words it left at OWN = 1 go back to 0 (R293). -/
def State.dropFlips (s : State) (k : Nat) : State :=
  match s.qp k with
  | none => s
  | some q =>
    (q.flips.foldl (fun s x => if (s.box x.1 x.2).owned then s else s.ctrlWrite x.1 (boxAt x.2) (zeros 8)) s).updQp k
      (fun q => { q with flips := [] })

/-- A queue pair enters the error state (R301). -/
def State.qpError (s : State) (k : Nat) : State :=
  (s.dropFlips k).updQp k (fun q => { q with inError := some s.now, notices := [] })

/-! ## What R300 makes of a packet -/

/-- The payload bytes of a PMTU encoding (R290). -/
def Qp.mtu (q : Qp) : Nat := 128 * 2 ^ q.pmtu

/-- READ responses of a queue pair that wait for a pause to end. -/
def State.readsOut (s : State) (q : Qp) : Nat :=
  (s.net.host[q.port.val].paused.filter (fun o => match o with | .roce k _ (.readData ..) => k == q.index | _ => false)).length

/-- Does a packet's length agree with the PMTU, its place in the message and the RETH length (R300)? -/
def lengthOk (q : Qp) (x : RocePkt) : Bool :=
  x.first == (x.msgOff == 0) && (match x.op with
    | .read => x.payload.isEmpty && x.first && x.last
    | _ => if x.last then x.msgOff + x.payload.length == x.msgLen && decide (x.payload.length ≤ q.mtu)
        else x.payload.length == q.mtu && decide (x.msgOff + x.payload.length < x.msgLen))

/-- Which window a key opens to a queue pair, and the window's length (R291). -/
def State.windowOf (s : State) (q : Qp) (rkey : Nat) : Option (Bool × Nat) :=
  let r := s.planRec q.part
  if r.enabled = false then none
  else if rkey = r.ctrlKey.toNat then some (false, 0x20000)
  else if rkey = r.bulkKey.toNat then some (true, r.window)
  else none

/-- The bytes of a window that a packet itself touches: all of a READ's, a WRITE's payload. -/
def pktBytes (x : RocePkt) : Nat := match x.op with | .read => x.msgLen | _ => x.payload.length

/-- Does a WRITE touch a mailbox that the module owns (R295)? -/
def State.touchesBox (s : State) (p : PartId) (a n : Nat) : Bool :=
  allBoxes.any (fun m => (s.box p m).owned && decide (0 < n ∧ a < boxAt m + 0x4000 ∧ boxAt m < a + n))

/-- Does a WRITE touch a slot that the module owns (R295)? -/
def State.touchesSlot (s : State) (p : PartId) (a n : Nat) : Bool :=
  let r := s.planRec p
  let e := a + n
  if n = 0 ∨ e ≤ r.flagBytes then false
  else
    let lo := (Nat.max a r.flagBytes - r.flagBytes) / r.slotSize
    let hi := (e - 1 - r.flagBytes) / r.slotSize
    (List.range' lo (hi + 1 - lo)).any (s.slotOwned p)

/-- The first row of R300 that a packet of a queue pair breaks once its PSN is the expected one, or, for a READ that is
executed again, whatever its PSN. -/
def State.requestFault (s : State) (q : Qp) (x : RocePkt) : Option RoceFault :=
  if x.op ≠ .write ∧ x.op ≠ .read then some .invalid
  else if lengthOk q x = false then some .invalid
  else if x.op = .read ∧ q.maxRd ≤ s.readsOut q then some .invalid
  else match s.windowOf q x.rkey with
    | none => some .access
    | some w =>
      let start := x.va - x.msgOff
      if x.va < x.msgOff ∨ w.2 < start + x.msgLen then some .access
      else if w.1 = true ∧ s.power.state = .calm then some .owned
      else if x.op = .read then none
      else if w.1 then (if s.touchesSlot q.part x.va x.payload.length then some .owned else none)
      else if s.touchesBox q.part x.va x.payload.length then some .owned else none

/-- What becomes of a received packet: dropped and counted, perhaps against a queue pair; NAKed; or executed, a duplicate
READ without its PSN moving on (R300). -/
inductive Verdict where
  | drop (x : RoceFault) (q : Option Qp)
  | ahead (q : Qp)
  | again (q : Qp)
  | nak (x : RoceFault) (q : Qp)
  | run (q : Qp) (fresh : Bool)
  deriving DecidableEq, Repr

/-- How far a PSN lies past the expected one, modulo 2^24 (R300). -/
def psnAhead (q : Qp) (psn : Nat) : Nat := (BitVec.ofNat 24 psn - q.recvPsn).toNat

/-- The rows of R300 in order. A datagram to QP 1 is told by its QP before the QPN is looked up (DEDUCED,
notes/assumptions/30.md). -/
def State.verdict (s : State) (x : RocePkt) : Verdict :=
  if x.icrcOk = false then .drop .icrc none
  else if x.qp1 then .drop .badTransport none
  else match (if x.qpn < 0x100 then none else s.qp (x.qpn - 0x100)) with
    | none => .drop .badQp none
    | some q =>
      if q.inError.isSome then .drop .badQp (some q)
      else if x.port ≠ q.port ∨ x.srcGid ≠ q.remoteGid then .drop .wrongPath (some q)
      else if x.transport ≠ .rc then .drop .badTransport (some q)
      else
        let d := psnAhead q x.psn
        if d = 0 then (match s.requestFault q x with | some f => .nak f q | none => .run q true)
        else if d < 2 ^ 23 then .ahead q
        else if x.op = .read then (match s.requestFault q x with | some f => .nak f q | none => .run q false)
        else .again q

/-! ## Placing a WRITE (R293, R295) -/

/-- A mailbox whose word a placed packet covers: OWN = 1 marks it for the end of the message, OWN = 0 unmarks it (R293). -/
def State.watch (s : State) (k : Nat) (p : PartId) (a n : Nat) : State :=
  allBoxes.foldl (fun s m =>
    if a ≤ boxAt m ∧ boxAt m < a + n then
      let own := bit (u8 (s.ctrlRead p (boxAt m) 1) 0) 0
      s.updQp k (fun q => { q with flips := q.flips.filter (fun f => f != (p, m)) ++ (if own then [(p, m)] else []) })
    else s) s

/-- Hand one mailbox over that a message left at OWN = 1: the host still owns it and the word still stands so (R293). -/
def State.handBox (k : Nat) (s : State) (x : PartId × BoxId) : State :=
  if (s.box x.1 x.2).owned = false ∧ bit (u8 (s.ctrlRead x.1 (boxAt x.2) 1) 0) 0 = true then
    (s.updBox x.1 x.2 (fun b => { b with owned := true, taken := false, flipTime := s.now, flipQp := some k })).wakeFlip
  else s

/-- The last packet of a message is placed: every mailbox it left at OWN = 1 is the module's (R293). -/
def State.handOver (s : State) (k : Nat) : State :=
  match s.qp k with
  | none => s
  | some q =>
    let s := q.flips.foldl (State.handBox k) s
    s.updQp k (fun q => { q with flips := [] })

/-- A WRITE into the control window. -/
def State.placeCtrl (s : State) (q : Qp) (x : RocePkt) : State :=
  (s.ctrlWrite q.part x.va x.payload).watch q.index q.part x.va x.payload.length

/-- A WRITE into the bulk window: flags of module-owned slots keep their values and are counted (R295). -/
def State.placeBulk (s : State) (q : Qp) (x : RocePkt) : State :=
  let slots := (s.planRec q.part).slots
  let n := Nat.min x.payload.length (slots - x.va)
  let old := s.bulkRead q.part x.va n
  let kept := (old.filter (· == 1)).length
  let flags := List.zipWith (fun o b => if o = (1 : Byte) then o else b) old (x.payload.take n)
  let s := s.bulkStore q.part x.va (flags ++ x.payload.drop n)
  s.hostCount x.port (fun c => { c with flagKept := satAdd c.flagKept kept })

/-- Execute a WRITE: place it, acknowledge it, and, with its last packet, hand over what it flipped (R293, R295). -/
def State.runWrite (s : State) (q : Qp) (x : RocePkt) : State :=
  let bulk := match s.windowOf q x.rkey with | some w => w.1 | none => false
  let s := if bulk then s.placeBulk q x else s.placeCtrl q x
  let s := s.updQp q.index (fun q => { q with recvPsn := q.recvPsn + 1, nakSent := false })
  let s := if x.last then s.handOver q.index else s
  s.emitRoce q (.ack (BitVec.ofNat 24 x.psn))

/-! ## Answering a READ (R291, R295) -/

/-- The bytes a READ returns: those of a module-owned slot are free values (R295). -/
def State.readBytes (s : State) (q : Qp) (x : RocePkt) : Bytes :=
  match s.windowOf q x.rkey with
  | some (true, _) =>
    let r := s.planRec q.part
    (s.bulkRead q.part x.va x.msgLen).zipIdx.map (fun b =>
      let v := x.va + b.2
      if r.flagBytes ≤ v ∧ s.slotOwned q.part ((v - r.flagBytes) / r.slotSize) = true then
        Config.ownedSlotByte (s.draws + b.2)
      else b.1)
  | _ => s.ctrlRead q.part x.va x.msgLen

/-- Execute a READ; a fresh one takes a PSN for each response packet (R290, R291). -/
def State.runRead (s : State) (q : Qp) (x : RocePkt) (fresh : Bool) : State :=
  let bs := s.readBytes q x
  let s : State := { s with draws := s.draws + x.msgLen }
  let n := Nat.max 1 (ceilDiv x.msgLen q.mtu)
  let s := if fresh then
      s.updQp q.index (fun q => { q with recvPsn := q.recvPsn + BitVec.ofNat 24 n, nakSent := false })
    else s
  s.emitRoce q (.readData (BitVec.ofNat 24 x.psn) bs)

/-! ## A packet -/

/-- A packet marked CE draws a CNP to its QP, at most one in CNP_INTERVAL (R298). -/
def State.cnpFor (s : State) (q : Qp) (x : RocePkt) : State :=
  let due := match q.cnpSentAt with | none => true | some t => decide (t + s.cfg.cnpInterval ≤ s.now)
  if x.ce = true ∧ due = true then
    ((s.updQp q.index (fun q => { q with cnpSentAt := some s.now })).hostCount q.port
      (fun c => { c with cnpSent := satInc c.cnpSent })).emitRoce q .cnp
  else s

/-- A fault of a queue pair's packet: counted on the port it came in on, and posted (R300, R301). -/
def State.roceFault (s : State) (x : RocePkt) (q : Qp) (f : RoceFault) : State :=
  (s.hostCount x.port f.count).roceEvent q x.port x.psn f

/-- What a verdict does. -/
def State.apply (s : State) (x : RocePkt) : Verdict → State
  | .drop f none => s.hostCount x.port f.count
  | .drop f (some q) => s.roceFault x q f
  | .ahead q =>
    let s := (s.cnpFor q x).roceFault x q .psnAhead
    if q.nakSent then s
    else (s.updQp q.index (fun q => { q with nakSent := true })).emitRoce q (.nakSeq q.recvPsn)
  | .again q => ((s.cnpFor q x).roceFault x q .duplicate).emitRoce q (.ack (q.recvPsn - 1))
  | .nak f q =>
    let s := ((s.cnpFor q x).roceFault x q f).qpError q.index
    s.emitRoce q (match f with
      | .invalid => .nakInv (BitVec.ofNat 24 x.psn)
      | _ => .nakAccess (BitVec.ofNat 24 x.psn))
  | .run q fresh =>
    let s := s.cnpFor q x
    if fresh then (match x.op with | .read => s.runRead q x true | _ => s.runWrite q x)
    else (s.roceFault x q .duplicate).runRead q x false

/-- The receive buffer of a port after a packet: past its high mark the port sends XOFF for PFC_PRIO (R299). The manual gives
no marks, so whether it is past is a free value. -/
def State.fillBuffer (s : State) (p : HostPort) : State :=
  let high := Config.rxHigh s.draws
  let s : State := { s with draws := s.draws + 1 }
  if high = true ∧ s.net.host[p.val].xoff = false then
    (s.updHost p (fun q => { q with xoff := true })).emit (.pfcXoff p s.cfg.pfcPrio)
  else s

/-- A received packet on a port that carries RoCE. -/
def State.roceArrive (s : State) (x : RocePkt) : State :=
  if s.hostCarries x.port then (s.apply x (s.verdict x)).fillBuffer x.port else s

/-- Is a verdict one of the refusals of R300? -/
def Verdict.refuses : Verdict → Bool
  | .run _ _ => false
  | _ => true

/-- ROCE_RDMA_WRITE (R293, R295). -/
def execRoceRdmaWrite (pkt : RocePkt) (s : State) : Host.Outcome State Fault Refusal :=
  .next (if pkt.op = .write then s.roceArrive pkt else s)

/-- ROCE_RDMA_READ (R291). -/
def execRoceRdmaRead (pkt : RocePkt) (s : State) : Host.Outcome State Fault Refusal :=
  .next (if pkt.op = .read then s.roceArrive pkt else s)

/-- ROCE_REFUSED_PACKET (R300): a packet of any kind that breaks the protocol. -/
def execRoceRefusedPacket (pkt : RocePkt) (s : State) : Host.Outcome State Fault Refusal :=
  .next (if (s.verdict pkt).refuses then s.roceArrive pkt else s)

/-! ## Congestion (R298) -/

/-- The rate in whole Gb/s, rounded down. -/
def Rate.gbps (r : Rate) : Nat := r.num / 2 ^ r.exp

/-- Half a rate, exactly, but no less than 4 Gb/s (R298). -/
def Rate.halved (r : Rate) : Rate :=
  let h : Rate := if r.num % 2 = 0 then ⟨r.num / 2, r.exp⟩ else ⟨r.num, r.exp + 1⟩
  if h.num < 4 * 2 ^ h.exp then ⟨4, 0⟩ else h

/-- A rate 10 Gb/s higher, up to the port's 400 (R281, R298). -/
def Rate.raised (r : Rate) : Rate :=
  let h : Rate := ⟨r.num + 10 * 2 ^ r.exp, r.exp⟩
  if 400 * 2 ^ h.exp ≤ h.num then ⟨400, 0⟩ else h

/-- A CNP halves the rate, no lower than 4 Gb/s; one for a QP in error is dropped (R298, R300). -/
def State.cnpArrive (s : State) (k : Nat) : State :=
  match s.qp k with
  | none => s
  | some q =>
    if s.hostCarries q.port = false then s
    else if q.inError.isSome then s.hostCount q.port RoceFault.badQp.count
    else (s.updQp k (fun q => { q with rate := q.rate.halved, cnpRecvAt := some s.now, rateAt := s.now })).hostCount
      q.port (fun c => { c with cnpReceived := satInc c.cnpReceived })

/-- ROCE_CNP (R298). -/
def execRoceCnp (qp : Nat) (t : Nat) (s : State) : Host.Outcome State Fault Refusal := .next ((advance t s).cnpArrive qp)

/-- Ten thousand ticks without a CNP: the rate rises by 10 Gb/s, up to the port's 400 (R281, R298). -/
def State.rateRises (s : State) (k : Nat) : State :=
  s.updQp k (fun q => if q.rateAt + 10000 ≤ s.now ∧ q.rate ≠ ⟨400, 0⟩ then { q with rate := q.rate.raised, rateAt := s.now }
    else q)

/-- ROCE_RATE_INCREASE (R298). -/
def execRoceRateIncrease (qp : Nat) (t : Nat) (s : State) : Host.Outcome State Fault Refusal :=
  .next ((advance t s).rateRises qp)

/-! ## Notices (R297) -/

/-- The host answers the oldest notice: acknowledged it is done; NAKed receiver not ready it is sent again, or, the host's RNR
retries used up, the QP is in error (R297). -/
def State.noticeAnswered (s : State) (k : Nat) : NoticeAck → State
  | .ack => s.updQp k (fun q => { q with notices := q.notices.drop 1 })
  | .rnr last =>
    match s.qp k with
    | none => s
    | some q => match q.notices with
      | [] => s
      | n :: rest =>
        if last then s.qpError k
        else if s.hostCarries q.port then
          (s.updQp k (fun q => { q with notices := { n with sent := s.now } :: rest })).emitRoce q (q.noticeOut n.psn n.word)
        else s

/-- NOTICE_ACKNOWLEDGE (R297). -/
def execNoticeAcknowledge (x : NoticeIn) (s : State) : Host.Outcome State Fault Refusal :=
  .next (s.noticeAnswered x.qp x.how)

/-- The local ACK timeout in ticks, 4.096 µs × 2^TIMEOUT (R290). -/
def Qp.ackTicks (q : Qp) : Nat := 640 * 2 ^ q.timeout

/-- The oldest notice has waited its timeout: it is sent again, or, its retries used up, the QP is in error (R297). A QP whose
port's link is down sends nothing (R290). -/
def State.noticeExpires (s : State) (k : Nat) : State :=
  match s.qp k with
  | none => s
  | some q => match q.notices with
    | [] => s
    | n :: rest =>
      if s.now < n.sent + q.ackTicks ∨ s.hostCarries q.port = false then s
      else if n.retries = 0 then s.qpError k
      else (s.updQp k (fun q => { q with notices := { n with retries := n.retries - 1, sent := s.now } :: rest })).emitRoce q
        (q.noticeOut n.psn n.word)

/-- NOTICE_ACK_TIMEOUT (R297). -/
def execNoticeAckTimeout (qp : Nat) (t : Nat) (s : State) : Host.Outcome State Fault Refusal :=
  .next ((advance t s).noticeExpires qp)

/-- QP_RESTART ticks in the error state: the QP restarts at its initial PSNs (R301). -/
def State.qpRestarts (s : State) (k : Nat) : State :=
  s.updQp k (fun q => match q.inError with
    | some e => if e + s.cfg.qpRestart ≤ s.now then q.restart else q
    | none => q)

/-- QP_RESTART (R301). -/
def execQpRestart (qp : Nat) (t : Nat) (s : State) : Host.Outcome State Fault Refusal := .next ((advance t s).qpRestarts qp)

/-! ## PFC (R299) -/

/-- Sending at PFC_PRIO resumes: what waited goes out. -/
def State.resumePort (s : State) (p : HostPort) : State :=
  let waiting := s.net.host[p.val].paused
  let s := s.updHost p (fun q => { q with pausedUntil := none, paused := [] })
  { s with out := s.out ++ waiting }

/-- A PFC frame pauses PFC_PRIO, or ends its pause; of another priority, or a PAUSE frame, it is ignored and counted
(R299). -/
def State.pfcArrive (s : State) (p : HostPort) (prio ticks : Nat) : State :=
  if s.net.host[p.val].up = false then s
  else if prio ≠ s.cfg.pfcPrio then s.hostCount p (fun c => { c with pauseIgnored := satInc c.pauseIgnored })
  else if ticks = 0 then s.resumePort p
  else s.updHost p (fun q => { q with pausedUntil := some (s.now + ticks) })

/-- PFC_FRAME (R299). -/
def execPfcFrame (port : HostPort) (prio pauseTicks t : Nat) (s : State) : Host.Outcome State Fault Refusal :=
  .next ((advance t s).pfcArrive port prio pauseTicks)

/-- PFC_PAUSE_EXPIRY (R299). -/
def execPfcPauseExpiry (port : HostPort) (t : Nat) (s : State) : Host.Outcome State Fault Refusal :=
  .next (
    let s := advance t s
    match s.net.host[port.val].pausedUntil with
    | some u => if u ≤ s.now then s.resumePort port else s
    | none => s)

/-- PFC_XON (R299): the receive buffer of a port that sent XOFF has fallen below its low mark. -/
def execPfcXon (port : HostPort) (s : State) : Host.Outcome State Fault Refusal :=
  .next (if s.net.host[port.val].up = true ∧ s.net.host[port.val].xoff = true then
      (s.updHost port (fun q => { q with xoff := false })).emit (.pfcXon port s.cfg.pfcPrio)
    else s)

/-! ## ARP and neighbour discovery (R287) -/

/-- The addresses of a port's GID table (R287). -/
def State.gidsOf (s : State) (p : HostPort) : List Nat := ((List.range 4).map (s.gidAt p)).filter (· != 0)

/-- Send a frame of priority 0 from a host port: it waits where priority 0 is PFC_PRIO and PFC pauses it (R299). -/
def State.emitPlain (s : State) (p : HostPort) (o : Out) : State := if s.cfg.pfcPrio = 0 then s.emitHost p o else s.emit o

/-- ARP_REQUEST (R287). -/
def execArpRequest (port : HostPort) (addr : BitVec 32) (s : State) : Host.Outcome State Fault Refusal :=
  .next (if s.hostCarries port = true ∧ (s.gidsOf port).contains (0xFFFF * 2 ^ 32 + addr.toNat) = true then
    s.emitPlain port (.arpReply port addr (s.hostMac port)) else s)

/-- NEIGHBOR_SOLICITATION (R287). -/
def execNeighborSolicitation (port : HostPort) (addr : BitVec 128) (s : State) : Host.Outcome State Fault Refusal :=
  .next (if s.hostCarries port = true ∧ gidIsV4 addr.toNat = false ∧ (s.gidsOf port).contains addr.toNat = true then
    s.emitPlain port (.neighborAdvert port addr (s.hostMac port)) else s)

end Sys2Proof.Machine
end

