-- ==== Sys2Proof/Machine/Dispatch.lean ====
section
/-! DEFINITION. What each command does to everything but the queue: one arm per constructor of Instr. -/
namespace Sys2Proof.Machine

/-- The effect of a command (one meaning per row of the table). -/
def exec (i : Instr) (s : State) : Host.Outcome State Fault Refusal :=
  match i with
  | .queryModule p m => Sys2Proof.Machine.execQueryModule p m s
  | .applyConfigSet p m => Sys2Proof.Machine.execApplyConfigSet p m s
  | .loadGraph p m => Sys2Proof.Machine.execLoadGraph p m s
  | .loadWeights p m => Sys2Proof.Machine.execLoadWeights p m s
  | .placePreview p m => Sys2Proof.Machine.execPlacePreview p m s
  | .placeRequest p m => Sys2Proof.Machine.execPlaceRequest p m s
  | .queryPlacement p m => Sys2Proof.Machine.execQueryPlacement p m s
  | .openJob p m => Sys2Proof.Machine.execOpenJob p m s
  | .closeJob p m => Sys2Proof.Machine.execCloseJob p m s
  | .switchJob p m => Sys2Proof.Machine.execSwitchJob p m s
  | .runStep p m => Sys2Proof.Machine.execRunStep p m s
  | .admitSequence p m => Sys2Proof.Machine.execAdmitSequence p m s
  | .cancelSequence p m => Sys2Proof.Machine.execCancelSequence p m s
  | .pauseSequence p m => Sys2Proof.Machine.execPauseSequence p m s
  | .resumeSequence p m => Sys2Proof.Machine.execResumeSequence p m s
  | .shipKv p m => Sys2Proof.Machine.execShipKv p m s
  | .acceptKv p m => Sys2Proof.Machine.execAcceptKv p m s
  | .scheduleAt p m => Sys2Proof.Machine.execScheduleAt p m s
  | .readCounters p m => Sys2Proof.Machine.execReadCounters p m s
  | .readEvents p m => Sys2Proof.Machine.execReadEvents p m s
  | .fwStageDelta p m sigs => Sys2Proof.Machine.execFwStageDelta p m sigs s
  | .fwActivateAt p m => Sys2Proof.Machine.execFwActivateAt p m s
  | .fwForward p m => Sys2Proof.Machine.execFwForward p m s
  | .attest p m => Sys2Proof.Machine.execAttest p m s
  | .debugArmSnapshot p m => Sys2Proof.Machine.execDebugArmSnapshot p m s
  | .debugReadSnapshot p m => Sys2Proof.Machine.execDebugReadSnapshot p m s
  | .debugClearSelection p m => Sys2Proof.Machine.execDebugClearSelection p m s
  | .stepBoundary job t => Sys2Proof.Machine.execStepBoundary job t s
  | .scheduledInstant t => Sys2Proof.Machine.execScheduledInstant t s
  | .fwMigrationTimeout t => Sys2Proof.Machine.execFwMigrationTimeout t s
  | .stepComplete job => Sys2Proof.Machine.execStepComplete job s
  | .controlStepDone job rank step boundary => Sys2Proof.Machine.execControlStepDone job rank step boundary s
  | .controlKill job rank step reason => Sys2Proof.Machine.execControlKill job rank step reason s
  | .controlAbort job rank => Sys2Proof.Machine.execControlAbort job rank s
  | .statsMessage job rank step down body => Sys2Proof.Machine.execStatsMessage job rank step down body s
  | .reduceRecord job rec => Sys2Proof.Machine.execReduceRecord job rec s
  | .gatherRecord job rec => Sys2Proof.Machine.execGatherRecord job rec s
  | .termRecord job rec => Sys2Proof.Machine.execTermRecord job rec s
  | .shipStream shipId ship => Sys2Proof.Machine.execShipStream shipId ship s
  | .fwDeltaMessage peer hdr object sigs => Sys2Proof.Machine.execFwDeltaMessage peer hdr object sigs s
  | .fwStagedReply peer kind status => Sys2Proof.Machine.execFwStagedReply peer kind status s
  | .fabricDataFrame port src frame => Sys2Proof.Machine.execFabricDataFrame port src frame s
  | .fabricAckFrame port src frame => Sys2Proof.Machine.execFabricAckFrame port src frame s
  | .fabricNakFrame port src frame => Sys2Proof.Machine.execFabricNakFrame port src frame s
  | .fabGapExpiry key seq t => Sys2Proof.Machine.execFabGapExpiry key seq t s
  | .fabRtoExpiry key t => Sys2Proof.Machine.execFabRtoExpiry key t s
  | .fabricAckDelay key t => Sys2Proof.Machine.execFabricAckDelay key t s
  | .lldpTransmit port t => Sys2Proof.Machine.execLldpTransmit port t s
  | .lldpFrame port f => Sys2Proof.Machine.execLldpFrame port f s
  | .lldpMiswireTimeout port t => Sys2Proof.Machine.execLldpMiswireTimeout port t s
  | .linkUp port t => Sys2Proof.Machine.execLinkUp port t s
  | .linkDown port => Sys2Proof.Machine.execLinkDown port s
  | .roceRdmaWrite pkt => Sys2Proof.Machine.execRoceRdmaWrite pkt s
  | .roceRdmaRead pkt => Sys2Proof.Machine.execRoceRdmaRead pkt s
  | .roceRefusedPacket pkt => Sys2Proof.Machine.execRoceRefusedPacket pkt s
  | .roceCnp qp t => Sys2Proof.Machine.execRoceCnp qp t s
  | .roceRateIncrease qp t => Sys2Proof.Machine.execRoceRateIncrease qp t s
  | .noticeAcknowledge x => Sys2Proof.Machine.execNoticeAcknowledge x s
  | .noticeAckTimeout qp t => Sys2Proof.Machine.execNoticeAckTimeout qp t s
  | .qpRestart qp t => Sys2Proof.Machine.execQpRestart qp t s
  | .pfcFrame port prio pauseTicks t => Sys2Proof.Machine.execPfcFrame port prio pauseTicks t s
  | .pfcPauseExpiry port t => Sys2Proof.Machine.execPfcPauseExpiry port t s
  | .pfcXon port => Sys2Proof.Machine.execPfcXon port s
  | .arpRequest port addr => Sys2Proof.Machine.execArpRequest port addr s
  | .neighborSolicitation port addr => Sys2Proof.Machine.execNeighborSolicitation port addr s
  | .updraftListStart cell e => Sys2Proof.Machine.execUpdraftListStart cell e s
  | .updraftEntryIssue cell e => Sys2Proof.Machine.execUpdraftEntryIssue cell e s
  | .regionLineWrite cell r by_ src line => Sys2Proof.Machine.execRegionLineWrite cell r by_ src line s
  | .heldWriteRelease cell r t => Sys2Proof.Machine.execHeldWriteRelease cell r t s
  | .regionLineConsume cell r u => Sys2Proof.Machine.execRegionLineConsume cell r u s
  | .arrivalWaitDone cell r n t => Sys2Proof.Machine.execArrivalWaitDone cell r n t s
  | .flowStall cell r t => Sys2Proof.Machine.execFlowStall cell r t s
  | .planeStep cell g x => Sys2Proof.Machine.execPlaneStep cell g x s
  | .partialRetire cell g tile side err => Sys2Proof.Machine.execPartialRetire cell g tile side err s
  | .groupOpen cell pass tb tc x => Sys2Proof.Machine.execGroupOpen cell pass tb tc x s
  | .groupRequantise cell x => Sys2Proof.Machine.execGroupRequantise cell x s
  | .reductionContextStart die stage tile cell x => Sys2Proof.Machine.execReductionContextStart die stage tile cell x s
  | .microcodeTrap cell offset syndrome t => Sys2Proof.Machine.execMicrocodeTrap cell offset syndrome t s
  | .microcodeReloadDone cell => Sys2Proof.Machine.execMicrocodeReloadDone cell s
  | .channelHalt chan cell entry => Sys2Proof.Machine.execChannelHalt chan cell entry s
  | .channelPatternDone chan cell pass => Sys2Proof.Machine.execChannelPatternDone chan cell pass s
  | .hbmRead who addr len d => Sys2Proof.Machine.execHbmRead who addr len d s
  | .hbmWrite who addr data d => Sys2Proof.Machine.execHbmWrite who addr data d s
  | .hbmNarrowAccess who addr write d => Sys2Proof.Machine.execHbmNarrowAccess who addr write d s
  | .hbmAddRequest addr ty mask operands d => Sys2Proof.Machine.execHbmAddRequest addr ty mask operands d s
  | .lineRebuild stripe stack line => Sys2Proof.Machine.execLineRebuild stripe stack line s
  | .blockRepairDone gref desc entry => Sys2Proof.Machine.execBlockRepairDone gref desc entry s
  | .scrubVisit pc t d => Sys2Proof.Machine.execScrubVisit pc t d s
  | .generatorStart c => Sys2Proof.Machine.execGeneratorStart c s
  | .generatorStop c => Sys2Proof.Machine.execGeneratorStop c s
  | .generatorRunDone c bursts errors firstFail dqFail sideFail => Sys2Proof.Machine.execGeneratorRunDone c bursts errors firstFail dqFail sideFail s
  | .replWindowEnd job tops totals => Sys2Proof.Machine.execReplWindowEnd job tops totals s
  | .replacementCopiesDone job => Sys2Proof.Machine.execReplacementCopiesDone job s
  | .acceptKvOpenWaitExpiry p m t => Sys2Proof.Machine.execAcceptKvOpenWaitExpiry p m t s
  | .marker t => Sys2Proof.Machine.execMarker t s
  | .markerMissing t => Sys2Proof.Machine.execMarkerMissing t s
  | .refclkCheck t swingMv ppm => Sys2Proof.Machine.execRefclkCheck t swingMv ppm s
  | .seedCommit v => Sys2Proof.Machine.execSeedCommit v s
  | .timeLatchRead => Sys2Proof.Machine.execTimeLatchRead s
  | .coordinateCommit v => Sys2Proof.Machine.execCoordinateCommit v s
  | .powerRequestActive r t => Sys2Proof.Machine.execPowerRequestActive r t s
  | .powerRequestLull r t => Sys2Proof.Machine.execPowerRequestLull r t s
  | .powerRequestCalm r t => Sys2Proof.Machine.execPowerRequestCalm r t s
  | .calmEntered => Sys2Proof.Machine.execCalmEntered s
  | .warmReset r t sigs => Sys2Proof.Machine.execWarmReset r t sigs s
  | .partitionReset r t => Sys2Proof.Machine.execPartitionReset r t s
  | .cellReset r t => Sys2Proof.Machine.execCellReset r t s
  | .streamingComplete t => Sys2Proof.Machine.execStreamingComplete t s
  | .powerSample watts tjEighths t => Sys2Proof.Machine.execPowerSample watts tjEighths t s
  | .sensorRefresh v t => Sys2Proof.Machine.execSensorRefresh v t s
  | .vinRise => Sys2Proof.Machine.execVinRise s
  | .vinFall => Sys2Proof.Machine.execVinFall s
  | .auxPowerApplied => Sys2Proof.Machine.execAuxPowerApplied s
  | .modResetNAssert => Sys2Proof.Machine.execModResetNAssert s
  | .modResetNRelease recovN sa b => Sys2Proof.Machine.execModResetNRelease recovN sa b s
  | .bootWatchdogExpiry b => Sys2Proof.Machine.execBootWatchdogExpiry b s
  | .trip cause => Sys2Proof.Machine.execTrip cause s
  | .tapReset => Sys2Proof.Machine.execTapReset s
  | .tapBypass tdi => Sys2Proof.Machine.execTapBypass tdi s
  | .tapIdcode => Sys2Proof.Machine.execTapIdcode s
  | .tapSamplePreload captured loaded => Sys2Proof.Machine.execTapSamplePreload captured loaded s
  | .tapExtest => Sys2Proof.Machine.execTapExtest s
  | .tapClamp => Sys2Proof.Machine.execTapClamp s
  | .tapHighz => Sys2Proof.Machine.execTapHighz s
  | .i3cSetdasa target staticAddr dynAddr => Sys2Proof.Machine.execI3cSetdasa target staticAddr dynAddr s
  | .i3cEntdaa target dynAddr => Sys2Proof.Machine.execI3cEntdaa target dynAddr s
  | .statusTargetWrite offset data => Sys2Proof.Machine.execStatusTargetWrite offset data s
  | .mctpMessage msg => Sys2Proof.Machine.execMctpMessage msg s
  | .recoveryBeacon t => Sys2Proof.Machine.execRecoveryBeacon t s
  | .recoveryImage serial manifest image sigs => Sys2Proof.Machine.execRecoveryImage serial manifest image sigs s
  | .recoveryConfig serial block ownerNumber sigs => Sys2Proof.Machine.execRecoveryConfig serial block ownerNumber sigs s
  | .recoveryOwner serial ownerNumber digest sigs => Sys2Proof.Machine.execRecoveryOwner serial ownerNumber digest sigs s
  | .recoveryFirst serial manifest image sigs => Sys2Proof.Machine.execRecoveryFirst serial manifest image sigs s
  | .recoveryRestart serial recovN sa b => Sys2Proof.Machine.execRecoveryRestart serial recovN sa b s
  | .logEngineStep cell x => Sys2Proof.Machine.execLogEngineStep cell x s
  | .vectorUnitStep cell op a b => Sys2Proof.Machine.execVectorUnitStep cell op a b s
  | .auxPowerRemoved => Sys2Proof.Machine.execAuxPowerRemoved s
  | .mailboxProtocolViolation p m => Sys2Proof.Machine.execMailboxProtocolViolation p m s
  | .hbmRecalibrationDone => Sys2Proof.Machine.execHbmRecalibrationDone s
  | .shipCommitAcknowledged shipId => Sys2Proof.Machine.execShipCommitAcknowledged shipId s

end Sys2Proof.Machine
end

