-- ==== Sys2Proof/Safety.lean ====
section
/-! DEFINITION. The terms that claims about the block use: when a mailbox command is due, what a reply leaves, what a
command may not touch, and the invariants of a run. -/
namespace Sys2Proof.Machine

/-! ## Mailbox commands -/

/-- A well-formed command of a code stands flipped in a mailbox, and the control core serves it (R337-R339). -/
structure Due (s : State) (p : PartId) (m : BoxId) (code : Nat) : Prop where
  waits : s.waits p m = true
  header : headerFault (s.header p m) = none
  code : hdrCode (s.header p m) = code

/-- The command that stands flipped in a mailbox, with the slots it names. -/
def State.asked (s : State) (p : PartId) (m : BoxId) : Cmd := s.named (s.flipped p m)

/-- The areas that a command names lie in the bulk window, in slots that the module owns, and read clean (R341, R357). -/
structure AreasGood (s : State) (c : Cmd) : Prop where
  owned : s.areaStatus c.p (s.areas c.p c.code c.body) = none
  clean : s.badInput c = none

/-- A command of a job that is open, its caller's, not lost and not active: it commits at once (R340). -/
structure Suspended (s : State) (c : Cmd) (j : Job) : Prop where
  ofCaller : s.scoped c = .ok j
  found : s.job c.job = some j
  idle : s.active ≠ some c.job

/-- What the host finds in a mailbox after a reply (R145, R338): the whole ownership word 0, the header fields that the
module writes, the reply body of a command that succeeded, and the mailbox the host's again. -/
structure Replied (c : Cmd) (done : Nat) (r : Result) (t : State) : Prop where
  word : t.ctrlRead c.p (boxAt c.m) 8 = zeros 8
  status : u16 (t.header c.p c.m) 0x0A = r.status % 2 ^ 16
  tag : u32 (t.header c.p c.m) 0x0C = c.tag % 2 ^ 32
  length : u16 (t.header c.p c.m) 0x18 = r.reply.length % 2 ^ 16
  detail : u32 (t.header c.p c.m) 0x1C = r.detail % 2 ^ 32
  flip : u64 (t.header c.p c.m) 0x20 = c.flip % 2 ^ 64
  done : u64 (t.header c.p c.m) 0x28 = done % 2 ^ 64
  step : u32 (t.header c.p c.m) 0x30 = r.step % 2 ^ 32
  body : r.status = 0 → t.ctrlRead c.p (boxAt c.m + 0x40) r.reply.length = r.reply
  host : (t.box c.p c.m).owned = false
  free : (t.box c.p c.m).taken = false
  gone : t.cmdAt c.p c.m = none

/-- The state with everything that an answer may touch blanked: the partitions' windows, queues and records, the bytes and
side bits of HBM, notices and their queue pairs and ports, the outputs, the commands held and the counters. What stands is
what a mere report leaves alone. -/
def State.beyondAnswer (s : State) : State :=
  { s with
    parts := State.reset.parts, hbm := { s.hbm with mem := [], side := [], mixed := [] },
    net := { s.net with host := Net.reset.host, qps := [] }, out := [], cmds := [], counters := ModCounters.reset, draws := 0 }

/-- Does a byte of HBM belong to a partition's bulk window? -/
def State.inWindow (s : State) (p : PartId) (a : Nat) : Prop := ∃ v, v < (s.planRec p).window ∧ s.bulkAddr p v = a

/-! ## Jobs -/

/-- The rows whose command waits in its mailbox for the boundary of the job it affects, with the code and the check of each
(R340, R343). -/
def boundaryRows (p : PartId) (m : BoxId) (s : State) : List (Instr × Nat × Option Result) :=
  let c := s.asked p m
  [(.closeJob p m, 0x21, s.closeScope c),
   (.admitSequence p m, 0x31,
     firstFault [scopeFault (s.scoped c), bodyFault c.body (bodyFields 0x31) (admitChecks c.body)]),
   (.cancelSequence p m, 0x32, s.seqCmdCheck c),
   (.pauseSequence p m, 0x33, s.seqCmdCheck c),
   (.resumeSequence p m, 0x34, s.seqCmdCheck c),
   (.debugArmSnapshot p m, 0x80, firstFault [s.debugCheck c, if debugMode c.body = 0 then none else some (fail 0)])]

/-! ## Records -/

/-- A record in range that a step of a job of some ranks takes, and the step that then holds it (R314, R315). -/
inductive RecordHeld (h ranks : Nat) (x : Step) : Instr → Step → Prop where
  | reduce (r : ReduceRec) (now : r.step = x.number.toNat) (good : reduceOk ranks x.env.graph x r = true) :
      RecordHeld h ranks x (.reduceRecord h r) { x with reduces := x.reduces ++ [r] }
  | gather (r : GatherRec) (now : r.step = x.number.toNat) (good : gatherOk ranks x.env.graph x r = true) :
      RecordHeld h ranks x (.gatherRecord h r) { x with gathers := x.gathers ++ [r] }
  | term (r : GatherRec) (now : r.step = x.number.toNat) (good : gatherOk ranks x.env.graph x r = true)
      (scale : r.scaleWord = tokOne) : RecordHeld h ranks x (.termRecord h r) { x with terms := x.terms ++ [r] }

/-! ## Frames and packets -/

/-- A frame received on a port that carries the transport comes from the peer of a stream and passes the checks of R311 on
its header, in the order of that rule, up to its CRC. -/
structure FrameGood (s : State) (port : FabPort) (src : BitVec 48) (frame : Bytes) (k : StreamKey) : Prop where
  ready : s.ready = true
  carries : s.carries port = true
  sender : s.senderOf port src (fabFrameOf frame) = .stream k
  peer : s.streamLost k = false
  fields : (fabFrameOf frame).reservedSet = false
  typ : (fabFrameOf frame).typ < 3
  flags : (fabFrameOf frame).typ = 0 → flagsOk (fabFrameOf frame) = true
  cls : s.classUsed k.job (fabFrameOf frame).cls = true
  length : (fabFrameOf frame).length ≤ 8192
  whole : (fabFrameOf frame).whole = true

/-- A received RoCE packet that breaks no row of R300, for a queue pair, in its turn. -/
structure PacketGood (s : State) (x : RocePkt) (q : Qp) : Prop where
  carries : s.hostCarries x.port = true
  runs : s.verdict x = .run q true
  marked : x.ce = false

/-- The output that a host port sends now, or keeps while PFC pauses it (R299). -/
def State.sent (s : State) (h : HostPort) (o : Out) : Prop := o ∈ s.out ∨ o ∈ s.net.host[h.val].paused

/-! ## Cells -/

/-- Two states differ in one cell at most. -/
structure OnlyCell (s t : State) (n : CellId) : Prop where
  others : ∀ m : CellId, m ≠ n → t.cells[m.val] = s.cells[m.val]
  rest : { t with cells := s.cells } = s

/-! ## Memory -/

/-- The XOR of a stripe's twelve bytes at an offset of the stacks: 0 where data and parity agree (R269). -/
def Hbm.stripeSum (h : Hbm) (o : Nat) : Byte :=
  (List.range 12).foldl (fun x st => x ^^^ Mem.get h.mem (st * stackBytes + o)) 0

/-! ## Invariants -/

/-- Memory stands in its canonical form: HBM and every control window. -/
def State.memoryWf (s : State) : Prop := Mem.wf s.hbm.mem = true ∧ ∀ p : PartId, Mem.wf s.parts[p.val].ctrl = true

/-- What manufacture wrote into the boot flash and no command changes (R376, R377): IDENTITY and the verdict on the root
keys. -/
def Flash.identity (f : Flash) : BitVec 64 × Nat × Bytes × Bytes × Bool := (f.serial, f.grade, f.certRsa, f.certSlh, f.rootOk)

/-- Is a command one of the rows at which a boot may reach READY: they alone may change the plan in force (R335)? -/
def bootRow : Instr → Bool
  | .modResetNRelease .. | .modResetNAssert | .bootWatchdogExpiry _ | .recoveryRestart .. | .warmReset .. | .mctpMessage _
  | .vinRise | .vinFall | .trip _ => true
  | _ => false

end Sys2Proof.Machine
end

