-- ==== Sys2Proof/Certificates/Slice0/Obligations.lean ====
section
/-! DEFINITION. The statements about the model that the provers take up. -/
open Sys2Proof Sys2Proof.Machine

/-! ## The queue -/

/-- A step with a command at the front of the queue is that command's effect on the state with the queue's rest. What a step
of the block is, is the model's form (notes/assumptions/74.md). -/
def Obligations.StepRunsFront : Prop :=
  ∀ (c : Instr) (cs : List Instr) (s : State),
    step { s with pending := c :: cs } = exec c { s with pending := cs }

/-! ## Mailbox commands that report -/

/-- QUERY_MODULE, READ_COUNTERS, QUERY_PLACEMENT and ATTEST write their report through the slots they name and succeed: the
module record (R347), the counters of the kind asked for (R346, R370), the placement report that the last boundary of the job
left (R168), the signed report (R386). -/
def Obligations.ReportsAnswered : Prop :=
  (∀ (s : State) (p : PartId) (m : BoxId), Due s p m 0x01 → (s.asked p m).job = 0 → 4 ≤ (s.asked p m).body.length →
    AreasGood s (s.asked p m) →
    exec (.queryModule p m) s
      = .next ((s.slotWrite p (u32 (s.asked p m).body 0) (s.moduleRecord p)).finish (s.asked p m) (ok [])))
  ∧ (∀ (s : State) (p : PartId) (m : BoxId) (bs : Bytes), Due s p m 0x50 → s.kindScope (s.asked p m) = none →
    bodyFault (s.asked p m).body (bodyFields 0x50) (counterChecks (s.asked p m).body) = none →
    s.countersAsked (s.asked p m) = .ok bs → AreasGood s (s.asked p m) →
    exec (.readCounters p m) s
      = .next ((s.slotWrite p (u32 (s.asked p m).body 8) bs).finish (s.asked p m) (ok (leBytes 4 bs.length))))
  ∧ (∀ (s : State) (p : PartId) (m : BoxId) (j : Job), Due s p m 0x13 → s.scoped (s.asked p m) = .ok j →
    s.job (s.asked p m).job = some j →
    8 ≤ (s.asked p m).body.length → 1 ≤ u32 (s.asked p m).body 4 → u32 (s.asked p m).body 4 ≤ 65536 →
    j.layout.report.length ≤ u32 (s.asked p m).body 4 * (s.planRec p).slotSize → AreasGood s (s.asked p m) →
    exec (.queryPlacement p m) s
      = .next ((s.slotWrite p (u32 (s.asked p m).body 0) j.layout.report).finish (s.asked p m) (ok [])))
  ∧ (∀ (s : State) (p : PartId) (m : BoxId), Due s p m 0x70 → (s.asked p m).job = 0 → 36 ≤ (s.asked p m).body.length →
    AreasGood s (s.asked p m) →
    exec (.attest p m) s
      = .next (({ s with draws := s.draws + 1 }.slotWrite p (u32 (s.asked p m).body 0x20)
          (s.attestReport p (sub (s.asked p m).body 0 32))).finish (s.asked p m) (ok [])))

/-- READ_EVENTS drops the oldest MAX records from the caller's queue, writes them to the slots it names, and replies how many it
wrote and whether more stand (R346). DEBUG_ACCUM_READ mode 1 writes the job's snapshot with the tiles asked for, uses it up, and
replies its length; mode 2 drops the selection and mode 0 sets it, each replying a length of 0 (R113, R114, R346). That a reply
of modes 0 and 2 is 4 bytes of 0, and how the tiles are laid out, is the model's choice (notes/assumptions/17.md). -/
def Obligations.ReadsTake : Prop :=
  (∀ (s : State) (p : PartId) (m : BoxId) (q : List Event) (n : Nat), Due s p m 0x51 → (s.asked p m).job = 0 →
    8 ≤ (s.asked p m).body.length → q = s.parts[p.val].events → n = u32 (s.asked p m).body 4 → 1 ≤ n → n ≤ 65536 →
    AreasGood s (s.asked p m) →
    exec (.readEvents p m) s
      = .next (((s.updPart p (fun x => { x with events := q.drop n, evEmptied := (q.drop n).isEmpty })).slotWrite p
          (u32 (s.asked p m).body 0) ((q.take n).flatMap Event.bytes)).finish (s.asked p m)
            (ok (leBytes 4 (Nat.min n q.length) ++ leBytes 4 (if n < q.length then 1 else 0)))))
  ∧ (∀ (s : State) (p : PartId) (m : BoxId) (x : Snap), Due s p m 0x80 → debugMode (s.asked p m).body = 1 →
    s.debugCheck (s.asked p m) = none → s.parts[p.val].snap = some x → x.job = (s.asked p m).job →
    AreasGood s (s.asked p m) →
    exec (.debugReadSnapshot p m) s
      = .next (((s.slotWrite p (u32 (s.asked p m).body 0x18) (x.answer (u64 (s.asked p m).body 0x10))).updPart p
          (fun q => { q with snap := none })).finish (s.asked p m)
            (ok (leBytes 4 (x.answer (u64 (s.asked p m).body 0x10)).length))))
  ∧ (∀ (s : State) (p : PartId) (m : BoxId), Due s p m 0x80 → debugMode (s.asked p m).body = 2 →
    s.debugCheck (s.asked p m) = none → AreasGood s (s.asked p m) →
    exec (.debugClearSelection p m) s
      = .next ((s.updPart p (fun q => { q with snapSel := none })).finish (s.asked p m) (ok (leBytes 4 0))))
  ∧ (∀ (s : State) (p : PartId) (m : BoxId) (j : Job), Due s p m 0x80 → Suspended s (s.asked p m) j →
    debugMode (s.asked p m).body = 0 → s.debugCheck (s.asked p m) = none → AreasGood s (s.asked p m) →
    exec (.debugArmSnapshot p m) s
      = .next ((s.updPart p (fun q => { q with
          snapSel := some ⟨j.handle, u32 (s.asked p m).body 4, debugPairs (s.asked p m).body⟩ })).finish (s.asked p m)
            (ok (leBytes 4 0))))

/-- What an answer leaves in the mailbox (R145, R338): over memory in canonical form, every reply reads back. A malformed
header or an unknown code is answered with 0x8001 or 0x8002 and has no effect (R339). -/
def Obligations.AnswersReadBack : Prop :=
  (∀ (s : State) (c : Cmd) (done : Nat) (r : Result), s.memoryWf → r.reply.length ≤ 16320 →
    Replied c done r (s.answer c done r) ∧ (s.answer c done r).memoryWf)
  ∧ (∀ (s : State) (p : PartId) (m : BoxId) (st : Nat), s.memoryWf → s.waits p m = true →
    headerFault (s.header p m) = some st →
    ∃ t, exec (.mailboxProtocolViolation p m) s = .next t ∧ Replied (s.flipped p m) s.now (fail st) t
      ∧ (st = 0x8001 ∨ st = 0x8002)
      ∧ t.hbm = s.hbm ∧ t.counters = s.counters ∧ t.beyondAnswer = s.beyondAnswer)

/-- A report changes nothing but the caller's own windows, queue and mailboxes, and the record of what went out: no byte
of HBM outside the caller's bulk window, no register, table or job of the module. -/
def Obligations.ReportsFrame : Prop :=
  ∀ (s t : State) (p : PartId) (m : BoxId) (i : Instr),
    i ∈ [Instr.queryModule p m, .readCounters p m, .readEvents p m, .queryPlacement p m, .attest p m,
      .debugReadSnapshot p m, .debugClearSelection p m, .placePreview p m, .mailboxProtocolViolation p m] →
    exec i s = .next t →
    t.beyondAnswer = s.beyondAnswer ∧ ∀ a, ¬ s.inWindow p a → Mem.get t.hbm.mem a = Mem.get s.hbm.mem a

/-- A command that affects the active job waits in its mailbox for that job's boundary, and changes nothing else (R340).
RUN_STEP that passes its checks is accepted: its work list stands for the boundary that launches it, and nothing else changes
(R141, R340). -/
def Obligations.CommandsWait : Prop :=
  (∀ (s : State) (p : PartId) (m : BoxId) (x : Instr × Nat × Option Result), x ∈ boundaryRows p m s →
    Due s p m x.2.1 → x.2.2 = none → s.active = some (s.asked p m).job → AreasGood s (s.asked p m) →
    exec x.1 s = .next (s.stage (s.asked p m)))
  ∧ (∀ (s : State) (p : PartId) (m : BoxId) (j : Job) (g : Graph) (bs : Bytes), Due s p m 0x30 →
    s.scoped (s.asked p m) = .ok j → AreasGood s (s.asked p m) →
    bodyFault (s.asked p m).body (bodyFields 0x30) (stepHdrChecks (s.asked p m) j.dref.isSome) = none →
    s.fabricOk j = none → s.stepGraph j (s.asked p m).body = some g → s.weightsWhole g = true →
    bs = s.slotRead p (u32 (s.asked p m).body 0x10) (16 * u16 (s.asked p m).body 4) →
    entriesFault g (s.asked p m).body bs = none →
    exec (.runStep p m) s = .next (s.stage { s.asked p m with
      toks := (List.range (u16 (s.asked p m).body 4)).map (tokOf bs) }))

/-! ## Serving commands -/

/-- The three commands on a sequence, of a job that is not active and so commits at once (R243, R340). An admission that
meets the table of R233 enters the sequence table in WAITING at once when its job is not active (R234, R340). -/
def Obligations.SequencesServed : Prop :=
  (∀ (s : State) (p : PartId) (m : BoxId) (j : Job) (e : SeqEntry), Due s p m 0x32 → Suspended s (s.asked p m) j →
    4 ≤ (s.asked p m).body.length → AreasGood s (s.asked p m) →
    j.seqs.find? (fun e => e.req.id == u32 (s.asked p m).body 0) = some e →
    e.state = .prefill ∨ e.state = .decode ∨ e.state = .paused →
    exec (.cancelSequence p m) s = .next ((s.updJob j.handle (fun j => j.updSeq e.req.id (fun e =>
      { e with cancel := true, state := .draining, resume := none, times := { e.times with pauseTime := 0 } }))).answer
        (s.asked p m) s.now (ok [])))
  ∧ (∀ (s : State) (p : PartId) (m : BoxId) (j : Job) (e : SeqEntry), Due s p m 0x33 → Suspended s (s.asked p m) j →
    4 ≤ (s.asked p m).body.length → AreasGood s (s.asked p m) →
    j.seqs.find? (fun e => e.req.id == u32 (s.asked p m).body 0) = some e →
    e.state = .waiting ∨ e.state = .prefill ∨ e.state = .decode →
    exec (.pauseSequence p m) s = .next ((s.updJob j.handle (fun j => j.updSeq e.req.id (fun x =>
      { x with state := .paused, resume := some e.state, times := { x.times with pauseTime := s.now } }))).answer
        (s.asked p m) s.now (ok [])))
  ∧ (∀ (s : State) (p : PartId) (m : BoxId) (j : Job) (e : SeqEntry), Due s p m 0x34 → Suspended s (s.asked p m) j →
    4 ≤ (s.asked p m).body.length → AreasGood s (s.asked p m) →
    j.seqs.find? (fun e => e.req.id == u32 (s.asked p m).body 0) = some e → e.state = .paused →
    exec (.resumeSequence p m) s = .next ((s.updJob j.handle (fun j => j.updSeq e.req.id (fun x => x.resumed s.now))).answer
        (s.asked p m) s.now (ok [])))
  ∧ (∀ (s : State) (p : PartId) (m : BoxId) (j : Job), Due s p m 0x31 → Suspended s (s.asked p m) j →
    bodyFault (s.asked p m).body (bodyFields 0x31) (admitChecks (s.asked p m).body) = none → AreasGood s (s.asked p m) →
    s.admitFault j (admitReq (s.asked p m).body) (s.promptOf (s.asked p m)) = none →
    ∃ t j' e, exec (.admitSequence p m) s = .next t ∧ t.job j.handle = some j' ∧ e ∈ j'.seqs
      ∧ e.req = admitReq (s.asked p m).body ∧ e.state = .waiting ∧ e.emitted = 0 ∧ e.times.admitTime = s.now
      ∧ e.times.accAvg = 0x8000 ∧ e.slot = j.freeSlot ∧ j'.seqs.length = j.seqs.length + 1
      ∧ (∀ h, h ≠ j.handle → t.job h = s.job h))

/-- OPEN_JOB with no job active opens the job active at once (R352). SWITCH_JOB with no job active makes its job active at
once, and its programs begin to stream in (R353). CLOSE_JOB of a job that is not active frees its handle, its ranges, its
ships and its quarantine at once; graphs and weights stay (R354). -/
def Obligations.JobsServed : Prop :=
  (∀ (s : State) (p : PartId) (m : BoxId), Due s p m 0x20 → (s.asked p m).job = 0 →
    bodyFault (s.asked p m).body (openFields (s.asked p m).body) (openChecks (s.asked p m).body) = none →
    s.openFault p (s.asked p m).body = none → s.active = none →
    ∃ t j, exec (.openJob p m) s = .next t ∧ t.active = some (u32 (s.asked p m).body 0)
      ∧ t.job (u32 (s.asked p m).body 0) = some j ∧ j.part = p ∧ j.rank = u8 (s.asked p m).body 0x0D
      ∧ j.nRanks = u8 (s.asked p m).body 0x0C ∧ j.seqs = [] ∧ j.step = none ∧ j.nextStep = 0 ∧ j.prog = .streaming
      ∧ t.cmdAt p m = none ∧ t.plan = s.plan ∧ t.graphs = s.graphs ∧ t.blocks = s.blocks)
  ∧ (∀ (s : State) (p : PartId) (m : BoxId) (j : Job), Due s p m 0x22 → Suspended s (s.asked p m) j → s.active = none →
    AreasGood s (s.asked p m) →
    s.cmds.any (fun d => d.code == 0x22 && !d.sched && !(d.p == p && d.m == m)) = false →
    ∃ t j', exec (.switchJob p m) s = .next t ∧ t.active = some j.handle ∧ t.job j.handle = some j'
      ∧ j'.prog = .streaming ∧ t.jobs.length = s.jobs.length)
  ∧ (∀ (s : State) (p : PartId) (m : BoxId) (j : Job), Due s p m 0x21 → s.job (s.asked p m).job = some j → j.part = p →
    (s.asked p m).job ≠ 0 → s.active ≠ some j.handle → AreasGood s (s.asked p m) →
    ∃ t, exec (.closeJob p m) s = .next t ∧ t.job j.handle = none
      ∧ (∀ r ∈ t.hbm.ranges, r.job ≠ j.handle) ∧ (∀ x ∈ t.shipsOut, x.job ≠ j.handle)
      ∧ (∀ x ∈ t.shipsIn, x.job ≠ j.handle) ∧ (∀ x ∈ t.net.quarantined, x.1 ≠ j.handle)
      ∧ t.graphs = s.graphs ∧ t.blocks = s.blocks ∧ t.active = s.active ∧ t.plan = s.plan)

/-- LOAD_GRAPH of a valid image whose id is free enters the graph under the caller, and its data section into the block table
(R117, R118). LOAD_WEIGHTS of a good packet, for a graph that the active job does not use, commits its blocks at once: every
entry of the packet is in the block table (R138, R144). Where the model places them is notes/assumptions/5.md. That the command
waits while parity rebuilds a block it replaces is the model's reading (notes/assumptions/81.md), and the statement leaves that
case out. -/
def Obligations.LoadsCommit : Prop :=
  (∀ (s : State) (p : PartId) (m : BoxId) (h : GraphHdr) (ds : List Desc) (g : Graph) (bs : List (Block × Bytes)),
    Due s p m 0x10 → (s.asked p m).job = 0 →
    bodyFault (s.asked p m).body (bodyFields 0x10) (loadGraphChecks (s.asked p m).body) = none →
    bit (u8 (s.asked p m).body 4) 0 = false → s.hbm.degraded = false → AreasGood s (s.asked p m) →
    parseGraph (s.imageAt (s.asked p m)) = .ok (h, ds) → s.idFault p h.id false = none →
    s.replaced p h.id false = none →
    g = ⟨s.nextGref, p.val, false, h.id, h.role, h.hidden, h.vocab, h.maxCtx, h.draftOf, ds⟩ →
    bs = s.placedData g (s.imageAt (s.asked p m)) → s.blocksFit p (bs.map (·.1)) = true → s.memoryWf →
    ∃ t, exec (.loadGraph p m) s = .next t ∧ t.graphs = s.graphs ++ [g] ∧ t.nextGref = s.nextGref + 1
      ∧ t.blocks = s.blocks ++ bs.map (·.1) ∧ Replied (s.asked p m) s.now (ok (leBytes 4 h.id)) t
      ∧ t.jobs = s.jobs ∧ t.active = s.active ∧ t.plan = s.plan)
  ∧ (∀ (s : State) (p : PartId) (m : BoxId) (g : Graph) (pk : Bytes), Due s p m 0x11 → (s.asked p m).job = 0 →
    bodyFault (s.asked p m).body (bodyFields 0x11) (loadWeightsChecks (s.asked p m).body) = none →
    s.hbm.degraded = false → s.generating = false → AreasGood s (s.asked p m) →
    pk = s.slotRead p (u32 (s.asked p m).body 0) (u32 (s.asked p m).body 4) →
    s.packetFault p pk = none → s.graphOf p (u32 pk 0) = some g → s.graph g.gref = some g → packetBlocks g pk ≠ [] →
    s.blocksFit p (placeBlocks g s.allBlocks ((packetBlocks g pk).map (·.1))) = true → s.activeUses g.gref = false →
    s.rebuildsFor (placeBlocks g s.allBlocks ((packetBlocks g pk).map (·.1))) = false →
    ∃ t, exec (.loadWeights p m) s = .next t ∧ t.cmdAt p m = none ∧ t.graphs = s.graphs ∧ t.plan = s.plan
      ∧ (∀ b ∈ placeBlocks g s.allBlocks ((packetBlocks g pk).map (·.1)), b ∈ t.blocks)
      ∧ (∀ b ∈ t.blocks, b ∈ s.blocks ∨ b ∈ placeBlocks g s.allBlocks ((packetBlocks g pk).map (·.1))))

/-- PLACE with MODE 0 writes the descriptor records of the named graphs and changes no layout (R167). PLACE with MODE 1 joins the
re-placement that is pending, or waits for the next window end (R166, R167). A window ends only after REPL_WINDOW steps; it
updates the layout of its job alone, and starts a re-placement for a waiting PLACE (R164, R167). Copies that read good data
mark the pending re-placement; copies that do not abandon it (R165, R166). That a PLACE waits for this rank's re-placement
alone is the model's reading (notes/assumptions/18.md). -/
def Obligations.PlacementServed : Prop :=
  (∀ (s : State) (p : PartId) (m : BoxId) (gs : List Graph), Due s p m 0x12 → placeMode (s.asked p m).body = false →
    (s.asked p m).job = 0 → bodyFault (s.asked p m).body (bodyFields 0x12) (previewChecks (s.asked p m).body) = none →
    s.previewGraphs (s.asked p m) = .ok gs → AreasGood s (s.asked p m) →
    exec (.placePreview p m) s = .next ((s.slotWrite p (u32 (s.asked p m).body 0x0C)
      (previewRecords gs (u8 (s.asked p m).body 8) (u8 (s.asked p m).body 9))).finish (s.asked p m)
        (ok (leBytes 4 (planCrc (gs.map (·.descs)) (u8 (s.asked p m).body 8)) ++ leBytes 4 0 ++ leBytes 4 0))))
  ∧ (∀ (s : State) (p : PartId) (m : BoxId) (j : Job), Due s p m 0x12 → placeMode (s.asked p m).body = true →
    s.scoped (s.asked p m) = .ok j → s.job j.handle = some j →
    bodyFault (s.asked p m).body (bodyFields 0x12) (requestChecks (s.asked p m).body) = none →
    exec (.placeRequest p m) s = .next ((s.stage (s.asked p m)).updJob j.handle (fun j =>
      match j.layout.pending with
      | some r => { j with layout := { j.layout with pending := some { r with places := r.places ++ [(p, m)] } } }
      | none => { j with layout := { j.layout with placeWaiting := j.layout.placeWaiting ++ [(p, m)] } })))
  ∧ (∀ (s : State) (h : Nat) (tops totals : List (Nat × Nat)) (j : Job), s.job h = some j →
    j.layout.window.steps < j.cfg.replWindow → exec (.replWindowEnd h tops totals) s = .next s)
  ∧ (∀ (s : State) (h : Nat) (tops totals : List (Nat × Nat)) (j : Job), s.job h = some j →
    j.cfg.replWindow ≤ j.layout.window.steps → j.layout.placeWaiting = [] → j.cfg.replMode = 1 ∨ j.layout.sinceInstall = 0 →
    ∃ t j', exec (.replWindowEnd h tops totals) s = .next t ∧ t.job h = some j'
      ∧ j'.layout.sinceInstall = j.layout.sinceInstall + 1 ∧ j'.layout.pending = j.layout.pending
      ∧ j'.layout.window = ⟨0, 0, 0⟩ ∧ j'.layout.past = j.layout.window ∧ j'.layout.epoch = j.layout.epoch
      ∧ (∀ k, k ≠ h → t.job k = s.job k) ∧ t.hbm = s.hbm ∧ t.cells = s.cells ∧ t.parts = s.parts)
  ∧ (∀ (s : State) (h : Nat) (tops totals : List (Nat × Nat)) (j : Job), s.job h = some j →
    j.cfg.replWindow ≤ j.layout.window.steps → j.layout.pending = none → j.layout.placeWaiting ≠ [] →
    1 ≤ j.layout.sinceInstall →
    ∃ t j' r, exec (.replWindowEnd h tops totals) s = .next t ∧ t.job h = some j' ∧ j'.layout.pending = some r
      ∧ r.places = j.layout.placeWaiting ∧ r.byPlace = true ∧ r.copied = false ∧ j'.layout.placeWaiting = []
      ∧ j'.layout.epoch = j.layout.epoch ∧ (∀ k, k ≠ h → t.job k = s.job k) ∧ t.cells = s.cells ∧ t.blocks = s.blocks)
  ∧ (∀ (s : State) (h : Nat) (j : Job) (r : Repl), s.job h = some j → j.layout.pending = some r → r.copied = false →
    s.copyFails j r = false →
    ∃ t j', exec (.replacementCopiesDone h) s = .next t ∧ t.job h = some j'
      ∧ j'.layout.pending = some { r with copied := true } ∧ j'.layout.epoch = j.layout.epoch
      ∧ t.blocks = s.blocks ∧ t.cells = s.cells ∧ (∀ k, k ≠ h → t.job k = s.job k))
  ∧ (∀ (s : State) (h : Nat) (j : Job) (r : Repl), s.job h = some j → j.layout.pending = some r → r.copied = false →
    s.copyFails j r = true →
    ∃ t j', exec (.replacementCopiesDone h) s = .next t ∧ t.job h = some j' ∧ j'.layout.pending = none
      ∧ j'.layout.replAbandoned = satInc j.layout.replAbandoned ∧ j'.layout.epoch = j.layout.epoch
      ∧ (∀ x ∈ r.places, t.cmdAt x.1 x.2 = none) ∧ t.blocks = s.blocks ∧ t.cells = s.cells)

/-- A module-scope configuration set that meets R350 applies whole at once when no job is active; a job-scope set of a
suspended job likewise, to that job alone (R340, R348). -/
def Obligations.ConfigSetApplies : Prop :=
  (∀ (s : State) (p : PartId) (m : BoxId) (b : Bytes) (c : Cmd), Due s p m 0x02 →
    c = s.named { s.flipped p m with data := b } → c.job = 0 → 8 ≤ c.body.length → AreasGood s c →
    b = s.slotRead p (u32 c.body 0) (Nat.min 73744 (u32 c.body 4)) → bit (u8 b 0) 0 = true → s.setFault p b = none →
    s.active = none → s.job 0 = none →
    exec (.applyConfigSet p m) s = .next (({ s with
      cfg := s.cfg.apply (cfgSet b).entries,
      net := { s.net with qps := (cfgSet b).qps.foldl applyQp s.net.qps } } : State).finish c (ok [])))
  ∧ (∀ (s : State) (p : PartId) (m : BoxId) (b : Bytes) (c : Cmd) (j : Job), Due s p m 0x02 →
    c = s.named { s.flipped p m with data := b } → Suspended s c j → 8 ≤ c.body.length → AreasGood s c →
    b = s.slotRead p (u32 c.body 0) (Nat.min 73744 (u32 c.body 4)) → bit (u8 b 0) 0 = false → s.setFault p b = none →
    j.layout.pending = none →
    exec (.applyConfigSet p m) s = .next ((s.updJob j.handle (fun j =>
      { j with cfg := j.cfg.apply (cfgSet b).entries })).finish c (ok [])))

/-! ## Ships -/

/-- ACCEPT_KV that passes its checks reserves frames for its pages, opens the receive and keeps its mailbox; short of frames it
fails with 0x8202 (R223, R224). A receive whose manifest did not come within OPEN_WAIT ends with status 0x8405 (R224). A ship's
stream that agrees with its destination, a suspended job, is published as accepted KV state at its committed length, and
ACCEPT_KV ends (R222, R225). How many pages it reserves frames for, and that a stream arrives as one row, are the model's
reading and choice (notes/assumptions/20.md). -/
def Obligations.ShipsReceived : Prop :=
  (∀ (s : State) (p : PartId) (m : BoxId) (j : Job) (g : Graph) (r : Job × List (Nat × Nat × Nat × Nat)),
    Due s p m 0x36 → s.acceptKvCheck (s.asked p m) = none → s.job (s.asked p m).job = some j → s.mainOf j = some g →
    reservePages g j (j.openPages g) = some r →
    ∃ t x, exec (.acceptKv p m) s = .next t ∧ t.shipsIn = s.shipsIn ++ [x] ∧ x.shipId = u32 (s.asked p m).body 0
      ∧ x.job = (s.asked p m).job ∧ x.seq = u32 (s.asked p m).body 4 ∧ x.srcJob = u32 (s.asked p m).body 8
      ∧ x.arrived = false ∧ x.openTime = (s.asked p m).flip
      ∧ x.wait = 65536 * (if u32 (s.asked p m).body 0x0C = 0 then 23842 else u32 (s.asked p m).body 0x0C)
      ∧ x.frames = r.2.map (fun f => (f.2.1, f.2.2.2)) ∧ t.job x.job = some (r.1.pin x.frames true)
      ∧ (t.cmdAt p m).isSome = true ∧ t.hbm = s.hbm)
  ∧ (∀ (s : State) (p : PartId) (m : BoxId), Due s p m 0x36 → s.acceptKvCheck (s.asked p m) = none →
    s.acceptReserve (s.asked p m) = none → exec (.acceptKv p m) s = .next (s.finish (s.asked p m) (fail 0x8202)))
  ∧ (∀ (s : State) (p : PartId) (m : BoxId) (t : Nat) (x : ShipRecv),
    s.shipsIn.find? (fun x => x.p == p && x.m == m && !x.arrived) = some x → s.tb.running = true → s.tb.time < t →
    t < 2 ^ 64 → x.openTime + x.wait ≤ t →
    ∃ u, exec (.acceptKvOpenWaitExpiry p m t) s = .next u
      ∧ (∀ y ∈ u.shipsIn, ¬ (y.p = p ∧ y.m = m)) ∧ u.cmdAt p m = none ∧ u.tb.time = t
      ∧ (∀ c, s.cmdAt p m = some c → s.memoryWf → Replied c t (fail 0x8405) u))
  ∧ (∀ (s : State) (id : Nat) (ship : ShipIn) (x : ShipRecv) (j : Job) (g : Graph), s.openReceive id = some x →
    s.job x.job = some j → s.mainOf j = some g → ship.cutShort = false → u32 ship.manifest 0 = x.shipId →
    manifestOk j g ship = true → s.active ≠ some x.job →
    ∃ t j' e, exec (.shipStream id ship) s = .next t ∧ t.job x.job = some j' ∧ e ∈ j'.direct ∧ e.id = x.seq
      ∧ e.accepted = true ∧ e.main.len = u32 ship.manifest 8 ∧ t.cmdAt x.p x.m = none
      ∧ Out.shipAck x.shipId ∈ t.out ∧ (∀ y ∈ t.shipsIn, ¬ (y.p = x.p ∧ y.m = x.m)))

/-- SHIP_KV of a suspended job, to another module, stages its ship at once: the length is fixed and the stream goes out
(R225). A ship's acknowledgement ends the SHIP_KV of a suspended job with status 0 (R225). That a stream leaves as one row is
the model's choice (notes/assumptions/20.md). -/
def Obligations.ShipsSent : Prop :=
  (∀ (s : State) (p : PartId) (m : BoxId) (j : Job) (g : Graph) (k : KvState), Due s p m 0x35 → Suspended s (s.asked p m) j →
    s.shipKvCheck (s.asked p m) = none → s.mainOf j = some g → j.kvOf (u32 (s.asked p m).body 4) = some k →
    s.shipsOut.find? (fun x => x.p == p && x.m == m) = none →
    memberAt (s.asked p m).body 0x10 ≠ s.coord.member →
    (k.pt.filter (fun e => e.valid && decide (e.page < ceilDiv k.len 16))).any
      (fun e => s.badPage j (j.kvB (some g) e.desc) e) = false →
    ∃ t x mf bs, exec (.shipKv p m) s = .next t ∧ t.shipsOut = s.shipsOut ++ [x] ∧ x.shipId = u32 (s.asked p m).body 0
      ∧ x.job = j.handle ∧ x.length = k.len ∧ x.acked = false ∧ Out.shipOffer x.shipId ∈ t.out
      ∧ Out.shipStream x.shipId mf (scaleRecord g k.num) bs ∈ t.out ∧ mf.length = 64
      ∧ (t.cmdAt p m).isSome = true ∧ t.hbm = s.hbm ∧ t.graphs = s.graphs)
  ∧ (∀ (s : State) (x : ShipOut) (c : Cmd), x ∈ s.shipsOut → s.active ≠ some x.job →
    (∀ y ∈ s.shipsOut, y.shipId = x.shipId → y = x) → s.cmdAt x.p x.m = some c → s.memoryWf →
    ∃ t, exec (.shipCommitAcknowledged x.shipId) s = .next t ∧ Replied c s.now (ok []) t
      ∧ (∀ y ∈ t.shipsOut, y.shipId ≠ x.shipId))

/-! ## Steps and boundaries -/

/-- A boundary of the active job commits the step that this, its only, rank completed before the boundary's instant (R144,
R146, R147): its number is the last committed, and the boundary is over. -/
def Obligations.BoundaryCommitsStep : Prop :=
  ∀ (s : State) (h t tc : Nat) (j : Job) (x : Step) (r : Results), s.ready = true → s.tb.time = t → s.job h = some j →
    j.nRanks = 1 → j.lost = false → j.seqLost = [] → s.active = some h → s.power.state = .active →
    s.power.pending = none → j.layout.pending = none → j.onGrid t = true → j.step = some x → x.results = some r →
    x.phase = .complete tc → tc < t → s.cmds.all (fun c => c.code == 0x30 && !c.sched) = true →
    ∃ u j', exec (.stepBoundary h t) s = .next u ∧ u.job h = some j' ∧ j'.lastCommitted = some x.number
      ∧ j'.lastBoundary = some t ∧ u.plan = s.plan ∧ u.graphs = s.graphs ∧ u.blocks = s.blocks ∧ u.active = s.active
      ∧ u.jobs.length = s.jobs.length

/-- A step completes on a rank when its cells hold no open group, its pages read good, and every record that its evaluation needs
of other ranks is there: its results are staged with what the cells clamped, its cells wait for the boundary, and no committed
length moves before it (R143, R147). Until those records are there it waits for them, with nothing staged (R103, R147). That the
results are formed at STEP_COMPLETE is the model's reading (notes/assumptions/65.md). -/
def Obligations.StepCompletes : Prop :=
  (∀ (s : State) (h : Nat) (j : Job) (x : Step) (r : Results), s.job h = some j → j.step = some x → x.phase = .running →
    s.holdsGroups h = false → s.walkPublished j x.env.graph x = [] → s.walkStaged j x.env.graph x = [] →
    (evalStep (stepCtx j x s.draws) x.lens x.isDraft x.toks).1 = some r →
    ∃ t j' y, exec (.stepComplete h) s = .next t ∧ t.job h = some j' ∧ j'.step = some y ∧ y.phase = .complete s.now
      ∧ y.number = x.number ∧ y.results.isSome = true
      ∧ (j.nRanks = 1 → y.results = some (r.withClamps (s.cellClamps h)))
      ∧ j'.seqs = j.seqs ∧ j'.direct = j.direct
      ∧ t.cells = s.cells.map (fun c => if c.job == some h && c.base == .running then c.setBase .waitBoundary s.now else c)
      ∧ t.hbm = (s.storeRoutes j x.isDraft r.routing).hbm ∧ t.parts = s.parts ∧ t.plan = s.plan)
  ∧ (∀ (s : State) (h : Nat) (j : Job) (x : Step), s.job h = some j → j.step = some x → x.phase = .running →
    s.holdsGroups h = false → s.walkPublished j x.env.graph x = [] → s.walkStaged j x.env.graph x = [] →
    (evalStep (stepCtx j x s.draws) x.lens x.isDraft x.toks).1 = none →
    ∃ t j' y, exec (.stepComplete h) s = .next t ∧ t.job h = some j' ∧ j'.step = some y ∧ y.phase = .running
      ∧ y.ready = true ∧ y.results = x.results ∧ j'.seqs = j.seqs ∧ t.cells = s.cells ∧ t.hbm = s.hbm ∧ t.parts = s.parts)

/-- A record in range for the step in flight is held by the step, and where the step had not finished its own work, and no module
sum waits for its ranks, nothing else changes (R310, R314, R315). The record that a finished step waited for completes it (R103,
R147). A record whose step number is not that of the step in flight, yet comparable with it, is discarded (R310, R332). The TERM
record's scale word of 1 is the model's choice (notes/assumptions/14.md). -/
def Obligations.StepRecordsHeld : Prop :=
  (∀ (s : State) (h : Nat) (i : Instr) (j : Job) (x y : Step), s.job h = some j → j.step = some x → j.lost = false →
    x.phase ≠ .killed → RecordHeld h j.nRanks x i y → x.phase ≠ .running ∨ (x.ready = false ∧ s.moduleSums = []) →
    ∃ t j', exec i s = .next t ∧ t.job h = some j' ∧ j' = { j with step := some y }
      ∧ (∀ k, k ≠ h → t.job k = s.job k) ∧ { t with jobs := s.jobs } = s)
  ∧ (∀ (s : State) (h : Nat) (i : Instr) (j : Job) (x y : Step) (r : Results), s.job h = some j → j.step = some x →
    j.lost = false → x.phase = .running → x.ready = true → RecordHeld h j.nRanks x i y →
    (evalStep (stepCtx j y s.draws) y.lens y.isDraft y.toks).1 = some r →
    ∃ t j' z, exec i s = .next t ∧ t.job h = some j' ∧ j'.step = some z ∧ z.phase = .complete s.now
      ∧ z.number = x.number ∧ z.results.isSome = true ∧ j'.seqs = j.seqs ∧ t.parts = s.parts)
  ∧ (∀ (s : State) (h : Nat) (red : ReduceRec) (gat : GatherRec) (j : Job) (x : Step), s.job h = some j → j.step = some x →
    (red.step ≠ x.number.toNat → serialCmp 32 red.step x.number.toNat ≠ .notComparable →
      exec (.reduceRecord h red) s = .next s)
    ∧ (gat.step ≠ x.number.toNat → serialCmp 32 gat.step x.number.toNat ≠ .notComparable →
      exec (.gatherRecord h gat) s = .next s ∧ exec (.termRecord h gat) s = .next s))

/-- STEP_DONE from rank 0 in time carries B0 to another rank; from another rank it reaches rank 0 once (R326). STEP_DONE
from rank 0 that comes after its commit boundary loses the job: its step and its ships are gone (R327). -/
def Obligations.StepDoneAgrees : Prop :=
  (∀ (s : State) (h b : Nat) (j : Job) (x : Step), s.job h = some j → j.step = some x → j.lost = false →
    x.phase ≠ .killed → j.rank ≠ 0 → s.now < b + j.period →
    exec (.controlStepDone h 0 x.number.toNat b) s = .next (s.updStep h (fun y => { y with b0 := some b })))
  ∧ (∀ (s : State) (h b rank : Nat) (j : Job) (x : Step), s.job h = some j → j.step = some x → j.lost = false →
    x.phase ≠ .killed → j.rank = 0 → rank ≠ 0 → rank < j.nRanks → rank ∉ x.doneFrom →
    exec (.controlStepDone h rank x.number.toNat b) s = .next (s.updStep h (fun y =>
      { y with doneFrom := y.doneFrom ++ [rank], doneTimes := y.doneTimes ++ [s.now] })))
  ∧ (∀ (s : State) (h b : Nat) (j : Job) (x : Step), s.job h = some j → j.step = some x → j.lost = false →
    x.phase ≠ .killed → j.rank ≠ 0 → b + j.period ≤ s.now →
    ∃ t j', exec (.controlStepDone h 0 x.number.toNat b) s = .next t ∧ t.job h = some j' ∧ j'.lost = true
      ∧ j'.step = none ∧ (∀ y ∈ t.shipsOut, y.job ≠ h) ∧ (∀ y ∈ t.shipsIn, y.job ≠ h))

/-- A KILL from another rank kills the step in flight: everything it staged is discarded, and the kill counts toward the
three of R148 unless its cause is one that R358 exempts (R148, R313). An ABORT of a rank quarantines it here too, for the job
(R312, R313). That a kill which was received is not sent on is the model's reading (notes/assumptions/63.md). -/
def Obligations.KillsAndAborts : Prop :=
  (∀ (s : State) (h rank reason : Nat) (j : Job) (x : Step), s.job h = some j → j.step = some x → j.lost = false →
    x.phase ≠ .killed → rank ≠ j.rank → rank < j.nRanks → j.committedStep x.number.toNat = false → x.kills < 2 →
    ∃ t j' y, exec (.controlKill h rank x.number.toNat reason) s = .next t ∧ t.job h = some j' ∧ j'.step = some y
      ∧ y.phase = .killed ∧ y.results = none ∧ y.reduces = [] ∧ y.gathers = [] ∧ y.terms = [] ∧ y.stagedPages = []
      ∧ y.number = x.number ∧ y.toks = x.toks
      ∧ y.kills = (if reason = 7 ∨ reason = 8 ∨ reason = 10 then x.kills else x.kills + 1)
      ∧ j'.seqs = j.seqs ∧ t.counters.kills = satInc s.counters.kills ∧ t.hbm = s.hbm)
  ∧ (∀ (s : State) (h rank : Nat) (j : Job), s.job h = some j → rank < j.nRanks → rank ≠ j.rank →
    (h, rank) ∉ s.net.quarantined →
    ∃ t, exec (.controlAbort h rank) s = .next t ∧ (h, rank) ∈ t.net.quarantined
      ∧ t.net.fabCounters.quarantines = s.net.fabCounters.quarantines ∧ t.plan = s.plan ∧ t.graphs = s.graphs)

/-- A child's statistics, in range, are held once by the step in flight; the merged message from the parent is adopted once this
rank has results (R316). -/
def Obligations.StatsHeld : Prop :=
  (∀ (s : State) (h rank : Nat) (b : StatsBody) (j : Job) (x : Step), s.job h = some j → j.step = some x →
    x.phase ≠ .killed → j.lost = false → statsOk x b = true → rank ∈ j.kids →
    x.statsIn.any (fun y => y.1 == rank) = false →
    ∃ t j' y, exec (.statsMessage h rank x.number.toNat false b) s = .next t ∧ t.job h = some j' ∧ j'.step = some y
      ∧ y.statsIn = x.statsIn ++ [(rank, b)] ∧ j'.seqs = j.seqs ∧ t.hbm = s.hbm ∧ t.parts = s.parts)
  ∧ (∀ (s : State) (h : Nat) (b : StatsBody) (j : Job) (x : Step) (r : Results), s.job h = some j → j.step = some x →
    x.phase ≠ .killed → j.lost = false → statsOk x b = true → j.rank ≠ 0 → x.results = some r → x.merged = none →
    ∃ t j' y, exec (.statsMessage h (treeParent j.rank) x.number.toNat true b) s = .next t ∧ t.job h = some j'
      ∧ j'.step = some y ∧ y.merged = some s.now ∧ y.results = some (adoptStats x.env.graph x.audits r b)
      ∧ j'.seqs = j.seqs ∧ t.hbm = s.hbm ∧ t.parts = s.parts)

/-! ## Instants and firmware -/

/-- SCHEDULE_AT with an instant ahead holds its enclosed command; FW_ACTIVATE_AT likewise holds the activation; neither
changes anything else yet (R328, R329, R394). At its instant an enclosed QUERY_MODULE runs as though flipped then: its
reply carries INNER_TAG and T (R328). -/
def Obligations.InstantsRun : Prop :=
  (∀ (s : State) (p : PartId) (m : BoxId), Due s p m 0x40 → s.scheduleCheck (s.asked p m) = none →
    AreasGood s (s.asked p m) → (s.asked p m).flip < u64 (s.asked p m).body 0 →
    exec (.scheduleAt p m) s = .next (s.stage { s.asked p m with sched := true }))
  ∧ (∀ (s : State) (p : PartId) (m : BoxId), Due s p m 0x61 → (s.asked p m).job = 0 →
    bodyFault (s.asked p m).body activateFields (activateChecks (s.asked p m).body) = none →
    (s.planRec p).moduleCfg = true → s.instantCheck (s.asked p m) = none → s.active.isSome = true →
    exec (.fwActivateAt p m) s = .next (s.stage (s.asked p m)))
  ∧ (∀ (s : State) (t : Nat) (c : Cmd), s.memoryWf → s.tb.time = t → s.serves = true → s.active.isSome = true →
    s.power.pending = none → s.dueInner t = [c] → s.stillWaits c = true → u16 c.body 0x0A = 0x01 →
    u32 c.body 0x10 = 0 → 4 ≤ (innerBody c.body).length → AreasGood s c.inner →
    ∃ u, exec (.scheduledInstant t) s = .next u ∧ Replied (s.named c.inner) t (ok []) u ∧ u.beyondAnswer = s.beyondAnswer)

/-- FW_STAGE_DELTA of a delta that verifies writes the slot that is not current, and the running image stays (R390).
FW_FORWARD offers the staged object to the next module of its chain and keeps its mailbox (R391). A forwarded delta that
verifies is staged and answered STAGED; the reply ends the sender's FW_FORWARD (R391-R393). -/
def Obligations.DeltasStage : Prop :=
  (∀ (s : State) (p : PartId) (m : BoxId) (sigs : Sigs) (x : Image), Due s p m 0x60 → (s.asked p m).job = 0 →
    12 ≤ (s.asked p m).body.length → (s.planRec p).moduleCfg = true → AreasGood s (s.asked p m) →
    s.stageImage (s.slotRead p (u32 (s.asked p m).body 8) manifestBytes)
      (s.slotRead p (u32 (s.asked p m).body 0) (u32 (s.asked p m).body 4)) sigs = .ok x →
    ∃ t, exec (.fwStageDelta p m sigs) s = .next t ∧ t.flash.other = some x ∧ t.flash.current = s.flash.current
      ∧ t.flash.slotB = s.flash.slotB ∧ t.fw.staged = true ∧ t.fw.running = s.fw.running ∧ t.cmdAt p m = none
      ∧ t.flash.identity = s.flash.identity)
  ∧ (∀ (s : State) (p : PartId) (m : BoxId) (x : Image) (n : Member), Due s p m 0x62 → (s.asked p m).job = 0 →
    (s.planRec p).moduleCfg = true → s.fw.staged = true → s.fw.stagedObj ≠ [] → s.flash.other = some x →
    successor s.coord.member x.manifest.chain = some n → s.memberLost n = false →
    ∃ t, exec (.fwForward p m) s = .next t ∧ t.fw.forward = some (p, m, n)
      ∧ Out.fwMessage n 1 0 s.fw.stagedObj ∈ t.out ∧ (t.cmdAt p m).isSome = true ∧ t.flash = s.flash ∧ t.hbm = s.hbm)
  ∧ (∀ (s : State) (peer : Nat) (hdr obj : Bytes) (sigs : Sigs) (x : Image), u8 hdr 0 = 1 → fwHeaderOk hdr obj = true →
    (u64 hdr 0x10 = 0 ∨ u64 hdr 0x10 = s.flash.serial.toNat) →
    s.stageImage (obj.take manifestBytes) (obj.drop manifestBytes) sigs = .ok x →
    ∃ t, exec (.fwDeltaMessage peer hdr obj sigs) s = .next t ∧ t.flash.other = some x ∧ t.fw.staged = true
      ∧ t.fw.stagedObj = obj ∧ Out.fwReply peer 6 0 ∈ t.out ∧ t.flash.current = s.flash.current ∧ t.hbm = s.hbm
      ∧ t.flash.identity = s.flash.identity)
  ∧ (∀ (s : State) (p : PartId) (m : BoxId) (n : Member) (st : Nat) (c : Cmd), s.memoryWf →
    s.fw.forward = some (p, m, n) → s.cmdAt p m = some c →
    ∃ t, exec (.fwStagedReply n.code 6 st) s = .next t ∧ t.fw.forward = none ∧ Replied c s.now (ok []) t
      ∧ t.flash = s.flash)

/-- An activation that fails ends its command with 0x8701: the previous image runs on, and the staged one stays staged
(R396). FW_ACTIVATE_AT that may act late, with no job active, starts the staged image at once: the slot selector moves and
ACTIVATIONS counts it (R394, R395). -/
def Obligations.ActivationRules : Prop :=
  (∀ (s : State) (t : Nat) (c : Cmd), s.tb.time = t → s.activationDue t = some c →
    s.stagedVersion = some (u32 c.body 0x0C) → s.active = none →
    exec (.fwMigrationTimeout t) s = .next (s.answer c t (fail 0x8701)))
  ∧ (∀ (s : State) (p : PartId) (m : BoxId) (x : Image), Due s p m 0x61 → (s.asked p m).job = 0 →
    bodyFault (s.asked p m).body activateFields (activateChecks (s.asked p m).body) = none →
    (s.planRec p).moduleCfg = true → s.instantCheck (s.asked p m) = none → s.active = none →
    u64 (s.asked p m).body 0 ≤ s.now → s.cmds.all (fun c => c.code != 0x61) = true → s.flash.other = some x →
    s.stagedVersion = some (u32 (s.asked p m).body 0x0C) →
    ∃ t, exec (.fwActivateAt p m) s = .next t ∧ t.fw.running = some x ∧ t.fw.activations = s.fw.activations + 1
      ∧ t.flash.slotB = !s.flash.slotB ∧ t.fw.staged = false ∧ t.cmdAt p m = none ∧ t.jobs = s.jobs ∧ t.hbm = s.hbm)

/-! ## Ports and the fabric transport -/

/-- A link comes up only on a port that the self-test left free, and a link that falls takes its state along (R281, R286).
LLDP (R286): each second a frame with H0's address and the port's own; a neighbour that matches settles the port; five
seconds without a match mark it miswired, and a fabric port so marked carries no transport frame. -/
def Obligations.PortRules : Prop :=
  (∀ (s : State) (p : HostPort) (t : Nat), s.portHeld (.host p) = false → s.portsRun (.host p) = true →
    exec (.linkUp (.host p) t) s = .next ((advance t s).updHost p (fun q => { q with up := true })))
  ∧ (∀ (s : State) (p : FabPort) (t : Nat), s.portHeld (.fabric p) = false → s.portsRun (.fabric p) = true →
    s.net.fab[p.val].up = false →
    ∃ u, exec (.linkUp (.fabric p) t) s = .next u ∧ u.net.fab[p.val].up = true
      ∧ u.net.fab[p.val].upAt = (advance t s).now ∧ u.net.fab[p.val].matched = false
      ∧ u.net.fab[p.val].miswired = false ∧ u.net.host = s.net.host ∧ u.jobs = s.jobs)
  ∧ (∀ (s : State) (p : HostPort), s.net.host[p.val].up = true →
    ∃ u, exec (.linkDown (.host p)) s = .next u ∧ u.net.host[p.val].up = false ∧ u.net.host[p.val].paused = []
      ∧ u.net.host[p.val].counters.linkDown = satInc s.net.host[p.val].counters.linkDown
      ∧ u.net.fab = s.net.fab ∧ u.net.qps = s.net.qps ∧ u.jobs = s.jobs)
  ∧ (∀ (s : State) (p : FabPort),
    exec (.linkDown (.fabric p)) s
      = .next (s.updFab p (fun q => { q with up := false, matched := false, miswired := false })))
  ∧ (∀ (s : State) (p : FabPort) (t : Nat), s.tb.time = t → s.lldpRuns p = true → s.net.fab[p.val].lldpAt + second ≤ t →
    exec (.lldpTransmit p t) s = .next ((s.updFab p (fun q => { q with lldpAt := t })).emit
      (.lldp p (s.coord.member.mac 0x02 0) (s.coord.member.fabMac p))))
  ∧ (∀ (s : State) (p : FabPort) (f : LldpIn), s.lldpRuns p = true → s.net.fab[p.val].miswired = false →
    f.chassisSub = 7 → f.chassis = decimal (s.coord.switch p.val) → f.portSub = 7 →
    f.portId = decimal (s.coord.portNo p.val) →
    exec (.lldpFrame p f) s = .next (s.updFab p (fun q => { q with matched := true })))
  ∧ (∀ (s : State) (p : FabPort) (t : Nat), s.tb.time = t → s.lldpRuns p = true → s.net.fab[p.val].matched = false →
    s.net.fab[p.val].miswired = false → s.net.fab[p.val].upAt + 5 * second ≤ t →
    ∃ u, exec (.lldpMiswireTimeout p t) s = .next u ∧ u.net.fab[p.val].miswired = true ∧ u.carries p = false
      ∧ u.jobs = s.jobs ∧ u.hbm = s.hbm)

/-- A DATA frame in order on its stream is delivered, and the next SEQ is expected (R306). A DATA frame whose payload
fails its CRC is NAKed with reason CRC and counted, whatever its records look like; no stream moves and no peer is blamed (R307,
R311). -/
def Obligations.DataFrameRules : Prop :=
  (∀ (s : State) (port : FabPort) (src : BitVec 48) (frame : Bytes) (k : StreamKey) (r : RxStream),
    FrameGood s port src frame k → (fabFrameOf frame).typ = 0 → (fabFrameOf frame).ackv = false →
    (fabFrameOf frame).sync = false → wholeRecords (fabFrameOf frame) = true →
    ((fabFrameOf frame).length = 0 ∨ crc32 (fabFrameOf frame).payload = (fabFrameOf frame).crc) →
    s.net.rx.find? (fun y => y.key == k) = some r → r.held = [] → r.unackedCount < 31 →
    (fabFrameOf frame).seq = r.expected → (fabFrameOf frame).offset = r.nextOffset →
    ∃ t r', exec (.fabricDataFrame port src frame) s = .next t
      ∧ t.net.rx.find? (fun y => y.key == k) = some r' ∧ r'.expected = r.expected + 1 ∧ r'.held = []
      ∧ Out.deliver k r.expected (fabFrameOf frame).payload ∈ t.out ∧ t.net.fabCounters = s.net.fabCounters
      ∧ t.net.quarantined = s.net.quarantined ∧ t.jobs = s.jobs ∧ t.hbm = s.hbm)
  ∧ (∀ (s : State) (port : FabPort) (src : BitVec 48) (frame : Bytes) (k : StreamKey),
    FrameGood s port src frame k → (fabFrameOf frame).typ = 0 → (fabFrameOf frame).length ≠ 0 →
    crc32 (fabFrameOf frame).payload ≠ (fabFrameOf frame).crc →
    exec (.fabricDataFrame port src frame) s
      = .next ((s.emit (s.nakOut port k (fabFrameOf frame).src (fabFrameOf frame).seq 2)).fabCount
          (fun c => { c with crc := satInc c.crc })))

/-- An acknowledgement past every frame that a stream has sent releases them all (R308). A NAK of reason GAP or CRC
resends the frame it names on the next port that both ends have up, and counts it (R308, R309); the frame sent again carries the
acknowledgement of the reverse stream, which then owes none. -/
def Obligations.AcksAndNaks : Prop :=
  (∀ (s : State) (port : FabPort) (src : BitVec 48) (frame : Bytes) (k : StreamKey) (x : TxStream),
    FrameGood s port src frame k → (fabFrameOf frame).typ = 1 → (fabFrameOf frame).ackv = true →
    s.net.tx.find? (fun y => y.key == k) = some x → x.unacked ≠ [] →
    (∀ f ∈ x.unacked, serialCmp 32 f.seq.toNat (fabFrameOf frame).ack.toNat = .earlier ∧ f.sentOn.isSome = true) →
    ∃ t x', exec (.fabricAckFrame port src frame) s = .next t ∧ t.net.tx.find? (fun y => y.key == k) = some x'
      ∧ x'.unacked = [] ∧ x'.progressAt = s.now ∧ t.out = s.out ∧ t.net.rx = s.net.rx ∧ t.jobs = s.jobs ∧ t.hbm = s.hbm)
  ∧ (∀ (s : State) (port : FabPort) (src : BitVec 48) (frame : Bytes) (k : StreamKey) (x : TxStream) (f : TxFrame)
    (sentOn p : FabPort) (n : Nat),
    FrameGood s port src frame k → (fabFrameOf frame).typ = 2 → (fabFrameOf frame).ackv = false →
    (fabFrameOf frame).reason = 1 ∨ (fabFrameOf frame).reason = 2 → s.net.tx.find? (fun y => y.key == k) = some x →
    x.unacked.find? (fun g => g.seq == (fabFrameOf frame).seq && g.sentOn.isSome) = some f → f.sentOn = some sentOn →
    nextPort s.portsUp (fabFrameOf frame).ports (rotation.findIdx (· == sentOn)) = some (p, n) →
    f.resends + 1 ≠ s.cfg.fabRetries →
    ∃ t bytes, exec (.fabricNakFrame port src frame) s = .next t
      ∧ t.out = s.out ++ [.fabData p k (fabFrameOf frame).seq bytes]
      ∧ t.net.fabCounters = { s.net.fabCounters with resends := satInc s.net.fabCounters.resends }
      ∧ t.net.rx = updIf (fun y => y.key == k) RxStream.acked s.net.rx ∧ t.jobs = s.jobs ∧ t.hbm = s.hbm)

/-- The transport's timers (R308): a SEQ missing for FAB_GAP is NAKed again, FAB_RTO without progress resends the oldest
frame, and 625 ticks after the first unacknowledged frame an ACK goes out. -/
def Obligations.TransportTimers : Prop :=
  (∀ (s : State) (k : StreamKey) (seq t : Nat) (x : RxStream) (m : BitVec 32 × Nat), s.tb.time = t →
    s.net.rx.find? (fun y => y.key == k) = some x → x.missing.find? (fun m => m.1 == BitVec.ofNat 32 seq) = some m →
    m.2 + s.cfg.fabGap ≤ t → s.streamLost k = false →
    ∃ u x', exec (.fabGapExpiry k seq t) s = .next u ∧ u.out = s.out ++ [s.nakOut x.port k x.rank (BitVec.ofNat 32 seq) 1]
      ∧ u.net.rx.find? (fun y => y.key == k) = some x' ∧ x'.expected = x.expected ∧ x'.held = x.held
      ∧ u.net.tx = s.net.tx ∧ u.jobs = s.jobs)
  ∧ (∀ (s : State) (k : StreamKey) (t : Nat) (x : TxStream) (f : TxFrame) (fs : List TxFrame) (sentOn p : FabPort) (n : Nat),
    s.tb.time = t → s.net.tx.find? (fun y => y.key == k) = some x → x.unacked = f :: fs → f.sentOn = some sentOn →
    x.progressAt + s.cfg.fabRto ≤ t → s.streamLost k = false →
    nextPort (s.wire k).up (s.wire k).peerUp (rotation.findIdx (· == sentOn)) = some (p, n) →
    f.resends + 1 ≠ s.cfg.fabRetries →
    ∃ u bytes, exec (.fabRtoExpiry k t) s = .next u ∧ u.out = s.out ++ [.fabData p k f.seq bytes]
      ∧ u.net.fabCounters = { s.net.fabCounters with resends := satInc s.net.fabCounters.resends }
      ∧ u.net.rx = updIf (fun y => y.key == k) RxStream.acked s.net.rx ∧ u.jobs = s.jobs)
  ∧ (∀ (s : State) (k : StreamKey) (t d : Nat) (x : RxStream), s.tb.time = t →
    s.net.rx.find? (fun y => y.key == k) = some x → x.ackDue = some d → d + 625 ≤ t → s.streamLost k = false →
    ∃ u x', exec (.fabricAckDelay k t) s = .next u ∧ u.out = s.out ++ [s.ackOut x.port x]
      ∧ u.net.rx.find? (fun y => y.key == k) = some x' ∧ x'.ackDue = none ∧ x'.expected = x.expected
      ∧ u.net.tx = s.net.tx ∧ u.jobs = s.jobs)

/-! ## Host ports -/

/-- An RDMA WRITE packet into the control window that breaks no row of R300 places its bytes there, and is acknowledged;
no byte of HBM changes (R291, R293). -/
def Obligations.RdmaWritePlaces : Prop :=
  ∀ (s : State) (x : RocePkt) (q : Qp) (n : Nat), s.memoryWf → PacketGood s x q → x.op = .write →
    s.windowOf q x.rkey = some (false, n) → s.power.wakeOnFlip = false →
    ∃ t q', exec (.roceRdmaWrite x) s = .next t ∧ t.ctrlRead q.part x.va x.payload.length = x.payload
      ∧ t.qp q.index = some q' ∧ q'.recvPsn = q.recvPsn + 1 ∧ q'.inError = none
      ∧ t.sent q.port (.roce q.index (s.roceHdr q false) (.ack (BitVec.ofNat 24 x.psn)))
      ∧ t.hbm = s.hbm ∧ t.jobs = s.jobs ∧ t.memoryWf

/-- The packet that ends a message of one packet, whose bytes leave OWN at 1 in a mailbox that the host owns, hands that
mailbox to the module with the instant as its flip time (R293). -/
def Obligations.FlipHandsOver : Prop :=
  ∀ (s : State) (x : RocePkt) (q : Qp) (n : Nat) (m : BoxId) (b : Byte) (bs : Bytes), s.memoryWf → PacketGood s x q →
    x.op = .write → s.windowOf q x.rkey = some (false, n) → x.va = boxAt m → x.payload = b :: bs → b.getLsbD 0 = true →
    x.last = true → q.flips = [] → s.power.wakeOnFlip = false →
    ∃ t, exec (.roceRdmaWrite x) s = .next t ∧ (t.box q.part m).owned = true ∧ (t.box q.part m).taken = false
      ∧ (t.box q.part m).flipTime = s.now ∧ (t.box q.part m).flipQp = some q.index

/-- An RDMA READ that breaks no row of R300 returns the bytes of its window and changes neither window (R291, R295). -/
def Obligations.RdmaReadReturns : Prop :=
  ∀ (s : State) (x : RocePkt) (q : Qp), PacketGood s x q → x.op = .read →
    ∃ t q', exec (.roceRdmaRead x) s = .next t
      ∧ t.sent q.port (.roce q.index (s.roceHdr q false) (.readData (BitVec.ofNat 24 x.psn) (s.readBytes q x)))
      ∧ t.qp q.index = some q'
      ∧ q'.recvPsn = q.recvPsn + BitVec.ofNat 24 (Nat.max 1 (ceilDiv x.msgLen q.mtu))
      ∧ t.hbm = s.hbm ∧ t.parts = s.parts ∧ t.jobs = s.jobs

/-- A packet that breaks a row of R300 places nothing: a dropped one only counts, and against a queue pair posts its event; one
ahead of its PSN is NAKed and one behind it acknowledged again, neither moving the PSN; a NAKed request puts its queue pair into
the error state (R300, R301). What the receive buffer then does is a free value (notes/assumptions/87.md). -/
def Obligations.RefusedPacketsPlaceNothing : Prop :=
  (∀ (s : State) (x : RocePkt) (f : RoceFault), s.hostCarries x.port = true → s.verdict x = .drop f none →
    exec (.roceRefusedPacket x) s = .next ((s.hostCount x.port f.count).fillBuffer x.port))
  ∧ (∀ (s : State) (x : RocePkt) (f : RoceFault) (q : Qp), s.hostCarries x.port = true → s.verdict x = .drop f (some q) →
    exec (.roceRefusedPacket x) s = .next (((s.hostCount x.port f.count).roceEvent q x.port x.psn f).fillBuffer x.port))
  ∧ (∀ (s : State) (x : RocePkt) (q : Qp), s.hostCarries x.port = true → s.verdict x = .ahead q → q.nakSent = false →
    ∃ t q', exec (.roceRefusedPacket x) s = .next t ∧ t.qp q.index = some q' ∧ q'.recvPsn = q.recvPsn ∧ q'.nakSent = true
      ∧ t.sent q.port (.roce q.index (s.roceHdr q false) (.nakSeq q.recvPsn))
      ∧ t.hbm = s.hbm ∧ t.jobs = s.jobs ∧ t.plan = s.plan)
  ∧ (∀ (s : State) (x : RocePkt) (q : Qp), s.hostCarries x.port = true → s.verdict x = .again q →
    ∃ t q', exec (.roceRefusedPacket x) s = .next t ∧ t.qp q.index = some q' ∧ q'.recvPsn = q.recvPsn
      ∧ t.sent q.port (.roce q.index (s.roceHdr q false) (.ack (q.recvPsn - 1)))
      ∧ t.hbm = s.hbm ∧ t.jobs = s.jobs ∧ t.plan = s.plan)
  ∧ (∀ (s : State) (x : RocePkt) (f : RoceFault) (q : Qp), s.hostCarries x.port = true → s.verdict x = .nak f q →
    ∃ t q', exec (.roceRefusedPacket x) s = .next t ∧ t.qp q.index = some q' ∧ q'.inError = some s.now
      ∧ q'.recvPsn = q.recvPsn ∧ q'.flips = [] ∧ t.hbm = s.hbm ∧ t.jobs = s.jobs ∧ t.plan = s.plan)

/-- The rate of a queue pair (R298): a CNP halves it, no lower than 4 Gb/s; 10,000 ticks without one raise it by 10 Gb/s,
to the port's 400. Notices (R297, R301): an acknowledgement drops the oldest; a receiver-not-ready NAK sends it again, the host's
last puts the queue pair into the error state; a timeout sends it again while retries remain, and puts the queue pair into the
error state when none do; QP_RESTART ticks later the pair starts anew at its initial PSNs. That the row says which NAK is the
last, and that a link that is down keeps a notice waiting, is the model's choice (notes/assumptions/88.md). -/
def Obligations.QueuePairsMove : Prop :=
  (∀ (s : State) (k t : Nat) (q : Qp), s.qp k = some q → s.hostCarries q.port = true → q.inError = none → s.tb.time = t →
    ∃ u q', exec (.roceCnp k t) s = .next u ∧ u.qp k = some q'
      ∧ (8 * 2 ^ q.rate.exp ≤ q.rate.num → 2 * q'.rate.num * 2 ^ q.rate.exp = q.rate.num * 2 ^ q'.rate.exp)
      ∧ (q.rate.num < 8 * 2 ^ q.rate.exp → q'.rate = ⟨4, 0⟩)
      ∧ q'.recvPsn = q.recvPsn ∧ q'.sendPsn = q.sendPsn ∧ u.parts = s.parts ∧ u.hbm = s.hbm)
  ∧ (∀ (s : State) (k t : Nat) (q : Qp), s.qp k = some q → s.tb.time = t → q.rateAt + 10000 ≤ t → q.rate ≠ ⟨400, 0⟩ →
    ∃ u q', exec (.roceRateIncrease k t) s = .next u ∧ u.qp k = some q'
      ∧ (390 * 2 ^ q.rate.exp ≤ q.rate.num → q'.rate = ⟨400, 0⟩)
      ∧ (q.rate.num < 390 * 2 ^ q.rate.exp → q'.rate = ⟨q.rate.num + 10 * 2 ^ q.rate.exp, q.rate.exp⟩)
      ∧ q'.recvPsn = q.recvPsn ∧ u.parts = s.parts ∧ u.hbm = s.hbm ∧ u.out = s.out)
  ∧ (∀ (s : State) (k : Nat) (q : Qp), s.qp k = some q →
    ∃ u, exec (.noticeAcknowledge ⟨k, .ack⟩) s = .next u ∧ u.qp k = some { q with notices := q.notices.drop 1 }
      ∧ u.parts = s.parts ∧ u.hbm = s.hbm ∧ u.out = s.out)
  ∧ (∀ (s : State) (k : Nat) (n : Notice) (rest : List Notice) (q : Qp), s.qp k = some q → q.notices = n :: rest →
    s.hostCarries q.port = true →
    ∃ u q', exec (.noticeAcknowledge ⟨k, .rnr false⟩) s = .next u ∧ u.qp k = some q'
      ∧ q'.notices = { n with sent := s.now } :: rest
      ∧ u.sent q.port (.roce k (s.roceHdr q false) (q.noticeOut n.psn n.word)) ∧ u.parts = s.parts ∧ u.hbm = s.hbm)
  ∧ (∀ (s : State) (k : Nat) (n : Notice) (rest : List Notice) (q : Qp), s.qp k = some q → q.notices = n :: rest →
    ∃ u q', exec (.noticeAcknowledge ⟨k, .rnr true⟩) s = .next u ∧ u.qp k = some q' ∧ q'.inError = some s.now
      ∧ q'.notices = [] ∧ u.hbm = s.hbm)
  ∧ (∀ (s : State) (k t : Nat) (n : Notice) (rest : List Notice) (q : Qp), s.qp k = some q →
    s.tb.time = t → q.notices = n :: rest → n.sent + q.ackTicks ≤ t → n.retries ≠ 0 → s.hostCarries q.port = true →
    ∃ u q', exec (.noticeAckTimeout k t) s = .next u ∧ u.qp k = some q'
      ∧ q'.notices = ⟨n.psn, n.word, n.retries - 1, t⟩ :: rest
      ∧ u.sent q.port (.roce k (s.roceHdr q false) (q.noticeOut n.psn n.word)) ∧ q'.inError = q.inError
      ∧ u.parts = s.parts ∧ u.hbm = s.hbm)
  ∧ (∀ (s : State) (k t : Nat) (n : Notice) (rest : List Notice) (q : Qp), s.qp k = some q →
    s.tb.time = t → q.notices = n :: rest → n.sent + q.ackTicks ≤ t → n.retries = 0 → s.hostCarries q.port = true →
    ∃ u q', exec (.noticeAckTimeout k t) s = .next u ∧ u.qp k = some q' ∧ q'.inError = some t ∧ q'.notices = [])
  ∧ (∀ (s : State) (k t e : Nat) (q : Qp), s.qp k = some q → s.tb.time = t → q.inError = some e →
    e + s.cfg.qpRestart ≤ t →
    ∃ u q', exec (.qpRestart k t) s = .next u ∧ u.qp k = some q' ∧ q'.inError = none ∧ q'.sendPsn = q.initSend
      ∧ q'.recvPsn = q.initRecv ∧ u.parts = s.parts ∧ u.hbm = s.hbm ∧ u.out = s.out)

/-- PFC (R299): a frame of PFC_PRIO pauses the port for the time it gives, and one of time 0 ends the pause; a frame of any other
priority only counts; when the pause ends, what waited goes out; XON goes out on a port that has sent XOFF. ARP and neighbour
discovery answer for exactly the port's own addresses, with the port's MAC address (R285, R287). -/
def Obligations.HostPortRules : Prop :=
  (∀ (s : State) (p : HostPort) (n t : Nat), s.tb.time = t → s.net.host[p.val].up = true → n ≠ 0 →
    exec (.pfcFrame p s.cfg.pfcPrio n t) s = .next (s.updHost p (fun q => { q with pausedUntil := some (t + n) })))
  ∧ (∀ (s : State) (p : HostPort) (t : Nat), s.tb.time = t → s.net.host[p.val].up = true →
    ∃ v, exec (.pfcFrame p s.cfg.pfcPrio 0 t) s = .next v ∧ v.net.host[p.val].pausedUntil = none
      ∧ v.net.host[p.val].paused = [] ∧ v.out = s.out ++ s.net.host[p.val].paused ∧ v.net.qps = s.net.qps)
  ∧ (∀ (s : State) (p : HostPort) (prio n t : Nat), s.tb.time = t → s.net.host[p.val].up = true → prio ≠ s.cfg.pfcPrio →
    exec (.pfcFrame p prio n t) s
      = .next (s.hostCount p (fun c => { c with pauseIgnored := satInc c.pauseIgnored })))
  ∧ (∀ (s : State) (p : HostPort) (u t : Nat), s.tb.time = t → s.net.host[p.val].pausedUntil = some u → u ≤ t →
    ∃ v, exec (.pfcPauseExpiry p t) s = .next v ∧ v.net.host[p.val].pausedUntil = none
      ∧ v.net.host[p.val].paused = [] ∧ v.out = s.out ++ s.net.host[p.val].paused ∧ v.net.qps = s.net.qps)
  ∧ (∀ (s : State) (p : HostPort), s.net.host[p.val].up = true → s.net.host[p.val].xoff = true →
    exec (.pfcXon p) s = .next ((s.updHost p (fun q => { q with xoff := false })).emit (.pfcXon p s.cfg.pfcPrio)))
  ∧ (∀ (s : State) (p : HostPort) (a : BitVec 32), s.hostCarries p = true →
    exec (.arpRequest p a) s
      = .next (if 0xFFFF * 2 ^ 32 + a.toNat ∈ s.gidsOf p then s.emitPlain p (.arpReply p a (s.hostMac p)) else s))
  ∧ (∀ (s : State) (p : HostPort) (a : BitVec 128), s.hostCarries p = true → gidIsV4 a.toNat = false →
    exec (.neighborSolicitation p a) s
      = .next (if a.toNat ∈ s.gidsOf p then s.emitPlain p (.neighborAdvert p a (s.hostMac p)) else s))

/-! ## The cells -/

/-- The planes of a chunk, each shifted to its place and the sign plane subtracted, add up to the dot product of the
ternary weights and the activations: at width 1 with the weight sum taken off twice the set bits (R28, R48, R49). -/
def Obligations.PlanesSumToDot : Prop :=
  ∀ (w : Nat) (codes : List Nat) (es : List (Nat × Int)), 1 ≤ w → w ≤ 8 → (∀ c ∈ codes, c < 2 ^ w) →
    (∀ e ∈ es, e.1 < codes.length) →
    sumI ((List.range w).map (fun p => planeContribution w p (entrySum es (plane codes p)) (entryTotal es)))
      = sumI (es.map (fun e => e.2 * actValue w (codes.getD e.1 0)))

/-- The requantiser's shifted adds form acc × M exactly: the digit records of a multiplier below 2^32 stand for it (R36,
R61). -/
def Obligations.DigitRecordsMultiply : Prop :=
  ∀ (acc : Int) (m : Nat), m < 2 ^ 32 → digitProduct acc (digitRecords m) = acc * m

/-- GROUP_OPEN on the next token tile of its work opens a group, cleared, on the next tile of its pass in turn, its tag as
the step fixes it; on a tile that an unreleased group holds the opening waits (R78, R80, R86, R87). The requantiser writes the
outputs of the oldest group once it has closed and its sums stand: it multiplies each accumulator by channel scale × token
scale and rounds (R60-R64). It releases the tile, and an opening that waited for that tile takes place (R80, R87). One flipped
bit of what it reads is corrected and counts (R357). Which operands name a group is the model's reading
(notes/assumptions/71.md). -/
def Obligations.GroupRules : Prop :=
  (∀ (s : State) (n : CellId) (pass tb tc : Nat) (x : OpenIn) (w : Work) (run : List Nat) (tag : GroupTag),
    s.cells[n.val].works = true → s.cells[n.val].waitOpen = none → s.work n = some w → s.groupTag w n x = some (run, tag) →
    s.cells[n.val].tileHeld (s.cells[n.val].nextTile pass tb tc) = false →
    ∃ t g, exec (.groupOpen n pass tb tc x) s = .next t ∧ OnlyCell s t n
      ∧ t.cells[n.val].groups = s.cells[n.val].groups ++ [g] ∧ g.tile = s.cells[n.val].nextTile pass tb tc
      ∧ g.tag = tag ∧ tag.key = ⟨x.desc, x.expert, x.matrix, x.block, x.tile⟩ ∧ g.wide = []
      ∧ (∀ l : LaneGroup, g.reorder[l.val] = [] ∧ g.waiting[l.val] = none) ∧ t.cells[n.val].waitOpen = none
      ∧ t.cells[n.val].lanes = s.cells[n.val].lanes ∧ t.cells[n.val].regions = s.cells[n.val].regions
      ∧ t.cells[n.val].upd = s.cells[n.val].upd)
  ∧ (∀ (s : State) (n : CellId) (pass tb tc : Nat) (x : OpenIn) (w : Work) (run : List Nat) (tag : GroupTag),
    s.cells[n.val].works = true → s.cells[n.val].waitOpen = none → s.work n = some w → s.groupTag w n x = some (run, tag) →
    s.cells[n.val].tileHeld (s.cells[n.val].nextTile pass tb tc) = true →
    ∃ t, exec (.groupOpen n pass tb tc x) s = .next t ∧ OnlyCell s t n ∧ t.cells[n.val].groups = s.cells[n.val].groups
      ∧ t.cells[n.val].waitOpen = some (pass, s.cells[n.val].nextTile pass tb tc, tag)
      ∧ t.cells[n.val].lanes = s.cells[n.val].lanes ∧ t.cells[n.val].regions = s.cells[n.val].regions
      ∧ t.cells[n.val].upd = s.cells[n.val].upd)
  ∧ (∀ (s : State) (n : CellId) (w : Work) (g : Group) (gs : List Group) (x : GroupIn) (base : Option (List (List Int)))
    (err : Option AccUpset) (b : Bool), s.cells[n.val].works = true → s.work n = some w → s.cells[n.val].groups = g :: gs →
    g.closed = true → s.groupIn w g = some x → s.outBase w g = some base →
    checkAcc (maskOf (g.upset ⟨g.tile, err⟩)) = some (0, b) →
    ∃ t, exec (.groupRequantise n ⟨g.tile, err⟩) s = .next t ∧ (∀ m : CellId, m ≠ n → t.cells[m.val] = s.cells[m.val])
      ∧ { t with cells := s.cells, moduleSums := s.moduleSums, counters := s.counters } = s
      ∧ t.counters = { s.counters with cellCorrected := satAdd s.counters.cellCorrected (b2n b) }
      ∧ (s.cells[n.val].waitOpen = none → t.cells[n.val].groups = gs
          ∧ lookupD [] g.tile.val t.cells[n.val].tiles = g.wide)
      ∧ (∀ pass tag, s.cells[n.val].waitOpen = some (pass, g.tile, tag) → (∀ y ∈ gs, y.tile ≠ g.tile) →
          t.cells[n.val].groups = gs ++ [Group.fresh g.tile pass tag] ∧ t.cells[n.val].waitOpen = none)
      ∧ (∀ slot, slot < g.tag.index.length → g.tag.tree = false → g.tag.more = false → base = none →
          g.tag.stochastic = false →
          (∀ o, g.tag.scales.getD o 0 * tokT (g.tag.tokWords.getD slot 0) < 2 ^ 32) →
          t.cells[n.val].outs[slot]? = some (formOut (g.tag.outWs.getD slot 16) 0 ((g.slotAccs slot).zipIdx.map (fun a =>
            roundShift (a.1 * (g.tag.scales.getD a.2 0 * tokT (g.tag.tokWords.getD slot 0) : Nat))
              (g.tag.lsh + tokS (g.tag.tokWords.getD slot 0)) none))))
      ∧ t.cells[n.val].lanes = s.cells[n.val].lanes ∧ t.cells[n.val].regions = s.cells[n.val].regions)

/-- A plane step that its group takes leaves its partial in the lane group's reorder slot of eight, or waiting where the slot is
full, and counts as run or as skipped (R48, R51, R52, R111). A lane group's next partial retires in the fixed order: it leaves
its slot, the partial that waited takes the room, and the lane group moves on to the position that follows, whatever order the
plane steps came in (R52). Within a Trit5 chunk that needs no promotion it adds into the narrow accumulators alone (R50,
R54). -/
def Obligations.PartialsRetireInOrder : Prop :=
  (∀ (s : State) (n : CellId) (l : LaneGroup) (x : PlaneIn) (w : Work) (g : Group) (k : ChunkTag) (b : Block)
    (q : Cell × Nat × Option Nat) (r : Bool × Partial) (cs : List Nat), s.cells[n.val].works = true → s.work n = some w →
    s.cells[n.val].group x.tile = some g → g.takes l x.pos = some k → s.chunkBlock w g k = some b →
    q = s.cells[n.val].checkAll (s.cells[n.val].upsetLines b x) → q.2.2 = none →
    q.1.planeOut w g k b l x = some (.done r cs) →
    ∃ t g', exec (.planeStep n l x) s = .next t ∧ (∀ m : CellId, m ≠ n → t.cells[m.val] = s.cells[m.val])
      ∧ { t with cells := s.cells, counters := s.counters } = s
      ∧ t.counters = { s.counters with cellCorrected := satAdd s.counters.cellCorrected q.2.1 }
      ∧ t.cells[n.val].group x.tile = some g' ∧ r.2.pos = x.pos ∧ g'.wide = g.wide ∧ g'.next = g.next
      ∧ (if (g.reorder[l.val]).length < 8 then g'.reorder[l.val] = g.reorder[l.val] ++ [r.2] ∧ g'.waiting = g.waiting
         else g'.reorder = g.reorder ∧ g'.waiting[l.val] = some r.2)
      ∧ t.cells[n.val].planeSteps = (if r.1 then s.cells[n.val].planeSteps else satInc s.cells[n.val].planeSteps)
      ∧ t.cells[n.val].planesSkipped = (if r.1 then satInc s.cells[n.val].planesSkipped else s.cells[n.val].planesSkipped)
      ∧ t.cells[n.val].lanes = s.cells[n.val].lanes ∧ t.cells[n.val].regions = q.1.regions)
  ∧ (∀ (s : State) (n : CellId) (l : LaneGroup) (tile : TileId) (side : SideIn) (err : Option AccUpset) (w : Work) (g : Group)
    (k : ChunkTag) (y : Partial) (b : Block) (a : Nat × Bool) (c : Cell), s.cells[n.val].works = true →
    s.work n = some w → s.cells[n.val].group tile = some g → g.due l = some (k, y) → s.chunkBlock w g k = some b →
    checkAcc (maskOf err) = some a → c = s.cells[n.val].flipAcc tile (elementOf err) a.1 →
    endsChunk k y.pos = false ∨ (∃ xs, c.sideOf g k b l y.pos.slot side = some (.recs xs)) →
    ∃ t g', exec (.partialRetire n l tile side err) s = .next t
      ∧ (∀ m : CellId, m ≠ n → t.cells[m.val] = s.cells[m.val])
      ∧ { t with cells := s.cells, counters := s.counters } = s
      ∧ t.counters = { s.counters with cellCorrected := satAdd s.counters.cellCorrected (b2n a.2) }
      ∧ t.cells[n.val].group tile = some g' ∧ g'.next[l.val] = nextPos g.tag y.pos
      ∧ g'.reorder[l.val] ++ g'.waiting[l.val].toList
          = ((g.reorder[l.val] ++ g.waiting[l.val].toList).filter (fun z => z.pos != y.pos)).take 9
      ∧ (g'.reorder[l.val]).length ≤ 8
      ∧ (∀ l' : LaneGroup, l' ≠ l → g'.next[l'.val] = g.next[l'.val] ∧ g'.reorder[l'.val] = g.reorder[l'.val]
          ∧ g'.waiting[l'.val] = g.waiting[l'.val])
      ∧ (∀ r : RegionId, side.lists.map (·.1) ≠ some r → t.cells[n.val].regions[r.val] = s.cells[n.val].regions[r.val])
      ∧ (k.kind = .trit5 → k.width y.pos.slot ≠ 0 → posIn g.tag y.pos = true → endsChunk k y.pos = false →
          (s.cells[n.val].lanes[l.val]).promotesFirst (tile, y.pos.slot) k y.pos = false → a.1 = 0 →
          (t.cells[n.val].lanes[l.val]).narrow
              = List.zipWith (fun u v => wrapS 20 (u + v)) (s.cells[n.val].lanes[l.val]).narrow y.vals
            ∧ g'.wide = g.wide))

/-- A reduction of one die whose cells hold every leaf forms its module sum and frees its context; one whose other leaves lie on
the other die keeps its context until they are there, and the hub then adds the two dies' sums (R107, R108). A die's sum is the
sum of its leaves' partials, whatever cells hold them (R106, R107). One flipped bit of a leaf's accumulators is corrected and
counts (R357). -/
def Obligations.ReductionSums : Prop :=
  (∀ (s : State) (die : Fin 2) (stage : Nat) (tile : TileId) (w : Work) (k : GroupKey) (r : Reduction) (g : Group)
    (n : CellId) (e : AccRead) (b : Bool), s.stageWork stage = some w → s.closedOn w.stage die.val tile = some k → s.dieReduction w die tile k = some r →
    s.contexts = Vector.replicate 2 [] → s.waitingReds = Vector.replicate 2 [] →
    (∀ x ∈ s.moduleSums, x.key ≠ k) → s.groupOf k = some g →
    checkAcc (maskOf (s.leafUpset w.stage die.val k n e)) = some (0, b) →
    ∃ t, exec (.reductionContextStart die stage tile n e) s = .next t
      ∧ (if r.leaves.length = g.tag.leaves then t.moduleSums = s.moduleSums ++ [r] ∧ t.contexts = s.contexts
         else t.moduleSums = s.moduleSums ∧ t.contexts[die.val] = [r] ∧ t.contexts[1 - die.val] = [])
      ∧ t.waitingReds = s.waitingReds ∧ t.cells = s.cells ∧ t.hbm = s.hbm
      ∧ t.counters.cellCorrected = satAdd s.counters.cellCorrected (b2n b))
  ∧ (∀ (s : State) (die : Fin 2) (stage : Nat) (tile : TileId) (w : Work) (k : GroupKey) (r x : Reduction) (g : Group)
    (n : CellId) (e : AccRead) (b : Bool), s.stageWork stage = some w → s.closedOn w.stage die.val tile = some k → s.dieReduction w die tile k = some r →
    s.contexts[die.val] = [] → s.contexts[1 - die.val] = [x] → s.waitingReds = Vector.replicate 2 [] →
    (∀ y ∈ s.moduleSums, y.key ≠ k) → s.groupOf k = some g → x.key = k → x.sums.length = r.sums.length →
    x.leaves.length + r.leaves.length = g.tag.leaves →
    checkAcc (maskOf (s.leafUpset w.stage die.val k n e)) = some (0, b) →
    ∃ t y, exec (.reductionContextStart die stage tile n e) s = .next t ∧ t.moduleSums = s.moduleSums ++ [y] ∧ y.key = k
      ∧ y.sums = List.zipWith (· + ·) x.sums r.sums ∧ t.contexts = Vector.replicate 2 []
      ∧ t.waitingReds = s.waitingReds ∧ t.cells = s.cells ∧ t.hbm = s.hbm
      ∧ t.counters.cellCorrected = satAdd s.counters.cellCorrected (b2n b))
  ∧ (∀ (s : State) (die : Fin 2) (tile : TileId) (w : Work) (k : GroupKey) (r : Reduction) (i : Nat),
    s.dieReduction w die tile k = some r →
    r.key = k ∧ r.sums.getD i 0 = sumI ((s.leafGroups w.stage die.val k).map (fun g => g.2.partials.1.getD i 0)))

/-- A line that a region accepts lands behind its other lines and counts: of the cell itself, or over mesh links that no held
line stops, against a credit in credit mode (R85, R90, R91, R94). Into a full region it is held, and the other lines stand
(R93). An engine's line is the next one of its list, as HBM holds it (R99, R101). The consumer takes the line at TAIL once an
arrival wait covers it and every tile that needs it has passed (R84, R90, R92); a held line lands once there is space, and its
ticks count (R93); a wait on a count is over once ARRIVED has reached it, else the cell waits (R92). -/
def Obligations.RegionRules : Prop :=
  (∀ (s : State) (n : CellId) (r : RegionId) (p : Producer) (src : Option CellId) (line : Bytes) (c : Cell) (x : Region),
    s.cells[n.val] = c → c.regions[r.val] = x → x.producer = p → x.held = none → line.length = 64 → x.full = false →
    p = .ownCell ∨ ((p = .mesh ∨ p = .seam) ∧ (∀ l ∈ linksTo src n, l ∉ s.heldLinks)
      ∧ (x.credit = true → x.credits ≠ 0)) →
    ∃ t, exec (.regionLineWrite n r p src line) s = .next t ∧ { t with cells := s.cells } = s
      ∧ (∀ m : CellId, m ≠ n → src ≠ some m → t.cells[m.val] = s.cells[m.val])
      ∧ (t.cells[n.val].regions[r.val]).lines = x.lines ++ [⟨line, none, c.step⟩]
      ∧ (t.cells[n.val].regions[r.val]).head = x.head + 1 ∧ (t.cells[n.val].regions[r.val]).arrived = satInc x.arrived
      ∧ (t.cells[n.val].regions[r.val]).credits
          = (if p ≠ .ownCell ∧ x.credit = true then x.credits - 1 else x.credits)
      ∧ (∀ q : RegionId, q ≠ r → t.cells[n.val].regions[q.val] = c.regions[q.val])
      ∧ t.cells[n.val].groups = c.groups ∧ t.cells[n.val].lanes = c.lanes)
  ∧ (∀ (s : State) (n : CellId) (r : RegionId) (p : Producer) (src : Option CellId) (line : Bytes) (c : Cell) (x : Region),
    s.cells[n.val] = c → c.regions[r.val] = x → p = .mesh ∨ p = .seam → x.producer = p → x.held = none →
    line.length = 64 → x.full = true → x.credit = false → (∀ l ∈ linksTo src n, l ∉ s.heldLinks) →
    ∃ t, exec (.regionLineWrite n r p src line) s = .next t ∧ { t with cells := s.cells } = s
      ∧ (∀ m : CellId, m ≠ n → src ≠ some m → t.cells[m.val] = s.cells[m.val])
      ∧ t.cells[n.val].regions[r.val] = { x with held := some ⟨line, s.now, src⟩ }
      ∧ (∀ q : RegionId, q ≠ r → t.cells[n.val].regions[q.val] = c.regions[q.val])
      ∧ t.cells[n.val].stallSince.isSome = true ∧ (∀ m : CellId, src = some m → t.cells[m.val].heldOut = true))
  ∧ (∀ (s : State) (n : CellId) (r : RegionId) (e : EngineId) (src : Option CellId) (line : Bytes) (x : Flight)
    (xs : List Flight), s.hbmUp = true → s.hbm.side = [] → (s.cells[n.val].upd[e.val]).flight = x :: xs → x.region = r →
    ∃ t, exec (.regionLineWrite n r (engineOf e) src line) s = .next t ∧ OnlyCell s t n
      ∧ (t.cells[n.val].regions[r.val]).lines
          = (s.cells[n.val].regions[r.val]).lines ++ [⟨s.hbm.read x.addr 64, some x.addr, x.step⟩]
      ∧ (t.cells[n.val].regions[r.val]).reserved = (s.cells[n.val].regions[r.val]).reserved - 1
      ∧ (t.cells[n.val].upd[e.val]).flight
          = (if x.lines ≤ 1 then xs else { x with addr := x.addr + 64, lines := x.lines - 1 } :: xs)
      ∧ (∀ q : RegionId, q ≠ r → t.cells[n.val].regions[q.val] = s.cells[n.val].regions[q.val]))
  ∧ (∀ (s : State) (n : CellId) (r : RegionId) (u : Upset) (line : RLine) (rest : List RLine) (c : Cell),
    s.cells[n.val] = c → (c.regions[r.val]).lines = line :: rest → (c.regions[r.val]).usable c.step 0 = true →
    s.linePassed n line = true → (c.checkAt (r, 0) u).2.2 = none →
    ∃ t, exec (.regionLineConsume n r u) s = .next t ∧ { t with cells := s.cells, counters := s.counters } = s
      ∧ (∀ m : CellId, m ≠ n → t.cells[m.val] = s.cells[m.val])
      ∧ t.counters = { s.counters with cellCorrected := satAdd s.counters.cellCorrected (c.checkAt (r, 0) u).2.1 }
      ∧ (t.cells[n.val].regions[r.val]).lines = rest
      ∧ (t.cells[n.val].regions[r.val]).tail = (c.regions[r.val]).tail + 1
      ∧ (t.cells[n.val].regions[r.val]).head = (c.regions[r.val]).head
      ∧ (∀ q : RegionId, q ≠ r → t.cells[n.val].regions[q.val] = c.regions[q.val]) ∧ t.cells[n.val].groups = c.groups)
  ∧ (∀ (s : State) (n : CellId) (r : RegionId) (t : Nat) (h : HeldLine) (c : Cell), s.tb.time = t → s.cells[n.val] = c →
    (c.regions[r.val]).held = some h → (c.regions[r.val]).full = false →
    ∃ u, exec (.heldWriteRelease n r t) s = .next u ∧ { u with cells := s.cells } = s
      ∧ (∀ m : CellId, m ≠ n → h.src ≠ some m → u.cells[m.val] = s.cells[m.val])
      ∧ (u.cells[n.val].regions[r.val]).lines = (c.regions[r.val]).lines ++ [⟨h.line, none, c.step⟩]
      ∧ (u.cells[n.val].regions[r.val]).held = none
      ∧ (∀ q : RegionId, q ≠ r → u.cells[n.val].regions[q.val] = c.regions[q.val])
      ∧ (∀ t0, c.stallSince = some t0 → (∀ q : RegionId, q ≠ r → (c.regions[q.val]).held = none) →
          u.cells[n.val].stallTicks = satAdd c.stallTicks (t - t0) ∧ u.cells[n.val].stallSince = none))
  ∧ (∀ (s : State) (n : CellId) (r : RegionId) (k t : Nat) (c : Cell), s.tb.time = t → s.cells[n.val] = c →
    c.waitRegion = none ∨ c.waitRegion = some r →
    ∃ u, exec (.arrivalWaitDone n r k t) s = .next u ∧ OnlyCell s u n
      ∧ (∀ q : RegionId, q ≠ r → u.cells[n.val].regions[q.val] = c.regions[q.val])
      ∧ (k ≤ (c.regions[r.val]).arrived.toNat → u.cells[n.val].waitRegion = none
          ∧ (u.cells[n.val].regions[r.val]).waited = some (Nat.max k ((c.regions[r.val]).waited.getD 0))
          ∧ (c.waitRegion = some r → u.cells[n.val].waitTicks = satAdd c.waitTicks (t - c.waitSince)))
      ∧ ((c.regions[r.val]).arrived.toNat < k → c.works = true → u.cells[n.val].waitRegion = some r
          ∧ (u.cells[n.val].regions[r.val]).waited = (c.regions[r.val]).waited))

/-- An updraft engine: an entry whose lines are known issues once its whole length is reserved in its region, and waits for
space otherwise; its lines are in flight from then on (R98, R101). A list that is published starts one step ahead once the
current one is done (R100). -/
def Obligations.UpdraftRules : Prop :=
  (∀ (s : State) (n : CellId) (e : EngineId) (x : FetchEntry) (runs : List (Nat × Nat)) (c : Cell), s.cells[n.val] = c →
    (c.upd[e.val]).list[(c.upd[e.val]).pos]? = some x → (c.upd[e.val]).halted = none → c.trapped = false →
    (c.regions[x.region.val]).producer = engineOf e → s.fetchRuns (s.work n) x = some runs →
    ∃ t, exec (.updraftEntryIssue n e) s = .next t ∧ (∀ m : CellId, m ≠ n → t.cells[m.val] = s.cells[m.val])
      ∧ (t.cells[n.val].regions[x.region.val]).lines = (c.regions[x.region.val]).lines
      ∧ (sumN (runs.map (·.2)) ≤ (c.regions[x.region.val]).unreserved →
          (t.cells[n.val].upd[e.val]).pos = (c.upd[e.val]).pos + 1
          ∧ (t.cells[n.val].regions[x.region.val]).reserved
              = (c.regions[x.region.val]).reserved + sumN (runs.map (·.2))
          ∧ (t.cells[n.val].upd[e.val]).flight = (c.upd[e.val]).flight
              ++ runs.map (fun r => ⟨x.addr + 64 * r.1, r.2, x.region, x.kind, (c.upd[e.val]).listStep⟩)
          ∧ (x.gate = none → OnlyCell s t n))
      ∧ ((c.regions[x.region.val]).unreserved < sumN (runs.map (·.2)) → OnlyCell s t n
          ∧ t.cells[n.val].regions = c.regions
          ∧ t.cells[n.val].upd[e.val] = { c.upd[e.val] with waitSpace := true }))
  ∧ (∀ (s : State) (n : CellId) (e : EngineId), (s.cells[n.val].upd[e.val]).ahead = false →
    (s.cells[n.val].upd[e.val]).halted = none → (s.cells[n.val].upd[e.val]).done = true →
    (s.cells[n.val].upd[e.val]).next.isSome = true →
    ∃ t, exec (.updraftListStart n e) s = .next t ∧ OnlyCell s t n ∧ (t.cells[n.val].upd[e.val]).ahead = true
      ∧ (t.cells[n.val].upd[e.val]).pos = 0 ∧ (t.cells[n.val].upd[e.val]).next = (s.cells[n.val].upd[e.val]).next
      ∧ t.cells[n.val].regions = s.cells[n.val].regions)

/-- A write held for longer than STALL_LIMIT is a flow stall: it counts, and the step of the cell's job is killed (R96). A
microcode trap leaves its cell TRAPPED and counts (R359); the reload ends the trap: the cell's next step runs in credit mode, its
groups are gone, and, as at any reset, no snapshot stands and the scrubber starts over (R95, R274, R332, R411). A channel that
halts keeps its entry; the test pattern restores it, or fences its cell or itself (R360, R361). A scratchpad word, an accumulator
word that retirement, the requantiser or a reduction reads, or a weight that stays bad counts and kills the step with cause 3
(R19, R260, R357). That CELL_UNCORRECTABLE counts microcode
words and that a halted channel holds launches are the model's readings (notes/assumptions/42.md, 83.md). -/
def Obligations.CellFaults : Prop :=
  (∀ (s : State) (n : CellId) (r : RegionId) (t h : Nat) (w : HeldLine) (j : Job) (x : Step), s.tb.time = t →
    s.cells[n.val].regions[r.val].held = some w → s.cfg.stallLimit < t - w.since → s.cells[n.val].job = some h →
    s.job h = some j → j.step = some x → x.phase ≠ .killed → x.kills < 2 →
    ∃ u j' y, exec (.flowStall n r t) s = .next u ∧ u.counters.flowStalls = satInc s.counters.flowStalls
      ∧ u.job h = some j' ∧ j'.step = some y ∧ y.phase = .killed ∧ y.kills = x.kills + 1 ∧ y.cause = 5
      ∧ j'.layout.flowStalled = true ∧ u.hbm = s.hbm)
  ∧ (∀ (s : State) (n : CellId) (off syn t : Nat), s.tb.time = t → s.cells[n.val].job.isSome = true →
    s.cells[n.val].base ≠ .off → s.cells[n.val].trapped = false → n.val ∉ s.fenced →
    ∃ u, exec (.microcodeTrap n off syn t) s = .next u ∧ u.cells[n.val].trapped = true
      ∧ u.counters.microcodeTraps = satInc s.counters.microcodeTraps
      ∧ u.counters.cellUncorrectable = satInc s.counters.cellUncorrectable ∧ u.plan = s.plan)
  ∧ (∀ (s : State) (n : CellId) (h st : Nat) (j : Job), s.cells[n.val].trapped = true → s.cells[n.val].job = some h →
    s.cells[n.val].stage = some st → s.job h = some j → j.prog = .installed → j.layout.pending = none →
    s.generating = false →
    ∃ u, exec (.microcodeReloadDone n) s = .next u ∧ u.cells[n.val].trapped = false ∧ u.cells[n.val].credit = true
      ∧ u.cells[n.val].job = some h ∧ u.cells[n.val].stage = some st ∧ u.cells[n.val].groups = []
      ∧ (∀ m : CellId, m ≠ n → u.cells[m.val] = s.cells[m.val])
      ∧ (∀ p : PartId, (u.parts[p.val]).snapSel = none ∧ (u.parts[p.val]).snap = none) ∧ u.jobs = s.jobs
      ∧ u.hbm.mem = s.hbm.mem ∧ u.hbm.scrub = [])
  ∧ (∀ (s : State) (c entry : Nat) (n : CellId), 16 ≤ c → c < 32 → s.haltedDma.any (fun x => x.1 == c) = false →
    c ∉ s.fencedDma →
    ∃ t, exec (.channelHalt c n entry) s = .next t ∧ t.haltedDma = s.haltedDma ++ [(c, entry)]
      ∧ t.counters.channelHalts = satInc s.counters.channelHalts ∧ t.fencedDma = s.fencedDma ∧ t.plan = s.plan)
  ∧ (∀ (s : State) (e : EngineId) (entry : Nat) (n : CellId), (s.cells[n.val].upd[e.val]).halted = none →
    n.val ∉ s.fenced →
    ∃ t, exec (.channelHalt e.val n entry) s = .next t ∧ (t.cells[n.val].upd[e.val]).halted = some entry
      ∧ (t.cells[n.val].upd[e.val]).flight = [] ∧ t.counters.channelHalts = satInc s.counters.channelHalts
      ∧ t.haltedDma = s.haltedDma ∧ t.fenced = s.fenced)
  ∧ (∀ (s : State) (c : Nat) (n : CellId) (pass : Bool), 16 ≤ c → c < 32 → s.haltedDma.any (fun x => x.1 == c) = true →
    ∃ t, exec (.channelPatternDone c n pass) s = .next t ∧ t.haltedDma = s.haltedDma.filter (fun y => y.1 != c)
      ∧ t.fencedDma = (if pass then s.fencedDma else s.fencedDma ++ [c]) ∧ t.cells = s.cells ∧ t.hbm = s.hbm)
  ∧ (∀ (s : State) (e : EngineId) (n : CellId) (entry : Nat) (pass : Bool),
    (s.cells[n.val].upd[e.val]).halted = some entry → n.val ∉ s.fenced →
    ∃ t, exec (.channelPatternDone e.val n pass) s = .next t ∧ (t.cells[n.val].upd[e.val]).halted = none
      ∧ t.fenced = (if pass then s.fenced else s.fenced ++ [n.val]) ∧ t.haltedDma = s.haltedDma ∧ t.hbm = s.hbm
      ∧ (∀ m : CellId, m ≠ n → t.cells[m.val] = s.cells[m.val]))
  ∧ (∀ (s : State) (n : CellId) (r : RegionId) (u : Upset) (line : RLine) (rest : List RLine) (c : Cell) (h a : Nat)
    (j : Job) (x : Step), s.cells[n.val] = c → (c.regions[r.val]).lines = line :: rest →
    (c.regions[r.val]).usable c.step 0 = true → s.linePassed n line = true → (c.checkAt (r, 0) u).2.2 = some a →
    c.job = some h → s.job h = some j → j.step = some x → x.phase ≠ .killed → x.kills < 2 →
    ∃ t j' y, exec (.regionLineConsume n r u) s = .next t
      ∧ t.counters.cellUncorrectable = satInc s.counters.cellUncorrectable ∧ t.job h = some j' ∧ j'.step = some y
      ∧ y.phase = .killed ∧ y.kills = x.kills + 1 ∧ y.cause = 3 ∧ t.hbm = s.hbm)
  ∧ (∀ (s : State) (n : CellId) (l : LaneGroup) (tile : TileId) (side : SideIn) (err : AccUpset) (w : Work) (g : Group)
    (k : ChunkTag) (y : Partial) (b : Block), s.cells[n.val].works = true → s.work n = some w →
    s.cells[n.val].group tile = some g → g.due l = some (k, y) → s.chunkBlock w g k = some b →
    checkAcc err.mask = none → w.step.kills < 2 →
    ∃ t j' z, exec (.partialRetire n l tile side (some err)) s = .next t
      ∧ t.counters.cellUncorrectable = satInc s.counters.cellUncorrectable ∧ t.job w.job.handle = some j'
      ∧ j'.step = some z ∧ z.phase = .killed ∧ z.kills = w.step.kills + 1 ∧ z.cause = 3 ∧ t.hbm = s.hbm)
  ∧ (∀ (s : State) (n : CellId) (w : Work) (g : Group) (gs : List Group) (err : AccUpset),
    s.cells[n.val].works = true → s.work n = some w → s.cells[n.val].groups = g :: gs → g.closed = true →
    g.tag.tree = false → s.outBase w g ≠ none → checkAcc err.mask = none → w.step.kills < 2 →
    ∃ t j' z, exec (.groupRequantise n ⟨g.tile, some err⟩) s = .next t
      ∧ t.counters.cellUncorrectable = satInc s.counters.cellUncorrectable ∧ t.job w.job.handle = some j'
      ∧ j'.step = some z ∧ z.phase = .killed ∧ z.kills = w.step.kills + 1 ∧ z.cause = 3 ∧ t.hbm = s.hbm)
  ∧ (∀ (s : State) (die : Fin 2) (stage : Nat) (tile : TileId) (n : CellId) (x : AccRead) (w : Work) (k : GroupKey)
    (r : Reduction) (err : AccUpset), s.stageWork stage = some w → s.closedOn w.stage die.val tile = some k →
    s.dieReduction w die tile k = some r → hasRed r (s.contexts[die.val] ++ s.waitingReds[die.val]) = false →
    (∀ y ∈ s.moduleSums, y.key ≠ k) → s.leafUpset w.stage die.val k n x = some err → checkAcc err.mask = none →
    w.step.kills < 2 →
    ∃ t j' z, exec (.reductionContextStart die stage tile n x) s = .next t
      ∧ t.counters.cellUncorrectable = satInc s.counters.cellUncorrectable ∧ t.job w.job.handle = some j'
      ∧ j'.step = some z ∧ z.phase = .killed ∧ z.kills = w.step.kills + 1 ∧ z.cause = 3 ∧ t.hbm = s.hbm)
  ∧ (∀ (s : State) (n : CellId) (l : LaneGroup) (x : PlaneIn) (w : Work) (g : Group) (k : ChunkTag) (b : Block)
    (q : Cell × Nat × Option Nat) (off : Nat), s.cells[n.val].works = true → s.work n = some w →
    s.cells[n.val].group x.tile = some g → g.takes l x.pos = some k → s.chunkBlock w g k = some b →
    q = s.cells[n.val].checkAll (s.cells[n.val].upsetLines b x) → q.2.2 = none →
    q.1.planeOut w g k b l x = some (.fault off) → w.step.kills < 2 → blockOk b.fmt (s.blockBytes b) = true →
    ∃ t j' z, exec (.planeStep n l x) s = .next t ∧ t.counters.weightErrors = satInc s.counters.weightErrors
      ∧ t.job w.job.handle = some j' ∧ j'.step = some z ∧ z.phase = .killed ∧ z.kills = w.step.kills + 1 ∧ z.cause = 3
      ∧ t.blocks = s.blocks)

/-- The log engine and the vector unit work in their own cell alone (R33, R58, R133): every sum of the array takes the
aligned product of its operands modulo 2^48; the vector unit keeps the results of its operation. The pairing of the log
engine's operands is the model's choice (notes/assumptions/48.md); the wrap of an aligned value is its reading (80.md). -/
def Obligations.UnitsCompute : Prop :=
  (∀ (s : State) (n : CellId) (x : LogIn) (a b : Nat), s.cells[n.val].works = true → x.first = true → x.rows = [a] →
    x.cols = [b] →
    ∃ t, exec (.logEngineStep n x) s = .next t ∧ OnlyCell s t n
      ∧ t.cells[n.val].logSums = [wrap48 (if lnsIsZero a = true ∨ lnsIsZero b = true then 0
          else alignLog (lnsNeg a != lnsNeg b) (lnsLog a + lnsLog b) x.q)]
      ∧ t.cells[n.val].groups = s.cells[n.val].groups ∧ t.cells[n.val].regions = s.cells[n.val].regions)
  ∧ (∀ (s : State) (n : CellId) (op : VectorOp) (a b : List Int), s.cells[n.val].works = true →
    ∃ t, exec (.vectorUnitStep n op a b) s = .next t ∧ OnlyCell s t n ∧ t.cells[n.val].vec = (vectorResult op a b).1
      ∧ t.cells[n.val].lnsSats = satAdd s.cells[n.val].lnsSats (vectorResult op a b).2
      ∧ t.cells[n.val].groups = s.cells[n.val].groups ∧ t.cells[n.val].regions = s.cells[n.val].regions)


/-! ## The ranks of a job -/

/-- The division of a descriptor's units over the ranks (R151): a rank holds the run of units that belong to it, the counts of
any two ranks differ by one at most, and where there are fewer units than ranks some rank holds none. -/
def Obligations.UnitsDivideEvenly : Prop :=
  ∀ (U n : Nat), 1 ≤ n →
    (∀ u r, u < U → r < n → ((unitsOf U n r).1 ≤ u ∧ u < (unitsOf U n r).1 + (unitsOf U n r).2 ↔ r = u * n / U))
    ∧ (∀ r r', r < n → r' < n → (unitsOf U n r).2 ≤ (unitsOf U n r').2 + 1)
    ∧ (U < n → ∃ r, r < n ∧ (unitsOf U n r).2 = 0)

/-! ## The memory system -/

/-- A read of clean memory hands over the stored bytes, unmarked, and changes nothing (R259), wide or narrow (R265); a wide
access past the end of memory (R250), and a narrow access or an add outside S and A (R265, R266), only count an address fault
when no job is active. Which agents and rows are refused follows the model's reading (notes/assumptions/49.md). -/
def Obligations.HbmReads : Prop :=
  (∀ (s : State) (who : Agent) (a n : Nat), s.hbmUp = true → s.hbm.side = [] → a + n ≤ memEnd →
    exec (.hbmRead who a n ⟨[], []⟩) s = .next (s.emit (.hbmData a (s.hbm.read a n) false)))
  ∧ (∀ (s : State) (who : Agent) (a : Nat), s.hbmUp = true → s.hbm.side = [] → s.takesNarrow who a none = true → a % 32 = 0 →
    a + 32 ≤ memEnd → s.narrowUnit a = true →
    exec (.hbmNarrowAccess who a none ⟨[], []⟩) s = .next (s.emit (.hbmData a (s.hbm.read a 32) false)))
  ∧ (∀ (s : State) (who : Agent) (a n : Nat) (d : Disturb), s.hbmUp = true → s.active = none → memEnd < a + n →
    ∃ t, exec (.hbmRead who a n d) s = .next t ∧ t.hbm = s.hbm ∧ t.jobs = s.jobs
      ∧ t.counters = { s.counters with addressFaults := satInc s.counters.addressFaults })
  ∧ (∀ (s : State) (who : Agent) (a : Nat) (write : Option Bytes) (d : Disturb), s.hbmUp = true → s.active = none →
    s.takesNarrow who a write = true → a % 32 = 0 → a < memEnd → s.narrowUnit a = false →
    ∃ t, exec (.hbmNarrowAccess who a write d) s = .next t ∧ t.hbm = s.hbm ∧ t.jobs = s.jobs
      ∧ t.counters = { s.counters with addressFaults := satInc s.counters.addressFaults })
  ∧ (∀ (s : State) (a : Nat) (ty : AddType) (mask : Nat) (ops : Bytes) (d : Disturb), s.hbmUp = true → s.active = none →
    a % 32 = 0 → a < memEnd → s.narrowUnit a = false →
    ∃ t, exec (.hbmAddRequest a ty mask ops d) s = .next t ∧ t.hbm = s.hbm ∧ t.jobs = s.jobs
      ∧ t.counters = { s.counters with addressFaults := satInc s.counters.addressFaults })

/-- A write of a whole S burst reads back, whatever stood there, and touches no other byte (R261); a write into a W line
reads back and leaves the XOR of the stripe's twelve units as it was at every offset (R269, R270). Who may write W follows
the model's reading (notes/assumptions/49.md). -/
def Obligations.HbmWrites : Prop :=
  (∀ (s : State) (who : Agent) (b : Nat) (bs : Bytes) (d : Disturb), s.memoryWf → s.hbmUp = true → bs.length = 32 →
    32 * b + 32 ≤ memEnd → s.classAt (32 * b) = .s →
    ∃ t, exec (.hbmWrite who (32 * b) bs d) s = .next t ∧ t.hbm.read (32 * b) 32 = bs ∧ t.hbm.sBad b = false
      ∧ (∀ x, x < 32 * b ∨ 32 * b + 32 ≤ x → Mem.get t.hbm.mem x = Mem.get s.hbm.mem x)
      ∧ t.memoryWf ∧ t.counters = s.counters ∧ t.jobs = s.jobs ∧ t.out = s.out)
  ∧ (∀ (s : State) (who : Agent) (a : Nat) (bs : Bytes), s.memoryWf → s.hbmUp = true → s.hbm.side = [] →
    who = .hubDma ∨ who = .controlCore → 1 ≤ bs.length → a / 256 = (a + bs.length - 1) / 256 → a + bs.length ≤ memEnd →
    s.classAt a = .w → isParityUnit (a / stackBytes) (a % stackBytes / 65536) = false →
    ∃ t, exec (.hbmWrite who a bs ⟨[], []⟩) s = .next t ∧ t.hbm.read a bs.length = bs
      ∧ (∀ o, o < stackBytes → t.hbm.stripeSum o = s.hbm.stripeSum o)
      ∧ (∀ x, (x < a ∨ a + bs.length ≤ x) → (x < parityAddr a ∨ parityAddr a + bs.length ≤ x) →
          Mem.get t.hbm.mem x = Mem.get s.hbm.mem x)
      ∧ t.memoryWf ∧ t.counters = s.counters ∧ t.jobs = s.jobs)

/-- The memory-side adders (R266, R267): each masked lane of a clean word stores the integer sum modulo 2^32 or 2^48, every
other byte stands and no flag rises; the order of any set of integer adds does not change what memory holds. -/
def Obligations.AddsWrap : Prop :=
  (∀ (s : State) (a : Nat) (ty : AddType) (mask w : Nat) (ops : Bytes), s.memoryWf → s.hbmUp = true → s.hbm.side = [] →
    (ty = .int32 ∧ w = 32 ∨ ty = .int48 ∧ w = 48) → (∀ x ∈ s.hbm.mixed, x.2 = false) → a % 32 = 0 → a < memEnd →
    s.narrowUnit a = true → ops.length = 32 →
    ∃ t, exec (.hbmAddRequest a ty mask ops ⟨[], []⟩) s = .next t
      ∧ (∀ k, k < 32 / slotBytes ty → leNat (t.hbm.read (a + slotBytes ty * k) (slotBytes ty)) =
          (if mask.testBit k then
            (leNat (s.hbm.read (a + slotBytes ty * k) (slotBytes ty)) % 2 ^ w
              + leNat (sub ops (slotBytes ty * k) (slotBytes ty)) % 2 ^ w) % 2 ^ w
           else leNat (s.hbm.read (a + slotBytes ty * k) (slotBytes ty))))
      ∧ (∀ x, x < a ∨ a + 32 ≤ x → Mem.get t.hbm.mem x = Mem.get s.hbm.mem x)
      ∧ t.hbm.side = [] ∧ (∀ x ∈ t.hbm.mixed, x.2 = false) ∧ t.counters = s.counters ∧ t.jobs = s.jobs)
  ∧ (∀ (s : State) (a : Nat) (ty : AddType) (xs ys : List (Nat × Bytes)), s.memoryWf → s.hbm.side = [] →
    (ty = .int32 ∨ ty = .int48) → (∀ x ∈ s.hbm.mixed, x.2 = false) → a % 32 = 0 → a < memEnd → s.narrowUnit a = true →
    (∀ x ∈ xs, x.2.length = 32) → xs.Perm ys →
    (xs.foldl (fun s x => s.hbmAdd a ty x.1 x.2 ⟨[], []⟩) s).hbm.mem
      = (ys.foldl (fun s x => s.hbmAdd a ty x.1 x.2 ⟨[], []⟩) s).hbm.mem)

/-- A rebuilt line is the XOR of the other eleven of its stripe, reads good, and counts (R271); a block whose lines and
format stand once more is whole again, and any other waits for the host (R272, R273, R363, R365); a scrub visit to a clean
line changes no byte and moves the scrubber on (R274). That a block which a waiting LOAD_WEIGHTS replaces stays poisoned is the
model's reading (notes/assumptions/81.md). -/
def Obligations.RebuildsRestore : Prop :=
  (∀ (s : State) (stripe : Nat) (stack : StackId) (line a : Nat), s.memoryWf → s.hbmUp = true → stripe < s.hbm.wStripes →
    stripe < stackUnits → line < 256 → a = stack.val * stackBytes + stripe * 65536 + line * 256 →
    s.hbm.rebuildable a = true →
    ∃ t, exec (.lineRebuild stripe stack line) s = .next t ∧ t.hbm.read a 256 = s.hbm.stripeXor a 256
      ∧ t.hbm.wBad (a / 256) = false
      ∧ (∀ x, x < a ∨ a + 256 ≤ x → Mem.get t.hbm.mem x = Mem.get s.hbm.mem x)
      ∧ t.counters = { s.counters with linesRebuilt := satInc s.counters.linesRebuilt } ∧ t.memoryWf ∧ t.jobs = s.jobs
      ∧ t.blocks = s.blocks)
  ∧ (∀ (s : State) (g : Graph) (b : Block) (desc entry : Nat), s.hbmUp = true →
    s.blocks.find? (fun b => b.gref == g.gref && b.desc == desc && b.entry == entry) = some b → s.graph g.gref = some g →
    b.poison ≠ .clean → s.hbm.badLines b.addr b.bytes = [] → s.replacing b = false →
    ∃ t, exec (.blockRepairDone g.gref desc entry) s = .next t ∧ t.hbm = s.hbm
      ∧ (if b.isData = true ∨ blockOk b.fmt (s.blockBytes b) = true then
          t.blocks = updIf b.same (fun y => { y with poison := .clean }) s.blocks
            ∧ t.counters = { s.counters with blocksRebuilt := satInc s.counters.blocksRebuilt }
        else if b.poison = .refetch then t = s
        else t.blocks = updIf b.same (fun y => { y with poison := .refetch }) s.blocks ∧ t.counters = s.counters))
  ∧ (∀ (s : State) (g : Graph) (b : Block) (desc entry : Nat), s.hbmUp = true →
    s.blocks.find? (fun b => b.gref == g.gref && b.desc == desc && b.entry == entry) = some b → s.graph g.gref = some g →
    b.poison = .rebuilding → s.hbm.badLines b.addr b.bytes = [] → s.replacing b = true → s.activeUses b.gref = true →
    exec (.blockRepairDone g.gref desc entry) s
      = .next { s with blocks := updIf b.same (fun y => { y with poison := .refetch }) s.blocks })
  ∧ (∀ (s : State) (pc : PseudoChannel) (t n : Nat), s.tb.time = t → s.scrubDue pc.val = true → s.hbm.side = [] →
    nextLine (s.scrubRuns (pc.val / 32)) (lookupD 0 pc.val s.hbm.scrub) = some n →
    ∃ u, exec (.scrubVisit pc t ⟨[], []⟩) s = .next u ∧ lookupD 0 pc.val u.hbm.scrub = n + 1
      ∧ lookupD 0 pc.val u.hbm.scrubAt = t ∧ u.hbm.mem = s.hbm.mem ∧ u.hbm.side = [] ∧ u.counters = s.counters
      ∧ u.out = s.out)

/-- A traffic generator (R278, R279): over free units it starts with its results at 0, and the range holds its pattern; with
fields that are not valid it is refused with STATUS 4 and no byte moves; a stop waits for the run's end; at that end the bursts
that do not hold the pattern count, and the units it wrote read zero. That the whole range holds the pattern from the start,
that a stop waits for the row of the run's end, and the zeros at that end are the model's choices (notes/assumptions/52.md). -/
def Obligations.GeneratorsRun : Prop :=
  (∀ (s : State) (c : ChannelId) (g : Gen), s.memoryWf → s.hbm.gen c.val = g → g.status ≠ 1 → s.ready = true →
    s.hbm.selfRefresh = false → g.valid = true →
    s.unitsFree (c.val / 16) g.first.toNat g.last.toNat = true →
    ∃ t, exec (.generatorStart c) s = .next t ∧ (t.hbm.gen c.val).status = 1 ∧ (t.hbm.gen c.val).errors = 0
      ∧ (t.hbm.gen c.val).bursts = 0 ∧ (t.hbm.gen c.val).seed = g.seed ∧ (t.hbm.gen c.val).run = some g.toRun
      ∧ t.hbm.mem = (s.hbm.fillGen g.toRun c.val).mem
      ∧ (g.op ≠ 2 → ∀ a ∈ g.toRun.bursts c.val, t.hbm.read a 32 = g.toRun.burst a)
      ∧ (∀ k, k ≠ c.val → t.hbm.gen k = s.hbm.gen k) ∧ t.jobs = s.jobs)
  ∧ (∀ (s : State) (c : ChannelId), (s.hbm.gen c.val).status ≠ 1 → s.ready = true → s.hbm.selfRefresh = false →
    (s.hbm.gen c.val).valid = false →
    ∃ t, exec (.generatorStart c) s = .next t ∧ (t.hbm.gen c.val).status = 4 ∧ t.hbm.mem = s.hbm.mem
      ∧ (∀ k, k ≠ c.val → t.hbm.gen k = s.hbm.gen k) ∧ t.cells = s.cells ∧ t.jobs = s.jobs)
  ∧ (∀ (s : State) (c : ChannelId), (s.hbm.gen c.val).status = 1 →
    ∃ t, exec (.generatorStop c) s = .next t ∧ (t.hbm.gen c.val).stopping = true ∧ (t.hbm.gen c.val).status = 1
      ∧ t.hbm.mem = s.hbm.mem ∧ (∀ k, k ≠ c.val → t.hbm.gen k = s.hbm.gen k) ∧ t.cells = s.cells ∧ t.jobs = s.jobs)
  ∧ (∀ (s : State) (c : ChannelId) (g : Gen) (r : GenRun) (bursts errors firstFail : Nat) (dqFail : BitVec 64)
    (sideFail : BitVec 8) (y : GenFound), s.hbm.gen c.val = g → g.status = 1 → g.run = some r →
    r.loops ≠ 0 ∨ g.stopping = true →
    y = s.hbm.found r c.val g.stopping ⟨bursts, errors, firstFail, dqFail, sideFail⟩ →
    ∃ t, exec (.generatorRunDone c bursts errors firstFail dqFail sideFail) s = .next t
      ∧ (t.hbm.gen c.val).status = (if y.errors = 0 then 2 else 3) ∧ (t.hbm.gen c.val).bursts = satAdd 0 y.bursts
      ∧ (t.hbm.gen c.val).errors = satAdd 0 y.errors
      ∧ (∀ a, Mem.get t.hbm.mem a = if r.op ≠ 2 ∧ r.covers c.val a = true then 0 else Mem.get s.hbm.mem a)
      ∧ (∀ k, k ≠ c.val → t.hbm.gen k = s.hbm.gen k) ∧ t.jobs = s.jobs)

/-! ## Time and place -/

/-- The timebase (R318-R321, R428): a marker loads an armed seed, or corrects a synced count by its offset d; a missing
marker counts; a reference outside its limits turns SYNCED into HOLDOVER; 0x5A arms a seed that stands, or says why not; a
read of TIME latches it. The coordinates (R283, R284): 0xA5 makes all staged fields live at one instant, with no job open and
fields that are valid; else nothing goes live and the status says why; other values do nothing. Which marker is the next one,
and what a seed met then, are the model's readings (notes/assumptions/53.md). -/
def Obligations.TimeAndPlace : Prop :=
  (∀ (s : State) (t : Nat), s.tb.time = t → s.tb.running = true → s.tb.refPresent = true → s.tb.state = .armed →
    t ≤ s.tb.seed.toNat →
    ∃ u, exec (.marker t) s = .next u ∧ u.tb.time = s.tb.seed.toNat ∧ u.tb.state = .synced ∧ u.tb.seedStatus = 1
      ∧ u.tb.markers = s.tb.markers + 1 ∧ u.jobs = s.jobs ∧ u.hbm = s.hbm)
  ∧ (∀ (s : State) (t : Nat) (d : Int), s.tb.time = t → s.tb.running = true → s.tb.refPresent = true →
    s.tb.state = .synced → d = markerOffset t →
    ∃ u, exec (.marker t) s = .next u
      ∧ u.tb.slips = (if d = 0 then s.tb.slips else satInc16 s.tb.slips)
      ∧ u.tb.state = (if 2 ^ 18 ≤ d.natAbs then .lost else .synced)
      ∧ u.tb.time = (if d < 0 ∧ d.natAbs < 2 ^ 18 then (t + d.natAbs) % 2 ^ 64 else t)
      ∧ u.tb.hold = (if 0 < d ∧ d.natAbs < 2 ^ 18 then d.toNat else s.tb.hold)
      ∧ u.tb.lastSlip = (if d = 0 then s.tb.lastSlip else slipField d) ∧ u.jobs = s.jobs ∧ u.hbm = s.hbm)
  ∧ (∀ (s : State) (t : Nat), s.tb.time = t → s.tb.running = true →
    ∃ u, exec (.markerMissing t) s = .next u ∧ u.tb.missing = satInc16 s.tb.missing ∧ u.tb.markerPresent = false
      ∧ u.tb.time = t ∧ u.tb.state = s.tb.state ∧ u.hbm = s.hbm ∧ u.jobs = s.jobs)
  ∧ (∀ (s : State) (t : Nat) (swingMv ppm : Int), s.tb.time = t → s.tb.running = true → s.tb.state = .synced →
    ∃ u, exec (.refclkCheck t swingMv ppm) s = .next u ∧ u.tb.refPresent = refWithin swingMv ppm
      ∧ u.tb.state = (if refWithin swingMv ppm then .synced else .holdover) ∧ u.tb.time = t ∧ u.hbm = s.hbm
      ∧ u.jobs = s.jobs)
  ∧ (∀ (s : State), s.powerAnswers = true →
    ∃ u, exec (.seedCommit 0x5A) s = .next u ∧ u.tb.time = s.tb.time ∧ u.jobs = s.jobs
      ∧ (if s.tb.seed.toNat % markerTicks ≠ 0 then u.tb.seedStatus = 3 ∧ u.tb.state = s.tb.state
         else if s.tb.seed.toNat < s.tb.atNextMarker then u.tb.seedStatus = 2 ∧ u.tb.state = s.tb.state
         else if s.tb.state = .synced ∧ s.jobs ≠ [] then u.tb.seedStatus = 4 ∧ u.tb.state = s.tb.state
         else u.tb.state = .armed))
  ∧ (∀ (s : State) (v : Byte), v ≠ 0x5A → exec (.seedCommit v) s = .next s)
  ∧ (∀ (s : State), s.powerAnswers = true →
    exec .timeLatchRead s = .next { s with tb := { s.tb with latched := BitVec.ofNat 64 s.now } })
  ∧ (∀ (s : State), s.powerAnswers = true →
    ∃ u, exec (.coordinateCommit 0xA5) s = .next u ∧ u.coord.staged = s.coord.staged ∧ u.jobs = s.jobs ∧ u.tb = s.tb
      ∧ (if coordValid s.coord.staged = false then u.coord.status = 3 ∧ u.coord.live = s.coord.live
         else if s.jobs ≠ [] then u.coord.status = 2 ∧ u.coord.live = s.coord.live
         else u.coord.status = 1 ∧ u.coord.live = s.coord.staged ∧ u.coord.committed = true))
  ∧ (∀ (s : State) (v : Byte), v ≠ 0xA5 → exec (.coordinateCommit v) s = .next s)

/-! ## Power and resets -/

/-- Power states with no active job (R401-R408): Lull parks every powered cell at 0.45 V, Active takes them back to the
voltage that held; Calm takes the power of every cell and drops the programs, its entry ends in self-refresh, and a request
for Active leads out of it once HBM is recalibrated; streaming ends with the programs in place (R353). The power controller
keeps the core voltage within 0.55 V and 0.70 V, and steps down by 5 mV above 100 °C (R409, R410); the sensors show what was
measured last (R432). What ends at the entry to Calm is in part the model's reading (notes/assumptions/73.md). -/
def Obligations.PowerRules : Prop :=
  (∀ (s : State) (r : PowReq) (t : Nat), s.tb.time = t → s.powerAnswers = true → s.power.go = false →
    r.reservedNonzero = false → r.atTime ≤ t → s.active = none → s.power.entering = false → s.power.state = .active →
    s.generating = false →
    ∃ u, exec (.powerRequestLull r t) s = .next u ∧ u.power.state = .lull ∧ u.power.coreMv = 450
      ∧ u.power.result = 2 ∧ u.power.go = false ∧ u.power.doneTime = BitVec.ofNat 64 t
      ∧ (∀ n : CellId, u.cells[n.val].base = if s.cells[n.val].base = .off then .off else .parked)
      ∧ u.hbm = s.hbm ∧ u.jobs = s.jobs)
  ∧ (∀ (s : State) (r : PowReq) (t : Nat), s.tb.time = t → s.powerAnswers = true → s.power.go = false →
    r.reservedNonzero = false → r.atTime ≤ t → s.active = none → s.power.entering = false → s.power.state = .lull →
    ∃ u, exec (.powerRequestActive r t) s = .next u ∧ u.power.state = .active ∧ u.power.coreMv = s.power.activeMv
      ∧ u.power.result = 2 ∧ u.power.go = false ∧ (∀ n : CellId, u.cells[n.val].base ≠ .parked)
      ∧ u.hbm = s.hbm ∧ u.jobs = s.jobs)
  ∧ (∀ (s : State) (r : PowReq) (t : Nat), s.tb.time = t → s.powerAnswers = true → s.power.go = false →
    r.reservedNonzero = false → r.atTime ≤ t → s.active = none → s.power.entering = false →
    s.power.state = .active ∨ s.power.state = .lull → s.generating = false →
    ∃ u, exec (.powerRequestCalm r t) s = .next u ∧ u.power.state = .calm ∧ u.power.entering = true
      ∧ u.power.result = 1 ∧ u.power.go = true ∧ (∀ n : CellId, u.cells[n.val].base = .off)
      ∧ (∀ j ∈ u.jobs, j.prog = .none) ∧ (∀ p : PartId, u.parts[p.val].snap = none) ∧ u.hbm.gens = [] ∧ u.plan = s.plan)
  ∧ (∀ (s : State), s.power.state = .calm → s.power.entering = true → s.power.wakeAsked = false →
    ∃ u, exec .calmEntered s = .next u ∧ u.hbm.selfRefresh = true ∧ u.power.entering = false ∧ u.power.result = 2
      ∧ u.power.go = false ∧ u.power.pending = none ∧ u.hbm.mem = s.hbm.mem ∧ u.jobs = s.jobs ∧ u.cells = s.cells)
  ∧ (∀ (s : State), s.power.waking = true → s.hbm.selfRefresh = true → s.active = none →
    ∃ u, exec .hbmRecalibrationDone s = .next u ∧ u.hbm.selfRefresh = false ∧ u.power.state = .active
      ∧ u.power.result = 2 ∧ u.power.waking = false ∧ u.hbm.mem = s.hbm.mem ∧ u.jobs = s.jobs
      ∧ (∀ n : CellId, n.val ∉ s.fenced → u.cells[n.val].base = .idle))
  ∧ (∀ (s : State) (t h : Nat) (j : Job), s.active = some h → s.job h = some j → j.prog = .streaming →
    ∃ u, exec (.streamingComplete t) s = .next u ∧ u.job h = some { j with prog := .streamed } ∧ u.hbm = s.hbm
      ∧ u.cells = s.cells ∧ u.parts = s.parts)
  ∧ (∀ (s : State) (watts t : Nat) (tj : Int), s.tb.time = t → s.ready = true → s.power.state = .active →
    550 ≤ s.power.coreMv.toNat → s.power.coreMv.toNat ≤ 700 →
    ∃ u, exec (.powerSample watts tj t) s = .next u ∧ 550 ≤ u.power.coreMv.toNat ∧ u.power.coreMv.toNat ≤ 700
      ∧ u.power.thermLimit = decide (800 < tj)
      ∧ (800 < tj → u.power.coreMv.toNat = Nat.max 550 (s.power.coreMv.toNat - 5))
      ∧ u.power.samples.length ≤ Nat.max 8 s.power.samples.length ∧ u.hbm = s.hbm ∧ u.jobs = s.jobs ∧ u.cells = s.cells)
  ∧ (∀ (s : State) (v : Sensors) (t : Nat), s.tb.time = t → s.board.statusOn = true →
    exec (.sensorRefresh v t) s = .next { s with board := { s.board with sensors := v } })

/-- Resets by request (R412-R414): one partition's reset ends its jobs and commands, empties its queue and clears its flags;
one cell's clears that cell alone, and kills the step that ran there; a warm reset closes every job on retained HBM, graphs
and time, and starts the current image. That a reset request acts with no regard to boundaries, and what each reset keeps,
are the model's readings (notes/assumptions/39.md, 61.md). -/
def Obligations.ResetsClear : Prop :=
  (∀ (s : State) (r : PowReq) (t : Nat) (p : PartId), s.memoryWf → s.hbm.side = [] → s.tb.time = t → s.ready = true →
    s.power.go = false → r.reservedNonzero = false → r.key = 0x5254 → r.partition = p.val → s.enabled p = true →
    r.atTime ≤ t →
    ∃ u, exec (.partitionReset r t) s = .next u ∧ (∀ j ∈ u.jobs, j.part ≠ p) ∧ u.parts[p.val].events = []
      ∧ (∀ m : BoxId, (u.box p m).owned = false) ∧ (∀ k, u.slotOwned p k = false) ∧ u.power.result = 2
      ∧ u.power.pending = none ∧ u.plan = s.plan ∧ u.graphs = s.graphs)
  ∧ (∀ (s : State) (r : PowReq) (t : Nat) (n : CellId), s.tb.time = t → s.ready = true → s.power.go = false →
    r.reservedNonzero = false → r.key = 0x5254 → r.cell = n.val → r.atTime ≤ t → n.val ∉ s.fenced →
    s.power.state ≠ .calm → s.cells[n.val].job = none → s.generating = false →
    ∃ u, exec (.cellReset r t) s = .next u
      ∧ u.cells[n.val] = { Cell.reset with base := .idle, stateTime := t, traps := s.cells[n.val].traps }
      ∧ (∀ m : CellId, m ≠ n → u.cells[m.val] = s.cells[m.val]) ∧ u.hbm.mem = s.hbm.mem ∧ u.jobs = s.jobs
      ∧ u.power.result = 2)
  ∧ (∀ (s : State) (r : PowReq) (t h : Nat) (n : CellId) (j : Job) (x : Step), s.tb.time = t → s.ready = true →
    s.power.go = false → r.reservedNonzero = false → r.key = 0x5254 → r.cell = n.val → r.atTime ≤ t → n.val ∉ s.fenced →
    s.power.state ≠ .calm → s.cells[n.val].job = some h → s.job h = some j → j.step = some x → x.phase ≠ .killed →
    x.kills < 2 → j.layout.pending = none → s.generating = false →
    ∃ u j' y, exec (.cellReset r t) s = .next u ∧ u.job h = some j' ∧ j'.step = some y ∧ y.phase = .killed ∧ y.cause = 9
      ∧ y.kills = x.kills + 1 ∧ u.cells[n.val].groups = [] ∧ u.hbm.mem = s.hbm.mem ∧ u.power.result = 2)
  ∧ (∀ (s : State) (r : PowReq) (t : Nat) (sigs : Sigs) (x : Image), s.tb.time = t → s.ready = true → s.power.go = false →
    s.power.pending = none → r.reservedNonzero = false → r.key = 0x5254 → r.atTime ≤ t → s.flash.current = some x →
    x.stands false = true → sigsOk sigs = true →
    ∃ u, exec (.warmReset r t sigs) s = .next u ∧ u.jobs = [] ∧ u.active = none ∧ u.ready = true
      ∧ u.fw.running = some x ∧ u.flash.failedBoots = 0 ∧ u.power.state = .active ∧ u.power.result = 2
      ∧ u.hbm.selfRefresh = false ∧ u.graphs = s.graphs ∧ u.blocks = s.blocks ∧ u.tb = s.tb ∧ u.coord = s.coord
      ∧ u.plan = s.plan ∧ u.counters = ModCounters.reset ∧ (∀ p : PartId, u.parts[p.val].events = []))

/-- Supplies, resets and boot (R378, R379, R397, R411, R424-R426, R432, R436): a rise of VIN holds the module in reset; its
fall and a trip take everything but flash; a release boots a good flash to READY under its signed plan, and a low RECOV_N or
a third failed boot leads into recovery mode. Failed boots follow each other at once by the model's reading
(notes/assumptions/27.md). -/
def Obligations.SuppliesAndBoot : Prop :=
  (∀ (s : State), s.board.vin = false →
    ∃ u, exec .vinRise s = .next u ∧ u.board.vin = true ∧ u.board.pgood = true ∧ u.board.resetLow = true
      ∧ u.board.bootStage = 1 ∧ u.jobs = [] ∧ u.hbm = State.reset.hbm ∧ u.flash = s.flash)
  ∧ (∀ (s : State), s.board.vin = true →
    ∃ u, exec .vinFall s = .next u ∧ u.board.vin = false ∧ u.board.pgood = false ∧ u.board.bootStage = 0 ∧ u.jobs = []
      ∧ u.hbm = State.reset.hbm ∧ u.flash = s.flash ∧ u.board.lastTrip = if s.board.aux then s.board.lastTrip else 0)
  ∧ (∀ (s : State), s.board.aux = false →
    ∃ u, exec .auxPowerApplied s = .next u ∧ u.board.aux = true ∧ u.jobs = s.jobs ∧ u.hbm = s.hbm
      ∧ u.board.bootStage = s.board.bootStage)
  ∧ (∀ (s : State),
    ∃ u, exec .auxPowerRemoved s = .next u ∧ u.board.aux = false ∧ u.jobs = s.jobs ∧ u.hbm = s.hbm
      ∧ u.board.lastTrip = if s.board.vin then s.board.lastTrip else 0)
  ∧ (∀ (s : State), s.board.resetLow = false → s.board.vin = true →
    ∃ u, exec .modResetNAssert s = .next u ∧ u.board.resetLow = true ∧ u.jobs = [] ∧ u.hbm = State.reset.hbm
      ∧ u.flash = s.flash ∧ u.board.bootStage = if s.board.tripped then 6 else 1)
  ∧ (∀ (s : State) (sa : Fin 8) (b : BootIn) (first x : Image), s.board.resetLow = true → s.board.vin = true →
    s.flash.failedBoots < 3 → b.pufOk = true → s.flash.firstStage = some first → hubMemoryBad b.selfTest = false →
    sigsOk s.flash.owner.sigs = true → s.flash.configStands s.flash.config = true →
    s.flash.inSlot s.flash.chosen = some x → x.stands false = true → s.flash.config.minFw ≤ x.manifest.version →
    b.reachesReady = true →
    ∃ u, exec (.modResetNRelease true sa b) s = .next u ∧ u.ready = true ∧ u.plan = s.flash.config.parts
      ∧ u.planLocked = true ∧ u.fw.running = some x ∧ u.flash.failedBoots = 0 ∧ u.tb.time = b.readyTime % 2 ^ 64
      ∧ u.jobs = [] ∧ u.cfg = s.flash.config.modCfg ∧ u.hbm.trained = true ∧ u.fenced = fencedBy b.selfTest)
  ∧ (∀ (s : State) (sa : Fin 8) (b : BootIn), s.board.resetLow = true → s.board.vin = true →
    ∃ u, exec (.modResetNRelease false sa b) s = .next u ∧ u.board.bootStage = 5 ∧ u.fw.recovery = true ∧ u.jobs = []
      ∧ u.hbm.trained = false ∧ u.flash = s.flash)
  ∧ (∀ (s : State) (b : BootIn), s.board.bootStage = 3 → 2 ≤ s.flash.failedBoots →
    ∃ u, exec (.bootWatchdogExpiry b) s = .next u ∧ u.board.bootStage = 5
      ∧ u.flash = { s.flash with failedBoots := s.flash.failedBoots + 1 } ∧ u.jobs = [])
  ∧ (∀ (s : State) (cause : TripCause), s.board.vin = true → s.board.pgood = true →
    ∃ u, exec (.trip cause) s = .next u ∧ u.board.tripped = true ∧ u.board.pgood = false ∧ u.board.thermTripLow = true
      ∧ u.board.lastTrip = tripCode cause ∧ u.board.bootStage = 6 ∧ u.jobs = [] ∧ u.hbm = State.reset.hbm
      ∧ u.flash = { s.flash with trips := satInc s.flash.trips })

/-! ## The sideband -/

/-- The test access port (R434): BYPASS shifts the bit it held, IDCODE its code, SAMPLE/PRELOAD what the cells captured; EXTEST,
CLAMP and HIGHZ act only while MOD_RESET_N is low, and as BYPASS otherwise; the module runs on beside all of them. -/
def Obligations.TapRules : Prop :=
  (∀ (s : State), exec .tapReset s = .next { s with board := { s.board with tap := { s.board.tap with ir := .reset } } })
  ∧ (∀ (s : State) (tdi : Bool),
    ∃ u, exec (.tapBypass tdi) s = .next u ∧ u.out = s.out ++ [.tdo [s.board.tap.bypassBit]]
      ∧ u.board.tap = { s.board.tap with ir := .bypass, bypassBit := tdi } ∧ { u with board := s.board, out := s.out } = s)
  ∧ (∀ (s : State),
    ∃ u bits, exec .tapIdcode s = .next u ∧ u.out = s.out ++ [.tdo bits] ∧ bits.length = 32
      ∧ sumN (bits.zipIdx.map (fun b => if b.1 then 2 ^ b.2 else 0)) = 0x15B7354B ∧ u.board.tap.ir = .idcode
      ∧ { u with board := s.board, out := s.out } = s)
  ∧ (∀ (s : State) (captured loaded : List Bool),
    ∃ u, exec (.tapSamplePreload captured loaded) s = .next u ∧ u.out = s.out ++ [.tdo captured]
      ∧ u.board.tap = { s.board.tap with ir := .sample, captured := captured, loaded := loaded }
      ∧ { u with board := s.board, out := s.out } = s)
  ∧ (∀ (s : State) (x : Instr × TapIr), x ∈ [(Instr.tapExtest, TapIr.extest), (.tapClamp, .clamp), (.tapHighz, .highz)] →
    exec x.1 s = .next { s with board := { s.board with
      tap := { s.board.tap with ir := if s.board.resetLow then x.2 else .bypass } } })

/-- The I3C targets, the status target's writes and MCTP (R283, R318, R430, R431, R433): a target takes a dynamic address
once, by its static address or in turn; a write of 0xA5 to COMMIT commits the coordinates; one of SEED stages it; without a
supply the target takes nothing; an endpoint ID that was set reads back. That a target keeps its first address, and the free
words of a reply, are the model's choices (notes/assumptions/55.md, 56.md); fields that a write triggers act within it
(54.md). -/
def Obligations.SidebandRules : Prop :=
  (∀ (s : State) (static dyn : Nat), s.board.statusOn = true → s.board.i3cStatus = none →
    exec (.i3cSetdasa .status static dyn) s
      = .next (if static = 0x30 + s.board.sa.val then { s with board := { s.board with i3cStatus := some dyn } } else s))
  ∧ (∀ (s : State) (dyn : Nat), s.board.mctpOn = true → s.board.i3cMctp = none →
    exec (.i3cEntdaa .mctp dyn) s = .next { s with board := { s.board with i3cMctp := some dyn } })
  ∧ (∀ (s : State), s.board.statusOn = true → s.powerAnswers = true → coordValid s.coord.staged = true →
    s.coord.staged &&& BitVec.ofNat 256 coordMask = s.coord.staged → s.jobs = [] →
    ∃ u, exec (.statusTargetWrite 0x120 [0xA5]) s = .next u ∧ u.coord.live = s.coord.staged ∧ u.coord.status = 1
      ∧ u.board.statusOffset = 0x121 ∧ u.tb = s.tb ∧ u.power = s.power ∧ u.hbm = s.hbm)
  ∧ (∀ (s : State) (data : Bytes), s.board.statusOn = true → s.powerAnswers = true → data.length = 8 →
    ∃ u, exec (.statusTargetWrite 0x208 data) s = .next u ∧ u.tb = { s.tb with seed := BitVec.ofNat 64 (leNat data) }
      ∧ u.coord = s.coord ∧ u.power = s.power ∧ u.hbm = s.hbm ∧ u.jobs = s.jobs)
  ∧ (∀ (s : State) (off : Nat) (data : Bytes), s.board.statusOn = false → exec (.statusTargetWrite off data) s = .next s)
  ∧ (∀ (s : State) (e : Nat), s.board.mctpOn = true → e < 256 →
    ∃ u v rest, exec (.mctpMessage (.setEndpointId e)) s = .next u ∧ u.board.eid = e
      ∧ exec (.mctpMessage .getEndpointId) u = .next v ∧ v.out = u.out ++ [.mctpReply (rest ++ leBytes 1 e)]
      ∧ u.jobs = s.jobs ∧ u.hbm = s.hbm)

/-- Recovery mode (R397-R399): the beacon carries the boot report; an image that stands goes into the slot that was not
current and becomes current, a configuration block, an owner record and a first-stage image replace theirs; an image that
fails a check changes nothing and is answered 0x8701; RESTART zeroes the failed-boot count and boots with cause 2. The
sender's beacon period and the checks of a first-stage image are the model's readings (notes/assumptions/57.md, 59.md). -/
def Obligations.RecoveryRules : Prop :=
  (∀ (s : State) (t : Nat), s.tb.time = t → s.recovers = true → s.net.host[0].up = true →
    exec (.recoveryBeacon t) s = .next (s.emit (.beacon s.report.bytes)))
  ∧ (∀ (s : State) (serial : Nat) (man im : Bytes) (sigs : Sigs) (m : Manifest), s.recovers = true → s.forMe serial = true →
    m = manifestOf man sigs →
    ∃ u, exec (.recoveryImage serial man im sigs) s = .next u
      ∧ (if sigsOk sigs = true ∧ manifestFormOk man = true ∧ m.full = true ∧ m.firstStage = false
            ∧ s.recoveryMinFw ≤ m.version ∧ im.length = m.targetBytes ∧ Config.sha384 im = m.targetDigest
            ∧ headerAgrees m im = true
         then u.flash.current = some ⟨m, im⟩ ∧ u.flash.other = s.flash.current ∧ u.flash.slotB = !s.flash.slotB
            ∧ u.fw.staged = false ∧ u.out = s.out ++ [.recoveryReply 6 0]
         else u = s.emit (.recoveryReply 7 0x8701))
      ∧ u.flash.identity = s.flash.identity ∧ u.board = s.board)
  ∧ (∀ (s : State) (serial n : Nat) (block : Bytes) (sigs : Sigs), s.recovers = true → s.forMe serial = true →
    sigsOk s.flash.owner.sigs = true → s.flash.configStands (configOf block n sigs) = true →
    ∃ u, exec (.recoveryConfig serial block n sigs) s = .next u ∧ u.flash = { s.flash with config := configOf block n sigs }
      ∧ u.out = s.out ++ [.recoveryReply 6 0] ∧ u.board = s.board)
  ∧ (∀ (s : State) (serial n : Nat) (digest : BitVec 384) (sigs : Sigs), s.recovers = true → s.forMe serial = true →
    sigsOk sigs = true → s.flash.rootOk = true →
    ∃ u, exec (.recoveryOwner serial n digest sigs) s = .next u ∧ u.flash = { s.flash with owner := ⟨n, digest, sigs⟩ }
      ∧ u.out = s.out ++ [.recoveryReply 6 0] ∧ u.board = s.board)
  ∧ (∀ (s : State) (serial : Nat) (man im : Bytes) (sigs : Sigs), s.recovers = true → s.forMe serial = true →
    sigsOk sigs = true → s.flash.rootOk = true → manifestFormOk man = true → (manifestOf man sigs).firstStage = true →
    im.length = (manifestOf man sigs).targetBytes → Config.sha384 im = (manifestOf man sigs).targetDigest →
    ∃ u, exec (.recoveryFirst serial man im sigs) s = .next u
      ∧ u.flash = { s.flash with firstA := ⟨manifestOf man sigs, im⟩, firstB := ⟨manifestOf man sigs, im⟩ }
      ∧ u.out = s.out ++ [.recoveryReply 6 0] ∧ u.board = s.board)
  ∧ (∀ (s : State) (serial : Nat) (sa : Fin 8) (b : BootIn), s.recovers = true → s.forMe serial = true →
    ∃ u, exec (.recoveryRestart serial false sa b) s = .next u ∧ u.board.bootStage = 5 ∧ u.report.cause = 2
      ∧ u.flash = { s.flash with failedBoots := 0 } ∧ u.jobs = [])

/-! ## Invariants -/

/-- The state after reset: memory in canonical form, nothing booted, nothing waiting, MOD_RESET_N low and TIME at 0. The unit
this state is, as manufactured, is the model's choice (notes/assumptions/1.md). -/
def Obligations.ResetState : Prop :=
  State.reset.memoryWf ∧ State.reset.pending = [] ∧ State.reset.jobs = [] ∧ State.reset.now = 0 ∧ State.reset.ready = false
    ∧ State.reset.board.resetLow = true ∧ State.reset.hbm.trained = false ∧ State.reset.tb.state = .unseeded

/-- Every step keeps memory in its canonical form, in HBM and in every control window. -/
def Obligations.MemoryStaysCanonical : Prop :=
  ∀ s t : State, s.memoryWf → step s = .next t → t.memoryWf

/-- The protection plan is locked: only a boot, or the loss of a supply or a reset before one, changes it (R335). -/
def Obligations.PlanStaysLocked : Prop :=
  ∀ (i : Instr) (s t : State), bootRow i = false → exec i s = .next t → t.plan = s.plan ∧ t.planLocked = s.planLocked

/-- Every step takes one command off the front of the queue and puts none in; what manufacture wrote into flash stays for
good (R376, R377). The queue of commands is the model's own (notes/assumptions/76.md). -/
def Obligations.QueueMovesOn : Prop :=
  ∀ s t : State, step s = .next t → t.pending = s.pending.tail ∧ t.flash.identity = s.flash.identity

/-- TIME never goes back between two boots (R320): whatever the command, and on an idle tick. The bounds 2^63, on TIME
and on the instant a MARKER carries, keep TIME from wrapping; the rows that carry an instant move it by the model's choice
(notes/assumptions/2.md, 3.md). -/
def Obligations.TimeNeverGoesBack : Prop :=
  (∀ (i : Instr) (s t : State), bootRow i = false → s.tb.time < 2 ^ 63 → (∀ n, i = .marker n → n < 2 ^ 63) →
    exec i s = .next t → s.tb.time ≤ t.tb.time)
  ∧ (∀ s t : State, s.pending = [] → s.tb.time < 2 ^ 63 → step s = .next t → s.tb.time ≤ t.tb.time)
end

