-- ==== Sys2Proof/Laws/State.lean ====
section
/-! SUPPORT. What each update of the state leaves alone: one lemma a field. -/
namespace Sys2Proof.Machine

variable (s : State)

/-! ## `advance` -/

@[simp] theorem advance_flash (t : Nat) : (advance t s).flash = s.flash := rfl
@[simp] theorem advance_plan (t : Nat) : (advance t s).plan = s.plan := rfl
@[simp] theorem advance_planLocked (t : Nat) : (advance t s).planLocked = s.planLocked := rfl
@[simp] theorem advance_board (t : Nat) : (advance t s).board = s.board := rfl
@[simp] theorem advance_coord (t : Nat) : (advance t s).coord = s.coord := rfl
@[simp] theorem advance_power (t : Nat) : (advance t s).power = s.power := rfl
@[simp] theorem advance_fw (t : Nat) : (advance t s).fw = s.fw := rfl
@[simp] theorem advance_report (t : Nat) : (advance t s).report = s.report := rfl
@[simp] theorem advance_cfg (t : Nat) : (advance t s).cfg = s.cfg := rfl
@[simp] theorem advance_parts (t : Nat) : (advance t s).parts = s.parts := rfl
@[simp] theorem advance_graphs (t : Nat) : (advance t s).graphs = s.graphs := rfl
@[simp] theorem advance_nextGref (t : Nat) : (advance t s).nextGref = s.nextGref := rfl
@[simp] theorem advance_blocks (t : Nat) : (advance t s).blocks = s.blocks := rfl
@[simp] theorem advance_jobs (t : Nat) : (advance t s).jobs = s.jobs := rfl
@[simp] theorem advance_active (t : Nat) : (advance t s).active = s.active := rfl
@[simp] theorem advance_cmds (t : Nat) : (advance t s).cmds = s.cmds := rfl
@[simp] theorem advance_shipsOut (t : Nat) : (advance t s).shipsOut = s.shipsOut := rfl
@[simp] theorem advance_shipsIn (t : Nat) : (advance t s).shipsIn = s.shipsIn := rfl
@[simp] theorem advance_cells (t : Nat) : (advance t s).cells = s.cells := rfl
@[simp] theorem advance_fenced (t : Nat) : (advance t s).fenced = s.fenced := rfl
@[simp] theorem advance_fencedDma (t : Nat) : (advance t s).fencedDma = s.fencedDma := rfl
@[simp] theorem advance_haltedDma (t : Nat) : (advance t s).haltedDma = s.haltedDma := rfl
@[simp] theorem advance_contexts (t : Nat) : (advance t s).contexts = s.contexts := rfl
@[simp] theorem advance_waitingReds (t : Nat) : (advance t s).waitingReds = s.waitingReds := rfl
@[simp] theorem advance_moduleSums (t : Nat) : (advance t s).moduleSums = s.moduleSums := rfl
@[simp] theorem advance_hbm (t : Nat) : (advance t s).hbm = s.hbm := rfl
@[simp] theorem advance_net (t : Nat) : (advance t s).net = s.net := rfl
@[simp] theorem advance_counters (t : Nat) : (advance t s).counters = s.counters := rfl
@[simp] theorem advance_draws (t : Nat) : (advance t s).draws = s.draws := rfl
@[simp] theorem advance_out (t : Nat) : (advance t s).out = s.out := rfl
@[simp] theorem advance_pending (t : Nat) : (advance t s).pending = s.pending := rfl

/-! ## `tick` -/

@[simp] theorem tick_flash : (tick s).flash = s.flash := rfl
@[simp] theorem tick_plan : (tick s).plan = s.plan := rfl
@[simp] theorem tick_planLocked : (tick s).planLocked = s.planLocked := rfl
@[simp] theorem tick_board : (tick s).board = s.board := rfl
@[simp] theorem tick_coord : (tick s).coord = s.coord := rfl
@[simp] theorem tick_power : (tick s).power = s.power := rfl
@[simp] theorem tick_fw : (tick s).fw = s.fw := rfl
@[simp] theorem tick_report : (tick s).report = s.report := rfl
@[simp] theorem tick_cfg : (tick s).cfg = s.cfg := rfl
@[simp] theorem tick_parts : (tick s).parts = s.parts := rfl
@[simp] theorem tick_graphs : (tick s).graphs = s.graphs := rfl
@[simp] theorem tick_nextGref : (tick s).nextGref = s.nextGref := rfl
@[simp] theorem tick_blocks : (tick s).blocks = s.blocks := rfl
@[simp] theorem tick_jobs : (tick s).jobs = s.jobs := rfl
@[simp] theorem tick_active : (tick s).active = s.active := rfl
@[simp] theorem tick_cmds : (tick s).cmds = s.cmds := rfl
@[simp] theorem tick_shipsOut : (tick s).shipsOut = s.shipsOut := rfl
@[simp] theorem tick_shipsIn : (tick s).shipsIn = s.shipsIn := rfl
@[simp] theorem tick_cells : (tick s).cells = s.cells := rfl
@[simp] theorem tick_fenced : (tick s).fenced = s.fenced := rfl
@[simp] theorem tick_fencedDma : (tick s).fencedDma = s.fencedDma := rfl
@[simp] theorem tick_haltedDma : (tick s).haltedDma = s.haltedDma := rfl
@[simp] theorem tick_contexts : (tick s).contexts = s.contexts := rfl
@[simp] theorem tick_waitingReds : (tick s).waitingReds = s.waitingReds := rfl
@[simp] theorem tick_moduleSums : (tick s).moduleSums = s.moduleSums := rfl
@[simp] theorem tick_hbm : (tick s).hbm = s.hbm := rfl
@[simp] theorem tick_net : (tick s).net = s.net := rfl
@[simp] theorem tick_counters : (tick s).counters = s.counters := rfl
@[simp] theorem tick_draws : (tick s).draws = s.draws := rfl
@[simp] theorem tick_out : (tick s).out = s.out := rfl
@[simp] theorem tick_pending : (tick s).pending = s.pending := rfl

/-! ## `updPart` -/

@[simp] theorem State.updPart_flash (p : PartId) (f : Part → Part) : (s.updPart p f).flash = s.flash := rfl
@[simp] theorem State.updPart_plan (p : PartId) (f : Part → Part) : (s.updPart p f).plan = s.plan := rfl
@[simp] theorem State.updPart_planLocked (p : PartId) (f : Part → Part) : (s.updPart p f).planLocked = s.planLocked := rfl
@[simp] theorem State.updPart_board (p : PartId) (f : Part → Part) : (s.updPart p f).board = s.board := rfl
@[simp] theorem State.updPart_tb (p : PartId) (f : Part → Part) : (s.updPart p f).tb = s.tb := rfl
@[simp] theorem State.updPart_coord (p : PartId) (f : Part → Part) : (s.updPart p f).coord = s.coord := rfl
@[simp] theorem State.updPart_power (p : PartId) (f : Part → Part) : (s.updPart p f).power = s.power := rfl
@[simp] theorem State.updPart_fw (p : PartId) (f : Part → Part) : (s.updPart p f).fw = s.fw := rfl
@[simp] theorem State.updPart_report (p : PartId) (f : Part → Part) : (s.updPart p f).report = s.report := rfl
@[simp] theorem State.updPart_cfg (p : PartId) (f : Part → Part) : (s.updPart p f).cfg = s.cfg := rfl
@[simp] theorem State.updPart_graphs (p : PartId) (f : Part → Part) : (s.updPart p f).graphs = s.graphs := rfl
@[simp] theorem State.updPart_nextGref (p : PartId) (f : Part → Part) : (s.updPart p f).nextGref = s.nextGref := rfl
@[simp] theorem State.updPart_blocks (p : PartId) (f : Part → Part) : (s.updPart p f).blocks = s.blocks := rfl
@[simp] theorem State.updPart_jobs (p : PartId) (f : Part → Part) : (s.updPart p f).jobs = s.jobs := rfl
@[simp] theorem State.updPart_active (p : PartId) (f : Part → Part) : (s.updPart p f).active = s.active := rfl
@[simp] theorem State.updPart_cmds (p : PartId) (f : Part → Part) : (s.updPart p f).cmds = s.cmds := rfl
@[simp] theorem State.updPart_shipsOut (p : PartId) (f : Part → Part) : (s.updPart p f).shipsOut = s.shipsOut := rfl
@[simp] theorem State.updPart_shipsIn (p : PartId) (f : Part → Part) : (s.updPart p f).shipsIn = s.shipsIn := rfl
@[simp] theorem State.updPart_cells (p : PartId) (f : Part → Part) : (s.updPart p f).cells = s.cells := rfl
@[simp] theorem State.updPart_fenced (p : PartId) (f : Part → Part) : (s.updPart p f).fenced = s.fenced := rfl
@[simp] theorem State.updPart_fencedDma (p : PartId) (f : Part → Part) : (s.updPart p f).fencedDma = s.fencedDma := rfl
@[simp] theorem State.updPart_haltedDma (p : PartId) (f : Part → Part) : (s.updPart p f).haltedDma = s.haltedDma := rfl
@[simp] theorem State.updPart_contexts (p : PartId) (f : Part → Part) : (s.updPart p f).contexts = s.contexts := rfl
@[simp] theorem State.updPart_waitingReds (p : PartId) (f : Part → Part) : (s.updPart p f).waitingReds = s.waitingReds := rfl
@[simp] theorem State.updPart_moduleSums (p : PartId) (f : Part → Part) : (s.updPart p f).moduleSums = s.moduleSums := rfl
@[simp] theorem State.updPart_hbm (p : PartId) (f : Part → Part) : (s.updPart p f).hbm = s.hbm := rfl
@[simp] theorem State.updPart_net (p : PartId) (f : Part → Part) : (s.updPart p f).net = s.net := rfl
@[simp] theorem State.updPart_counters (p : PartId) (f : Part → Part) : (s.updPart p f).counters = s.counters := rfl
@[simp] theorem State.updPart_draws (p : PartId) (f : Part → Part) : (s.updPart p f).draws = s.draws := rfl
@[simp] theorem State.updPart_out (p : PartId) (f : Part → Part) : (s.updPart p f).out = s.out := rfl
@[simp] theorem State.updPart_pending (p : PartId) (f : Part → Part) : (s.updPart p f).pending = s.pending := rfl

/-! ## `updBox` -/

@[simp] theorem State.updBox_flash (p : PartId) (m : BoxId) (f : Box → Box) : (s.updBox p m f).flash = s.flash := rfl
@[simp] theorem State.updBox_plan (p : PartId) (m : BoxId) (f : Box → Box) : (s.updBox p m f).plan = s.plan := rfl
@[simp] theorem State.updBox_planLocked (p : PartId) (m : BoxId) (f : Box → Box) : (s.updBox p m f).planLocked = s.planLocked := rfl
@[simp] theorem State.updBox_board (p : PartId) (m : BoxId) (f : Box → Box) : (s.updBox p m f).board = s.board := rfl
@[simp] theorem State.updBox_tb (p : PartId) (m : BoxId) (f : Box → Box) : (s.updBox p m f).tb = s.tb := rfl
@[simp] theorem State.updBox_coord (p : PartId) (m : BoxId) (f : Box → Box) : (s.updBox p m f).coord = s.coord := rfl
@[simp] theorem State.updBox_power (p : PartId) (m : BoxId) (f : Box → Box) : (s.updBox p m f).power = s.power := rfl
@[simp] theorem State.updBox_fw (p : PartId) (m : BoxId) (f : Box → Box) : (s.updBox p m f).fw = s.fw := rfl
@[simp] theorem State.updBox_report (p : PartId) (m : BoxId) (f : Box → Box) : (s.updBox p m f).report = s.report := rfl
@[simp] theorem State.updBox_cfg (p : PartId) (m : BoxId) (f : Box → Box) : (s.updBox p m f).cfg = s.cfg := rfl
@[simp] theorem State.updBox_graphs (p : PartId) (m : BoxId) (f : Box → Box) : (s.updBox p m f).graphs = s.graphs := rfl
@[simp] theorem State.updBox_nextGref (p : PartId) (m : BoxId) (f : Box → Box) : (s.updBox p m f).nextGref = s.nextGref := rfl
@[simp] theorem State.updBox_blocks (p : PartId) (m : BoxId) (f : Box → Box) : (s.updBox p m f).blocks = s.blocks := rfl
@[simp] theorem State.updBox_jobs (p : PartId) (m : BoxId) (f : Box → Box) : (s.updBox p m f).jobs = s.jobs := rfl
@[simp] theorem State.updBox_active (p : PartId) (m : BoxId) (f : Box → Box) : (s.updBox p m f).active = s.active := rfl
@[simp] theorem State.updBox_cmds (p : PartId) (m : BoxId) (f : Box → Box) : (s.updBox p m f).cmds = s.cmds := rfl
@[simp] theorem State.updBox_shipsOut (p : PartId) (m : BoxId) (f : Box → Box) : (s.updBox p m f).shipsOut = s.shipsOut := rfl
@[simp] theorem State.updBox_shipsIn (p : PartId) (m : BoxId) (f : Box → Box) : (s.updBox p m f).shipsIn = s.shipsIn := rfl
@[simp] theorem State.updBox_cells (p : PartId) (m : BoxId) (f : Box → Box) : (s.updBox p m f).cells = s.cells := rfl
@[simp] theorem State.updBox_fenced (p : PartId) (m : BoxId) (f : Box → Box) : (s.updBox p m f).fenced = s.fenced := rfl
@[simp] theorem State.updBox_fencedDma (p : PartId) (m : BoxId) (f : Box → Box) : (s.updBox p m f).fencedDma = s.fencedDma := rfl
@[simp] theorem State.updBox_haltedDma (p : PartId) (m : BoxId) (f : Box → Box) : (s.updBox p m f).haltedDma = s.haltedDma := rfl
@[simp] theorem State.updBox_contexts (p : PartId) (m : BoxId) (f : Box → Box) : (s.updBox p m f).contexts = s.contexts := rfl
@[simp] theorem State.updBox_waitingReds (p : PartId) (m : BoxId) (f : Box → Box) : (s.updBox p m f).waitingReds = s.waitingReds := rfl
@[simp] theorem State.updBox_moduleSums (p : PartId) (m : BoxId) (f : Box → Box) : (s.updBox p m f).moduleSums = s.moduleSums := rfl
@[simp] theorem State.updBox_hbm (p : PartId) (m : BoxId) (f : Box → Box) : (s.updBox p m f).hbm = s.hbm := rfl
@[simp] theorem State.updBox_net (p : PartId) (m : BoxId) (f : Box → Box) : (s.updBox p m f).net = s.net := rfl
@[simp] theorem State.updBox_counters (p : PartId) (m : BoxId) (f : Box → Box) : (s.updBox p m f).counters = s.counters := rfl
@[simp] theorem State.updBox_draws (p : PartId) (m : BoxId) (f : Box → Box) : (s.updBox p m f).draws = s.draws := rfl
@[simp] theorem State.updBox_out (p : PartId) (m : BoxId) (f : Box → Box) : (s.updBox p m f).out = s.out := rfl
@[simp] theorem State.updBox_pending (p : PartId) (m : BoxId) (f : Box → Box) : (s.updBox p m f).pending = s.pending := rfl

/-! ## `ctrlWrite` -/

@[simp] theorem State.ctrlWrite_flash (p : PartId) (a : Nat) (bs : Bytes) : (s.ctrlWrite p a bs).flash = s.flash := rfl
@[simp] theorem State.ctrlWrite_plan (p : PartId) (a : Nat) (bs : Bytes) : (s.ctrlWrite p a bs).plan = s.plan := rfl
@[simp] theorem State.ctrlWrite_planLocked (p : PartId) (a : Nat) (bs : Bytes) : (s.ctrlWrite p a bs).planLocked = s.planLocked := rfl
@[simp] theorem State.ctrlWrite_board (p : PartId) (a : Nat) (bs : Bytes) : (s.ctrlWrite p a bs).board = s.board := rfl
@[simp] theorem State.ctrlWrite_tb (p : PartId) (a : Nat) (bs : Bytes) : (s.ctrlWrite p a bs).tb = s.tb := rfl
@[simp] theorem State.ctrlWrite_coord (p : PartId) (a : Nat) (bs : Bytes) : (s.ctrlWrite p a bs).coord = s.coord := rfl
@[simp] theorem State.ctrlWrite_power (p : PartId) (a : Nat) (bs : Bytes) : (s.ctrlWrite p a bs).power = s.power := rfl
@[simp] theorem State.ctrlWrite_fw (p : PartId) (a : Nat) (bs : Bytes) : (s.ctrlWrite p a bs).fw = s.fw := rfl
@[simp] theorem State.ctrlWrite_report (p : PartId) (a : Nat) (bs : Bytes) : (s.ctrlWrite p a bs).report = s.report := rfl
@[simp] theorem State.ctrlWrite_cfg (p : PartId) (a : Nat) (bs : Bytes) : (s.ctrlWrite p a bs).cfg = s.cfg := rfl
@[simp] theorem State.ctrlWrite_graphs (p : PartId) (a : Nat) (bs : Bytes) : (s.ctrlWrite p a bs).graphs = s.graphs := rfl
@[simp] theorem State.ctrlWrite_nextGref (p : PartId) (a : Nat) (bs : Bytes) : (s.ctrlWrite p a bs).nextGref = s.nextGref := rfl
@[simp] theorem State.ctrlWrite_blocks (p : PartId) (a : Nat) (bs : Bytes) : (s.ctrlWrite p a bs).blocks = s.blocks := rfl
@[simp] theorem State.ctrlWrite_jobs (p : PartId) (a : Nat) (bs : Bytes) : (s.ctrlWrite p a bs).jobs = s.jobs := rfl
@[simp] theorem State.ctrlWrite_active (p : PartId) (a : Nat) (bs : Bytes) : (s.ctrlWrite p a bs).active = s.active := rfl
@[simp] theorem State.ctrlWrite_cmds (p : PartId) (a : Nat) (bs : Bytes) : (s.ctrlWrite p a bs).cmds = s.cmds := rfl
@[simp] theorem State.ctrlWrite_shipsOut (p : PartId) (a : Nat) (bs : Bytes) : (s.ctrlWrite p a bs).shipsOut = s.shipsOut := rfl
@[simp] theorem State.ctrlWrite_shipsIn (p : PartId) (a : Nat) (bs : Bytes) : (s.ctrlWrite p a bs).shipsIn = s.shipsIn := rfl
@[simp] theorem State.ctrlWrite_cells (p : PartId) (a : Nat) (bs : Bytes) : (s.ctrlWrite p a bs).cells = s.cells := rfl
@[simp] theorem State.ctrlWrite_fenced (p : PartId) (a : Nat) (bs : Bytes) : (s.ctrlWrite p a bs).fenced = s.fenced := rfl
@[simp] theorem State.ctrlWrite_fencedDma (p : PartId) (a : Nat) (bs : Bytes) : (s.ctrlWrite p a bs).fencedDma = s.fencedDma := rfl
@[simp] theorem State.ctrlWrite_haltedDma (p : PartId) (a : Nat) (bs : Bytes) : (s.ctrlWrite p a bs).haltedDma = s.haltedDma := rfl
@[simp] theorem State.ctrlWrite_contexts (p : PartId) (a : Nat) (bs : Bytes) : (s.ctrlWrite p a bs).contexts = s.contexts := rfl
@[simp] theorem State.ctrlWrite_waitingReds (p : PartId) (a : Nat) (bs : Bytes) : (s.ctrlWrite p a bs).waitingReds = s.waitingReds := rfl
@[simp] theorem State.ctrlWrite_moduleSums (p : PartId) (a : Nat) (bs : Bytes) : (s.ctrlWrite p a bs).moduleSums = s.moduleSums := rfl
@[simp] theorem State.ctrlWrite_hbm (p : PartId) (a : Nat) (bs : Bytes) : (s.ctrlWrite p a bs).hbm = s.hbm := rfl
@[simp] theorem State.ctrlWrite_net (p : PartId) (a : Nat) (bs : Bytes) : (s.ctrlWrite p a bs).net = s.net := rfl
@[simp] theorem State.ctrlWrite_counters (p : PartId) (a : Nat) (bs : Bytes) : (s.ctrlWrite p a bs).counters = s.counters := rfl
@[simp] theorem State.ctrlWrite_draws (p : PartId) (a : Nat) (bs : Bytes) : (s.ctrlWrite p a bs).draws = s.draws := rfl
@[simp] theorem State.ctrlWrite_out (p : PartId) (a : Nat) (bs : Bytes) : (s.ctrlWrite p a bs).out = s.out := rfl
@[simp] theorem State.ctrlWrite_pending (p : PartId) (a : Nat) (bs : Bytes) : (s.ctrlWrite p a bs).pending = s.pending := rfl

/-! ## `bulkWrite` -/

@[simp] theorem State.bulkWrite_flash (p : PartId) (a : Nat) (bs : Bytes) : (s.bulkWrite p a bs).flash = s.flash := rfl
@[simp] theorem State.bulkWrite_plan (p : PartId) (a : Nat) (bs : Bytes) : (s.bulkWrite p a bs).plan = s.plan := rfl
@[simp] theorem State.bulkWrite_planLocked (p : PartId) (a : Nat) (bs : Bytes) : (s.bulkWrite p a bs).planLocked = s.planLocked := rfl
@[simp] theorem State.bulkWrite_board (p : PartId) (a : Nat) (bs : Bytes) : (s.bulkWrite p a bs).board = s.board := rfl
@[simp] theorem State.bulkWrite_tb (p : PartId) (a : Nat) (bs : Bytes) : (s.bulkWrite p a bs).tb = s.tb := rfl
@[simp] theorem State.bulkWrite_coord (p : PartId) (a : Nat) (bs : Bytes) : (s.bulkWrite p a bs).coord = s.coord := rfl
@[simp] theorem State.bulkWrite_power (p : PartId) (a : Nat) (bs : Bytes) : (s.bulkWrite p a bs).power = s.power := rfl
@[simp] theorem State.bulkWrite_fw (p : PartId) (a : Nat) (bs : Bytes) : (s.bulkWrite p a bs).fw = s.fw := rfl
@[simp] theorem State.bulkWrite_report (p : PartId) (a : Nat) (bs : Bytes) : (s.bulkWrite p a bs).report = s.report := rfl
@[simp] theorem State.bulkWrite_cfg (p : PartId) (a : Nat) (bs : Bytes) : (s.bulkWrite p a bs).cfg = s.cfg := rfl
@[simp] theorem State.bulkWrite_parts (p : PartId) (a : Nat) (bs : Bytes) : (s.bulkWrite p a bs).parts = s.parts := rfl
@[simp] theorem State.bulkWrite_graphs (p : PartId) (a : Nat) (bs : Bytes) : (s.bulkWrite p a bs).graphs = s.graphs := rfl
@[simp] theorem State.bulkWrite_nextGref (p : PartId) (a : Nat) (bs : Bytes) : (s.bulkWrite p a bs).nextGref = s.nextGref := rfl
@[simp] theorem State.bulkWrite_blocks (p : PartId) (a : Nat) (bs : Bytes) : (s.bulkWrite p a bs).blocks = s.blocks := rfl
@[simp] theorem State.bulkWrite_jobs (p : PartId) (a : Nat) (bs : Bytes) : (s.bulkWrite p a bs).jobs = s.jobs := rfl
@[simp] theorem State.bulkWrite_active (p : PartId) (a : Nat) (bs : Bytes) : (s.bulkWrite p a bs).active = s.active := rfl
@[simp] theorem State.bulkWrite_cmds (p : PartId) (a : Nat) (bs : Bytes) : (s.bulkWrite p a bs).cmds = s.cmds := rfl
@[simp] theorem State.bulkWrite_shipsOut (p : PartId) (a : Nat) (bs : Bytes) : (s.bulkWrite p a bs).shipsOut = s.shipsOut := rfl
@[simp] theorem State.bulkWrite_shipsIn (p : PartId) (a : Nat) (bs : Bytes) : (s.bulkWrite p a bs).shipsIn = s.shipsIn := rfl
@[simp] theorem State.bulkWrite_cells (p : PartId) (a : Nat) (bs : Bytes) : (s.bulkWrite p a bs).cells = s.cells := rfl
@[simp] theorem State.bulkWrite_fenced (p : PartId) (a : Nat) (bs : Bytes) : (s.bulkWrite p a bs).fenced = s.fenced := rfl
@[simp] theorem State.bulkWrite_fencedDma (p : PartId) (a : Nat) (bs : Bytes) : (s.bulkWrite p a bs).fencedDma = s.fencedDma := rfl
@[simp] theorem State.bulkWrite_haltedDma (p : PartId) (a : Nat) (bs : Bytes) : (s.bulkWrite p a bs).haltedDma = s.haltedDma := rfl
@[simp] theorem State.bulkWrite_contexts (p : PartId) (a : Nat) (bs : Bytes) : (s.bulkWrite p a bs).contexts = s.contexts := rfl
@[simp] theorem State.bulkWrite_waitingReds (p : PartId) (a : Nat) (bs : Bytes) : (s.bulkWrite p a bs).waitingReds = s.waitingReds := rfl
@[simp] theorem State.bulkWrite_moduleSums (p : PartId) (a : Nat) (bs : Bytes) : (s.bulkWrite p a bs).moduleSums = s.moduleSums := rfl
@[simp] theorem State.bulkWrite_net (p : PartId) (a : Nat) (bs : Bytes) : (s.bulkWrite p a bs).net = s.net := rfl
@[simp] theorem State.bulkWrite_counters (p : PartId) (a : Nat) (bs : Bytes) : (s.bulkWrite p a bs).counters = s.counters := rfl
@[simp] theorem State.bulkWrite_draws (p : PartId) (a : Nat) (bs : Bytes) : (s.bulkWrite p a bs).draws = s.draws := rfl
@[simp] theorem State.bulkWrite_out (p : PartId) (a : Nat) (bs : Bytes) : (s.bulkWrite p a bs).out = s.out := rfl
@[simp] theorem State.bulkWrite_pending (p : PartId) (a : Nat) (bs : Bytes) : (s.bulkWrite p a bs).pending = s.pending := rfl

/-! ## `emit` -/

@[simp] theorem State.emit_flash (o : Out) : (s.emit o).flash = s.flash := rfl
@[simp] theorem State.emit_plan (o : Out) : (s.emit o).plan = s.plan := rfl
@[simp] theorem State.emit_planLocked (o : Out) : (s.emit o).planLocked = s.planLocked := rfl
@[simp] theorem State.emit_board (o : Out) : (s.emit o).board = s.board := rfl
@[simp] theorem State.emit_tb (o : Out) : (s.emit o).tb = s.tb := rfl
@[simp] theorem State.emit_coord (o : Out) : (s.emit o).coord = s.coord := rfl
@[simp] theorem State.emit_power (o : Out) : (s.emit o).power = s.power := rfl
@[simp] theorem State.emit_fw (o : Out) : (s.emit o).fw = s.fw := rfl
@[simp] theorem State.emit_report (o : Out) : (s.emit o).report = s.report := rfl
@[simp] theorem State.emit_cfg (o : Out) : (s.emit o).cfg = s.cfg := rfl
@[simp] theorem State.emit_parts (o : Out) : (s.emit o).parts = s.parts := rfl
@[simp] theorem State.emit_graphs (o : Out) : (s.emit o).graphs = s.graphs := rfl
@[simp] theorem State.emit_nextGref (o : Out) : (s.emit o).nextGref = s.nextGref := rfl
@[simp] theorem State.emit_blocks (o : Out) : (s.emit o).blocks = s.blocks := rfl
@[simp] theorem State.emit_jobs (o : Out) : (s.emit o).jobs = s.jobs := rfl
@[simp] theorem State.emit_active (o : Out) : (s.emit o).active = s.active := rfl
@[simp] theorem State.emit_cmds (o : Out) : (s.emit o).cmds = s.cmds := rfl
@[simp] theorem State.emit_shipsOut (o : Out) : (s.emit o).shipsOut = s.shipsOut := rfl
@[simp] theorem State.emit_shipsIn (o : Out) : (s.emit o).shipsIn = s.shipsIn := rfl
@[simp] theorem State.emit_cells (o : Out) : (s.emit o).cells = s.cells := rfl
@[simp] theorem State.emit_fenced (o : Out) : (s.emit o).fenced = s.fenced := rfl
@[simp] theorem State.emit_fencedDma (o : Out) : (s.emit o).fencedDma = s.fencedDma := rfl
@[simp] theorem State.emit_haltedDma (o : Out) : (s.emit o).haltedDma = s.haltedDma := rfl
@[simp] theorem State.emit_contexts (o : Out) : (s.emit o).contexts = s.contexts := rfl
@[simp] theorem State.emit_waitingReds (o : Out) : (s.emit o).waitingReds = s.waitingReds := rfl
@[simp] theorem State.emit_moduleSums (o : Out) : (s.emit o).moduleSums = s.moduleSums := rfl
@[simp] theorem State.emit_hbm (o : Out) : (s.emit o).hbm = s.hbm := rfl
@[simp] theorem State.emit_net (o : Out) : (s.emit o).net = s.net := rfl
@[simp] theorem State.emit_counters (o : Out) : (s.emit o).counters = s.counters := rfl
@[simp] theorem State.emit_draws (o : Out) : (s.emit o).draws = s.draws := rfl
@[simp] theorem State.emit_pending (o : Out) : (s.emit o).pending = s.pending := rfl

/-! ## `updQp` -/

@[simp] theorem State.updQp_flash (k : Nat) (f : Qp → Qp) : (s.updQp k f).flash = s.flash := rfl
@[simp] theorem State.updQp_plan (k : Nat) (f : Qp → Qp) : (s.updQp k f).plan = s.plan := rfl
@[simp] theorem State.updQp_planLocked (k : Nat) (f : Qp → Qp) : (s.updQp k f).planLocked = s.planLocked := rfl
@[simp] theorem State.updQp_board (k : Nat) (f : Qp → Qp) : (s.updQp k f).board = s.board := rfl
@[simp] theorem State.updQp_tb (k : Nat) (f : Qp → Qp) : (s.updQp k f).tb = s.tb := rfl
@[simp] theorem State.updQp_coord (k : Nat) (f : Qp → Qp) : (s.updQp k f).coord = s.coord := rfl
@[simp] theorem State.updQp_power (k : Nat) (f : Qp → Qp) : (s.updQp k f).power = s.power := rfl
@[simp] theorem State.updQp_fw (k : Nat) (f : Qp → Qp) : (s.updQp k f).fw = s.fw := rfl
@[simp] theorem State.updQp_report (k : Nat) (f : Qp → Qp) : (s.updQp k f).report = s.report := rfl
@[simp] theorem State.updQp_cfg (k : Nat) (f : Qp → Qp) : (s.updQp k f).cfg = s.cfg := rfl
@[simp] theorem State.updQp_parts (k : Nat) (f : Qp → Qp) : (s.updQp k f).parts = s.parts := rfl
@[simp] theorem State.updQp_graphs (k : Nat) (f : Qp → Qp) : (s.updQp k f).graphs = s.graphs := rfl
@[simp] theorem State.updQp_nextGref (k : Nat) (f : Qp → Qp) : (s.updQp k f).nextGref = s.nextGref := rfl
@[simp] theorem State.updQp_blocks (k : Nat) (f : Qp → Qp) : (s.updQp k f).blocks = s.blocks := rfl
@[simp] theorem State.updQp_jobs (k : Nat) (f : Qp → Qp) : (s.updQp k f).jobs = s.jobs := rfl
@[simp] theorem State.updQp_active (k : Nat) (f : Qp → Qp) : (s.updQp k f).active = s.active := rfl
@[simp] theorem State.updQp_cmds (k : Nat) (f : Qp → Qp) : (s.updQp k f).cmds = s.cmds := rfl
@[simp] theorem State.updQp_shipsOut (k : Nat) (f : Qp → Qp) : (s.updQp k f).shipsOut = s.shipsOut := rfl
@[simp] theorem State.updQp_shipsIn (k : Nat) (f : Qp → Qp) : (s.updQp k f).shipsIn = s.shipsIn := rfl
@[simp] theorem State.updQp_cells (k : Nat) (f : Qp → Qp) : (s.updQp k f).cells = s.cells := rfl
@[simp] theorem State.updQp_fenced (k : Nat) (f : Qp → Qp) : (s.updQp k f).fenced = s.fenced := rfl
@[simp] theorem State.updQp_fencedDma (k : Nat) (f : Qp → Qp) : (s.updQp k f).fencedDma = s.fencedDma := rfl
@[simp] theorem State.updQp_haltedDma (k : Nat) (f : Qp → Qp) : (s.updQp k f).haltedDma = s.haltedDma := rfl
@[simp] theorem State.updQp_contexts (k : Nat) (f : Qp → Qp) : (s.updQp k f).contexts = s.contexts := rfl
@[simp] theorem State.updQp_waitingReds (k : Nat) (f : Qp → Qp) : (s.updQp k f).waitingReds = s.waitingReds := rfl
@[simp] theorem State.updQp_moduleSums (k : Nat) (f : Qp → Qp) : (s.updQp k f).moduleSums = s.moduleSums := rfl
@[simp] theorem State.updQp_hbm (k : Nat) (f : Qp → Qp) : (s.updQp k f).hbm = s.hbm := rfl
@[simp] theorem State.updQp_counters (k : Nat) (f : Qp → Qp) : (s.updQp k f).counters = s.counters := rfl
@[simp] theorem State.updQp_draws (k : Nat) (f : Qp → Qp) : (s.updQp k f).draws = s.draws := rfl
@[simp] theorem State.updQp_out (k : Nat) (f : Qp → Qp) : (s.updQp k f).out = s.out := rfl
@[simp] theorem State.updQp_pending (k : Nat) (f : Qp → Qp) : (s.updQp k f).pending = s.pending := rfl

/-! ## `updJob` -/

@[simp] theorem State.updJob_flash (h : Nat) (f : Job → Job) : (s.updJob h f).flash = s.flash := rfl
@[simp] theorem State.updJob_plan (h : Nat) (f : Job → Job) : (s.updJob h f).plan = s.plan := rfl
@[simp] theorem State.updJob_planLocked (h : Nat) (f : Job → Job) : (s.updJob h f).planLocked = s.planLocked := rfl
@[simp] theorem State.updJob_board (h : Nat) (f : Job → Job) : (s.updJob h f).board = s.board := rfl
@[simp] theorem State.updJob_tb (h : Nat) (f : Job → Job) : (s.updJob h f).tb = s.tb := rfl
@[simp] theorem State.updJob_coord (h : Nat) (f : Job → Job) : (s.updJob h f).coord = s.coord := rfl
@[simp] theorem State.updJob_power (h : Nat) (f : Job → Job) : (s.updJob h f).power = s.power := rfl
@[simp] theorem State.updJob_fw (h : Nat) (f : Job → Job) : (s.updJob h f).fw = s.fw := rfl
@[simp] theorem State.updJob_report (h : Nat) (f : Job → Job) : (s.updJob h f).report = s.report := rfl
@[simp] theorem State.updJob_cfg (h : Nat) (f : Job → Job) : (s.updJob h f).cfg = s.cfg := rfl
@[simp] theorem State.updJob_parts (h : Nat) (f : Job → Job) : (s.updJob h f).parts = s.parts := rfl
@[simp] theorem State.updJob_graphs (h : Nat) (f : Job → Job) : (s.updJob h f).graphs = s.graphs := rfl
@[simp] theorem State.updJob_nextGref (h : Nat) (f : Job → Job) : (s.updJob h f).nextGref = s.nextGref := rfl
@[simp] theorem State.updJob_blocks (h : Nat) (f : Job → Job) : (s.updJob h f).blocks = s.blocks := rfl
@[simp] theorem State.updJob_active (h : Nat) (f : Job → Job) : (s.updJob h f).active = s.active := rfl
@[simp] theorem State.updJob_cmds (h : Nat) (f : Job → Job) : (s.updJob h f).cmds = s.cmds := rfl
@[simp] theorem State.updJob_shipsOut (h : Nat) (f : Job → Job) : (s.updJob h f).shipsOut = s.shipsOut := rfl
@[simp] theorem State.updJob_shipsIn (h : Nat) (f : Job → Job) : (s.updJob h f).shipsIn = s.shipsIn := rfl
@[simp] theorem State.updJob_cells (h : Nat) (f : Job → Job) : (s.updJob h f).cells = s.cells := rfl
@[simp] theorem State.updJob_fenced (h : Nat) (f : Job → Job) : (s.updJob h f).fenced = s.fenced := rfl
@[simp] theorem State.updJob_fencedDma (h : Nat) (f : Job → Job) : (s.updJob h f).fencedDma = s.fencedDma := rfl
@[simp] theorem State.updJob_haltedDma (h : Nat) (f : Job → Job) : (s.updJob h f).haltedDma = s.haltedDma := rfl
@[simp] theorem State.updJob_contexts (h : Nat) (f : Job → Job) : (s.updJob h f).contexts = s.contexts := rfl
@[simp] theorem State.updJob_waitingReds (h : Nat) (f : Job → Job) : (s.updJob h f).waitingReds = s.waitingReds := rfl
@[simp] theorem State.updJob_moduleSums (h : Nat) (f : Job → Job) : (s.updJob h f).moduleSums = s.moduleSums := rfl
@[simp] theorem State.updJob_hbm (h : Nat) (f : Job → Job) : (s.updJob h f).hbm = s.hbm := rfl
@[simp] theorem State.updJob_net (h : Nat) (f : Job → Job) : (s.updJob h f).net = s.net := rfl
@[simp] theorem State.updJob_counters (h : Nat) (f : Job → Job) : (s.updJob h f).counters = s.counters := rfl
@[simp] theorem State.updJob_draws (h : Nat) (f : Job → Job) : (s.updJob h f).draws = s.draws := rfl
@[simp] theorem State.updJob_out (h : Nat) (f : Job → Job) : (s.updJob h f).out = s.out := rfl
@[simp] theorem State.updJob_pending (h : Nat) (f : Job → Job) : (s.updJob h f).pending = s.pending := rfl

/-! ## `updCells` -/

@[simp] theorem State.updCells_flash (p : Cell → Bool) (f : Cell → Cell) : (s.updCells p f).flash = s.flash := rfl
@[simp] theorem State.updCells_plan (p : Cell → Bool) (f : Cell → Cell) : (s.updCells p f).plan = s.plan := rfl
@[simp] theorem State.updCells_planLocked (p : Cell → Bool) (f : Cell → Cell) : (s.updCells p f).planLocked = s.planLocked := rfl
@[simp] theorem State.updCells_board (p : Cell → Bool) (f : Cell → Cell) : (s.updCells p f).board = s.board := rfl
@[simp] theorem State.updCells_tb (p : Cell → Bool) (f : Cell → Cell) : (s.updCells p f).tb = s.tb := rfl
@[simp] theorem State.updCells_coord (p : Cell → Bool) (f : Cell → Cell) : (s.updCells p f).coord = s.coord := rfl
@[simp] theorem State.updCells_power (p : Cell → Bool) (f : Cell → Cell) : (s.updCells p f).power = s.power := rfl
@[simp] theorem State.updCells_fw (p : Cell → Bool) (f : Cell → Cell) : (s.updCells p f).fw = s.fw := rfl
@[simp] theorem State.updCells_report (p : Cell → Bool) (f : Cell → Cell) : (s.updCells p f).report = s.report := rfl
@[simp] theorem State.updCells_cfg (p : Cell → Bool) (f : Cell → Cell) : (s.updCells p f).cfg = s.cfg := rfl
@[simp] theorem State.updCells_parts (p : Cell → Bool) (f : Cell → Cell) : (s.updCells p f).parts = s.parts := rfl
@[simp] theorem State.updCells_graphs (p : Cell → Bool) (f : Cell → Cell) : (s.updCells p f).graphs = s.graphs := rfl
@[simp] theorem State.updCells_nextGref (p : Cell → Bool) (f : Cell → Cell) : (s.updCells p f).nextGref = s.nextGref := rfl
@[simp] theorem State.updCells_blocks (p : Cell → Bool) (f : Cell → Cell) : (s.updCells p f).blocks = s.blocks := rfl
@[simp] theorem State.updCells_jobs (p : Cell → Bool) (f : Cell → Cell) : (s.updCells p f).jobs = s.jobs := rfl
@[simp] theorem State.updCells_active (p : Cell → Bool) (f : Cell → Cell) : (s.updCells p f).active = s.active := rfl
@[simp] theorem State.updCells_cmds (p : Cell → Bool) (f : Cell → Cell) : (s.updCells p f).cmds = s.cmds := rfl
@[simp] theorem State.updCells_shipsOut (p : Cell → Bool) (f : Cell → Cell) : (s.updCells p f).shipsOut = s.shipsOut := rfl
@[simp] theorem State.updCells_shipsIn (p : Cell → Bool) (f : Cell → Cell) : (s.updCells p f).shipsIn = s.shipsIn := rfl
@[simp] theorem State.updCells_fenced (p : Cell → Bool) (f : Cell → Cell) : (s.updCells p f).fenced = s.fenced := rfl
@[simp] theorem State.updCells_fencedDma (p : Cell → Bool) (f : Cell → Cell) : (s.updCells p f).fencedDma = s.fencedDma := rfl
@[simp] theorem State.updCells_haltedDma (p : Cell → Bool) (f : Cell → Cell) : (s.updCells p f).haltedDma = s.haltedDma := rfl
@[simp] theorem State.updCells_contexts (p : Cell → Bool) (f : Cell → Cell) : (s.updCells p f).contexts = s.contexts := rfl
@[simp] theorem State.updCells_waitingReds (p : Cell → Bool) (f : Cell → Cell) : (s.updCells p f).waitingReds = s.waitingReds := rfl
@[simp] theorem State.updCells_moduleSums (p : Cell → Bool) (f : Cell → Cell) : (s.updCells p f).moduleSums = s.moduleSums := rfl
@[simp] theorem State.updCells_hbm (p : Cell → Bool) (f : Cell → Cell) : (s.updCells p f).hbm = s.hbm := rfl
@[simp] theorem State.updCells_net (p : Cell → Bool) (f : Cell → Cell) : (s.updCells p f).net = s.net := rfl
@[simp] theorem State.updCells_counters (p : Cell → Bool) (f : Cell → Cell) : (s.updCells p f).counters = s.counters := rfl
@[simp] theorem State.updCells_draws (p : Cell → Bool) (f : Cell → Cell) : (s.updCells p f).draws = s.draws := rfl
@[simp] theorem State.updCells_out (p : Cell → Bool) (f : Cell → Cell) : (s.updCells p f).out = s.out := rfl
@[simp] theorem State.updCells_pending (p : Cell → Bool) (f : Cell → Cell) : (s.updCells p f).pending = s.pending := rfl

/-! ## `updCell` -/

@[simp] theorem State.updCell_flash (n : CellId) (f : Cell → Cell) : (s.updCell n f).flash = s.flash := rfl
@[simp] theorem State.updCell_plan (n : CellId) (f : Cell → Cell) : (s.updCell n f).plan = s.plan := rfl
@[simp] theorem State.updCell_planLocked (n : CellId) (f : Cell → Cell) : (s.updCell n f).planLocked = s.planLocked := rfl
@[simp] theorem State.updCell_board (n : CellId) (f : Cell → Cell) : (s.updCell n f).board = s.board := rfl
@[simp] theorem State.updCell_tb (n : CellId) (f : Cell → Cell) : (s.updCell n f).tb = s.tb := rfl
@[simp] theorem State.updCell_coord (n : CellId) (f : Cell → Cell) : (s.updCell n f).coord = s.coord := rfl
@[simp] theorem State.updCell_power (n : CellId) (f : Cell → Cell) : (s.updCell n f).power = s.power := rfl
@[simp] theorem State.updCell_fw (n : CellId) (f : Cell → Cell) : (s.updCell n f).fw = s.fw := rfl
@[simp] theorem State.updCell_report (n : CellId) (f : Cell → Cell) : (s.updCell n f).report = s.report := rfl
@[simp] theorem State.updCell_cfg (n : CellId) (f : Cell → Cell) : (s.updCell n f).cfg = s.cfg := rfl
@[simp] theorem State.updCell_parts (n : CellId) (f : Cell → Cell) : (s.updCell n f).parts = s.parts := rfl
@[simp] theorem State.updCell_graphs (n : CellId) (f : Cell → Cell) : (s.updCell n f).graphs = s.graphs := rfl
@[simp] theorem State.updCell_nextGref (n : CellId) (f : Cell → Cell) : (s.updCell n f).nextGref = s.nextGref := rfl
@[simp] theorem State.updCell_blocks (n : CellId) (f : Cell → Cell) : (s.updCell n f).blocks = s.blocks := rfl
@[simp] theorem State.updCell_jobs (n : CellId) (f : Cell → Cell) : (s.updCell n f).jobs = s.jobs := rfl
@[simp] theorem State.updCell_active (n : CellId) (f : Cell → Cell) : (s.updCell n f).active = s.active := rfl
@[simp] theorem State.updCell_cmds (n : CellId) (f : Cell → Cell) : (s.updCell n f).cmds = s.cmds := rfl
@[simp] theorem State.updCell_shipsOut (n : CellId) (f : Cell → Cell) : (s.updCell n f).shipsOut = s.shipsOut := rfl
@[simp] theorem State.updCell_shipsIn (n : CellId) (f : Cell → Cell) : (s.updCell n f).shipsIn = s.shipsIn := rfl
@[simp] theorem State.updCell_fenced (n : CellId) (f : Cell → Cell) : (s.updCell n f).fenced = s.fenced := rfl
@[simp] theorem State.updCell_fencedDma (n : CellId) (f : Cell → Cell) : (s.updCell n f).fencedDma = s.fencedDma := rfl
@[simp] theorem State.updCell_haltedDma (n : CellId) (f : Cell → Cell) : (s.updCell n f).haltedDma = s.haltedDma := rfl
@[simp] theorem State.updCell_contexts (n : CellId) (f : Cell → Cell) : (s.updCell n f).contexts = s.contexts := rfl
@[simp] theorem State.updCell_waitingReds (n : CellId) (f : Cell → Cell) : (s.updCell n f).waitingReds = s.waitingReds := rfl
@[simp] theorem State.updCell_moduleSums (n : CellId) (f : Cell → Cell) : (s.updCell n f).moduleSums = s.moduleSums := rfl
@[simp] theorem State.updCell_hbm (n : CellId) (f : Cell → Cell) : (s.updCell n f).hbm = s.hbm := rfl
@[simp] theorem State.updCell_net (n : CellId) (f : Cell → Cell) : (s.updCell n f).net = s.net := rfl
@[simp] theorem State.updCell_counters (n : CellId) (f : Cell → Cell) : (s.updCell n f).counters = s.counters := rfl
@[simp] theorem State.updCell_draws (n : CellId) (f : Cell → Cell) : (s.updCell n f).draws = s.draws := rfl
@[simp] theorem State.updCell_out (n : CellId) (f : Cell → Cell) : (s.updCell n f).out = s.out := rfl
@[simp] theorem State.updCell_pending (n : CellId) (f : Cell → Cell) : (s.updCell n f).pending = s.pending := rfl

/-! ## `tidyJob` -/

@[simp] theorem State.tidyJob_flash (h : Nat) : (s.tidyJob h).flash = s.flash := rfl
@[simp] theorem State.tidyJob_plan (h : Nat) : (s.tidyJob h).plan = s.plan := rfl
@[simp] theorem State.tidyJob_planLocked (h : Nat) : (s.tidyJob h).planLocked = s.planLocked := rfl
@[simp] theorem State.tidyJob_board (h : Nat) : (s.tidyJob h).board = s.board := rfl
@[simp] theorem State.tidyJob_tb (h : Nat) : (s.tidyJob h).tb = s.tb := rfl
@[simp] theorem State.tidyJob_coord (h : Nat) : (s.tidyJob h).coord = s.coord := rfl
@[simp] theorem State.tidyJob_power (h : Nat) : (s.tidyJob h).power = s.power := rfl
@[simp] theorem State.tidyJob_fw (h : Nat) : (s.tidyJob h).fw = s.fw := rfl
@[simp] theorem State.tidyJob_report (h : Nat) : (s.tidyJob h).report = s.report := rfl
@[simp] theorem State.tidyJob_cfg (h : Nat) : (s.tidyJob h).cfg = s.cfg := rfl
@[simp] theorem State.tidyJob_parts (h : Nat) : (s.tidyJob h).parts = s.parts := rfl
@[simp] theorem State.tidyJob_graphs (h : Nat) : (s.tidyJob h).graphs = s.graphs := rfl
@[simp] theorem State.tidyJob_nextGref (h : Nat) : (s.tidyJob h).nextGref = s.nextGref := rfl
@[simp] theorem State.tidyJob_blocks (h : Nat) : (s.tidyJob h).blocks = s.blocks := rfl
@[simp] theorem State.tidyJob_active (h : Nat) : (s.tidyJob h).active = s.active := rfl
@[simp] theorem State.tidyJob_cmds (h : Nat) : (s.tidyJob h).cmds = s.cmds := rfl
@[simp] theorem State.tidyJob_shipsOut (h : Nat) : (s.tidyJob h).shipsOut = s.shipsOut := rfl
@[simp] theorem State.tidyJob_shipsIn (h : Nat) : (s.tidyJob h).shipsIn = s.shipsIn := rfl
@[simp] theorem State.tidyJob_cells (h : Nat) : (s.tidyJob h).cells = s.cells := rfl
@[simp] theorem State.tidyJob_fenced (h : Nat) : (s.tidyJob h).fenced = s.fenced := rfl
@[simp] theorem State.tidyJob_fencedDma (h : Nat) : (s.tidyJob h).fencedDma = s.fencedDma := rfl
@[simp] theorem State.tidyJob_haltedDma (h : Nat) : (s.tidyJob h).haltedDma = s.haltedDma := rfl
@[simp] theorem State.tidyJob_contexts (h : Nat) : (s.tidyJob h).contexts = s.contexts := rfl
@[simp] theorem State.tidyJob_waitingReds (h : Nat) : (s.tidyJob h).waitingReds = s.waitingReds := rfl
@[simp] theorem State.tidyJob_moduleSums (h : Nat) : (s.tidyJob h).moduleSums = s.moduleSums := rfl
@[simp] theorem State.tidyJob_hbm (h : Nat) : (s.tidyJob h).hbm = s.hbm := rfl
@[simp] theorem State.tidyJob_net (h : Nat) : (s.tidyJob h).net = s.net := rfl
@[simp] theorem State.tidyJob_counters (h : Nat) : (s.tidyJob h).counters = s.counters := rfl
@[simp] theorem State.tidyJob_draws (h : Nat) : (s.tidyJob h).draws = s.draws := rfl
@[simp] theorem State.tidyJob_out (h : Nat) : (s.tidyJob h).out = s.out := rfl
@[simp] theorem State.tidyJob_pending (h : Nat) : (s.tidyJob h).pending = s.pending := rfl

/-! ## `setPower` -/

@[simp] theorem State.setPower_flash (f : Power → Power) : (s.setPower f).flash = s.flash := rfl
@[simp] theorem State.setPower_plan (f : Power → Power) : (s.setPower f).plan = s.plan := rfl
@[simp] theorem State.setPower_planLocked (f : Power → Power) : (s.setPower f).planLocked = s.planLocked := rfl
@[simp] theorem State.setPower_board (f : Power → Power) : (s.setPower f).board = s.board := rfl
@[simp] theorem State.setPower_tb (f : Power → Power) : (s.setPower f).tb = s.tb := rfl
@[simp] theorem State.setPower_coord (f : Power → Power) : (s.setPower f).coord = s.coord := rfl
@[simp] theorem State.setPower_fw (f : Power → Power) : (s.setPower f).fw = s.fw := rfl
@[simp] theorem State.setPower_report (f : Power → Power) : (s.setPower f).report = s.report := rfl
@[simp] theorem State.setPower_cfg (f : Power → Power) : (s.setPower f).cfg = s.cfg := rfl
@[simp] theorem State.setPower_parts (f : Power → Power) : (s.setPower f).parts = s.parts := rfl
@[simp] theorem State.setPower_graphs (f : Power → Power) : (s.setPower f).graphs = s.graphs := rfl
@[simp] theorem State.setPower_nextGref (f : Power → Power) : (s.setPower f).nextGref = s.nextGref := rfl
@[simp] theorem State.setPower_blocks (f : Power → Power) : (s.setPower f).blocks = s.blocks := rfl
@[simp] theorem State.setPower_jobs (f : Power → Power) : (s.setPower f).jobs = s.jobs := rfl
@[simp] theorem State.setPower_active (f : Power → Power) : (s.setPower f).active = s.active := rfl
@[simp] theorem State.setPower_cmds (f : Power → Power) : (s.setPower f).cmds = s.cmds := rfl
@[simp] theorem State.setPower_shipsOut (f : Power → Power) : (s.setPower f).shipsOut = s.shipsOut := rfl
@[simp] theorem State.setPower_shipsIn (f : Power → Power) : (s.setPower f).shipsIn = s.shipsIn := rfl
@[simp] theorem State.setPower_cells (f : Power → Power) : (s.setPower f).cells = s.cells := rfl
@[simp] theorem State.setPower_fenced (f : Power → Power) : (s.setPower f).fenced = s.fenced := rfl
@[simp] theorem State.setPower_fencedDma (f : Power → Power) : (s.setPower f).fencedDma = s.fencedDma := rfl
@[simp] theorem State.setPower_haltedDma (f : Power → Power) : (s.setPower f).haltedDma = s.haltedDma := rfl
@[simp] theorem State.setPower_contexts (f : Power → Power) : (s.setPower f).contexts = s.contexts := rfl
@[simp] theorem State.setPower_waitingReds (f : Power → Power) : (s.setPower f).waitingReds = s.waitingReds := rfl
@[simp] theorem State.setPower_moduleSums (f : Power → Power) : (s.setPower f).moduleSums = s.moduleSums := rfl
@[simp] theorem State.setPower_hbm (f : Power → Power) : (s.setPower f).hbm = s.hbm := rfl
@[simp] theorem State.setPower_net (f : Power → Power) : (s.setPower f).net = s.net := rfl
@[simp] theorem State.setPower_counters (f : Power → Power) : (s.setPower f).counters = s.counters := rfl
@[simp] theorem State.setPower_draws (f : Power → Power) : (s.setPower f).draws = s.draws := rfl
@[simp] theorem State.setPower_out (f : Power → Power) : (s.setPower f).out = s.out := rfl
@[simp] theorem State.setPower_pending (f : Power → Power) : (s.setPower f).pending = s.pending := rfl

/-! ## `setTap` -/

@[simp] theorem State.setTap_flash (f : Tap → Tap) : (s.setTap f).flash = s.flash := rfl
@[simp] theorem State.setTap_plan (f : Tap → Tap) : (s.setTap f).plan = s.plan := rfl
@[simp] theorem State.setTap_planLocked (f : Tap → Tap) : (s.setTap f).planLocked = s.planLocked := rfl
@[simp] theorem State.setTap_tb (f : Tap → Tap) : (s.setTap f).tb = s.tb := rfl
@[simp] theorem State.setTap_coord (f : Tap → Tap) : (s.setTap f).coord = s.coord := rfl
@[simp] theorem State.setTap_power (f : Tap → Tap) : (s.setTap f).power = s.power := rfl
@[simp] theorem State.setTap_fw (f : Tap → Tap) : (s.setTap f).fw = s.fw := rfl
@[simp] theorem State.setTap_report (f : Tap → Tap) : (s.setTap f).report = s.report := rfl
@[simp] theorem State.setTap_cfg (f : Tap → Tap) : (s.setTap f).cfg = s.cfg := rfl
@[simp] theorem State.setTap_parts (f : Tap → Tap) : (s.setTap f).parts = s.parts := rfl
@[simp] theorem State.setTap_graphs (f : Tap → Tap) : (s.setTap f).graphs = s.graphs := rfl
@[simp] theorem State.setTap_nextGref (f : Tap → Tap) : (s.setTap f).nextGref = s.nextGref := rfl
@[simp] theorem State.setTap_blocks (f : Tap → Tap) : (s.setTap f).blocks = s.blocks := rfl
@[simp] theorem State.setTap_jobs (f : Tap → Tap) : (s.setTap f).jobs = s.jobs := rfl
@[simp] theorem State.setTap_active (f : Tap → Tap) : (s.setTap f).active = s.active := rfl
@[simp] theorem State.setTap_cmds (f : Tap → Tap) : (s.setTap f).cmds = s.cmds := rfl
@[simp] theorem State.setTap_shipsOut (f : Tap → Tap) : (s.setTap f).shipsOut = s.shipsOut := rfl
@[simp] theorem State.setTap_shipsIn (f : Tap → Tap) : (s.setTap f).shipsIn = s.shipsIn := rfl
@[simp] theorem State.setTap_cells (f : Tap → Tap) : (s.setTap f).cells = s.cells := rfl
@[simp] theorem State.setTap_fenced (f : Tap → Tap) : (s.setTap f).fenced = s.fenced := rfl
@[simp] theorem State.setTap_fencedDma (f : Tap → Tap) : (s.setTap f).fencedDma = s.fencedDma := rfl
@[simp] theorem State.setTap_haltedDma (f : Tap → Tap) : (s.setTap f).haltedDma = s.haltedDma := rfl
@[simp] theorem State.setTap_contexts (f : Tap → Tap) : (s.setTap f).contexts = s.contexts := rfl
@[simp] theorem State.setTap_waitingReds (f : Tap → Tap) : (s.setTap f).waitingReds = s.waitingReds := rfl
@[simp] theorem State.setTap_moduleSums (f : Tap → Tap) : (s.setTap f).moduleSums = s.moduleSums := rfl
@[simp] theorem State.setTap_hbm (f : Tap → Tap) : (s.setTap f).hbm = s.hbm := rfl
@[simp] theorem State.setTap_net (f : Tap → Tap) : (s.setTap f).net = s.net := rfl
@[simp] theorem State.setTap_counters (f : Tap → Tap) : (s.setTap f).counters = s.counters := rfl
@[simp] theorem State.setTap_draws (f : Tap → Tap) : (s.setTap f).draws = s.draws := rfl
@[simp] theorem State.setTap_out (f : Tap → Tap) : (s.setTap f).out = s.out := rfl
@[simp] theorem State.setTap_pending (f : Tap → Tap) : (s.setTap f).pending = s.pending := rfl

/-! ## `updGen` -/

@[simp] theorem State.updGen_flash (c : Nat) (f : Gen → Gen) : (s.updGen c f).flash = s.flash := rfl
@[simp] theorem State.updGen_plan (c : Nat) (f : Gen → Gen) : (s.updGen c f).plan = s.plan := rfl
@[simp] theorem State.updGen_planLocked (c : Nat) (f : Gen → Gen) : (s.updGen c f).planLocked = s.planLocked := rfl
@[simp] theorem State.updGen_board (c : Nat) (f : Gen → Gen) : (s.updGen c f).board = s.board := rfl
@[simp] theorem State.updGen_tb (c : Nat) (f : Gen → Gen) : (s.updGen c f).tb = s.tb := rfl
@[simp] theorem State.updGen_coord (c : Nat) (f : Gen → Gen) : (s.updGen c f).coord = s.coord := rfl
@[simp] theorem State.updGen_power (c : Nat) (f : Gen → Gen) : (s.updGen c f).power = s.power := rfl
@[simp] theorem State.updGen_fw (c : Nat) (f : Gen → Gen) : (s.updGen c f).fw = s.fw := rfl
@[simp] theorem State.updGen_report (c : Nat) (f : Gen → Gen) : (s.updGen c f).report = s.report := rfl
@[simp] theorem State.updGen_cfg (c : Nat) (f : Gen → Gen) : (s.updGen c f).cfg = s.cfg := rfl
@[simp] theorem State.updGen_parts (c : Nat) (f : Gen → Gen) : (s.updGen c f).parts = s.parts := rfl
@[simp] theorem State.updGen_graphs (c : Nat) (f : Gen → Gen) : (s.updGen c f).graphs = s.graphs := rfl
@[simp] theorem State.updGen_nextGref (c : Nat) (f : Gen → Gen) : (s.updGen c f).nextGref = s.nextGref := rfl
@[simp] theorem State.updGen_blocks (c : Nat) (f : Gen → Gen) : (s.updGen c f).blocks = s.blocks := rfl
@[simp] theorem State.updGen_jobs (c : Nat) (f : Gen → Gen) : (s.updGen c f).jobs = s.jobs := rfl
@[simp] theorem State.updGen_active (c : Nat) (f : Gen → Gen) : (s.updGen c f).active = s.active := rfl
@[simp] theorem State.updGen_cmds (c : Nat) (f : Gen → Gen) : (s.updGen c f).cmds = s.cmds := rfl
@[simp] theorem State.updGen_shipsOut (c : Nat) (f : Gen → Gen) : (s.updGen c f).shipsOut = s.shipsOut := rfl
@[simp] theorem State.updGen_shipsIn (c : Nat) (f : Gen → Gen) : (s.updGen c f).shipsIn = s.shipsIn := rfl
@[simp] theorem State.updGen_cells (c : Nat) (f : Gen → Gen) : (s.updGen c f).cells = s.cells := rfl
@[simp] theorem State.updGen_fenced (c : Nat) (f : Gen → Gen) : (s.updGen c f).fenced = s.fenced := rfl
@[simp] theorem State.updGen_fencedDma (c : Nat) (f : Gen → Gen) : (s.updGen c f).fencedDma = s.fencedDma := rfl
@[simp] theorem State.updGen_haltedDma (c : Nat) (f : Gen → Gen) : (s.updGen c f).haltedDma = s.haltedDma := rfl
@[simp] theorem State.updGen_contexts (c : Nat) (f : Gen → Gen) : (s.updGen c f).contexts = s.contexts := rfl
@[simp] theorem State.updGen_waitingReds (c : Nat) (f : Gen → Gen) : (s.updGen c f).waitingReds = s.waitingReds := rfl
@[simp] theorem State.updGen_moduleSums (c : Nat) (f : Gen → Gen) : (s.updGen c f).moduleSums = s.moduleSums := rfl
@[simp] theorem State.updGen_net (c : Nat) (f : Gen → Gen) : (s.updGen c f).net = s.net := rfl
@[simp] theorem State.updGen_counters (c : Nat) (f : Gen → Gen) : (s.updGen c f).counters = s.counters := rfl
@[simp] theorem State.updGen_draws (c : Nat) (f : Gen → Gen) : (s.updGen c f).draws = s.draws := rfl
@[simp] theorem State.updGen_out (c : Nat) (f : Gen → Gen) : (s.updGen c f).out = s.out := rfl
@[simp] theorem State.updGen_pending (c : Nat) (f : Gen → Gen) : (s.updGen c f).pending = s.pending := rfl

/-! ## `updHost` -/

@[simp] theorem State.updHost_flash (h : HostPort) (f : HPort → HPort) : (s.updHost h f).flash = s.flash := rfl
@[simp] theorem State.updHost_plan (h : HostPort) (f : HPort → HPort) : (s.updHost h f).plan = s.plan := rfl
@[simp] theorem State.updHost_planLocked (h : HostPort) (f : HPort → HPort) : (s.updHost h f).planLocked = s.planLocked := rfl
@[simp] theorem State.updHost_board (h : HostPort) (f : HPort → HPort) : (s.updHost h f).board = s.board := rfl
@[simp] theorem State.updHost_tb (h : HostPort) (f : HPort → HPort) : (s.updHost h f).tb = s.tb := rfl
@[simp] theorem State.updHost_coord (h : HostPort) (f : HPort → HPort) : (s.updHost h f).coord = s.coord := rfl
@[simp] theorem State.updHost_power (h : HostPort) (f : HPort → HPort) : (s.updHost h f).power = s.power := rfl
@[simp] theorem State.updHost_fw (h : HostPort) (f : HPort → HPort) : (s.updHost h f).fw = s.fw := rfl
@[simp] theorem State.updHost_report (h : HostPort) (f : HPort → HPort) : (s.updHost h f).report = s.report := rfl
@[simp] theorem State.updHost_cfg (h : HostPort) (f : HPort → HPort) : (s.updHost h f).cfg = s.cfg := rfl
@[simp] theorem State.updHost_parts (h : HostPort) (f : HPort → HPort) : (s.updHost h f).parts = s.parts := rfl
@[simp] theorem State.updHost_graphs (h : HostPort) (f : HPort → HPort) : (s.updHost h f).graphs = s.graphs := rfl
@[simp] theorem State.updHost_nextGref (h : HostPort) (f : HPort → HPort) : (s.updHost h f).nextGref = s.nextGref := rfl
@[simp] theorem State.updHost_blocks (h : HostPort) (f : HPort → HPort) : (s.updHost h f).blocks = s.blocks := rfl
@[simp] theorem State.updHost_jobs (h : HostPort) (f : HPort → HPort) : (s.updHost h f).jobs = s.jobs := rfl
@[simp] theorem State.updHost_active (h : HostPort) (f : HPort → HPort) : (s.updHost h f).active = s.active := rfl
@[simp] theorem State.updHost_cmds (h : HostPort) (f : HPort → HPort) : (s.updHost h f).cmds = s.cmds := rfl
@[simp] theorem State.updHost_shipsOut (h : HostPort) (f : HPort → HPort) : (s.updHost h f).shipsOut = s.shipsOut := rfl
@[simp] theorem State.updHost_shipsIn (h : HostPort) (f : HPort → HPort) : (s.updHost h f).shipsIn = s.shipsIn := rfl
@[simp] theorem State.updHost_cells (h : HostPort) (f : HPort → HPort) : (s.updHost h f).cells = s.cells := rfl
@[simp] theorem State.updHost_fenced (h : HostPort) (f : HPort → HPort) : (s.updHost h f).fenced = s.fenced := rfl
@[simp] theorem State.updHost_fencedDma (h : HostPort) (f : HPort → HPort) : (s.updHost h f).fencedDma = s.fencedDma := rfl
@[simp] theorem State.updHost_haltedDma (h : HostPort) (f : HPort → HPort) : (s.updHost h f).haltedDma = s.haltedDma := rfl
@[simp] theorem State.updHost_contexts (h : HostPort) (f : HPort → HPort) : (s.updHost h f).contexts = s.contexts := rfl
@[simp] theorem State.updHost_waitingReds (h : HostPort) (f : HPort → HPort) : (s.updHost h f).waitingReds = s.waitingReds := rfl
@[simp] theorem State.updHost_moduleSums (h : HostPort) (f : HPort → HPort) : (s.updHost h f).moduleSums = s.moduleSums := rfl
@[simp] theorem State.updHost_hbm (h : HostPort) (f : HPort → HPort) : (s.updHost h f).hbm = s.hbm := rfl
@[simp] theorem State.updHost_counters (h : HostPort) (f : HPort → HPort) : (s.updHost h f).counters = s.counters := rfl
@[simp] theorem State.updHost_draws (h : HostPort) (f : HPort → HPort) : (s.updHost h f).draws = s.draws := rfl
@[simp] theorem State.updHost_out (h : HostPort) (f : HPort → HPort) : (s.updHost h f).out = s.out := rfl
@[simp] theorem State.updHost_pending (h : HostPort) (f : HPort → HPort) : (s.updHost h f).pending = s.pending := rfl

/-! ## `updFab` -/

@[simp] theorem State.updFab_flash (p : FabPort) (f : FPort → FPort) : (s.updFab p f).flash = s.flash := rfl
@[simp] theorem State.updFab_plan (p : FabPort) (f : FPort → FPort) : (s.updFab p f).plan = s.plan := rfl
@[simp] theorem State.updFab_planLocked (p : FabPort) (f : FPort → FPort) : (s.updFab p f).planLocked = s.planLocked := rfl
@[simp] theorem State.updFab_board (p : FabPort) (f : FPort → FPort) : (s.updFab p f).board = s.board := rfl
@[simp] theorem State.updFab_tb (p : FabPort) (f : FPort → FPort) : (s.updFab p f).tb = s.tb := rfl
@[simp] theorem State.updFab_coord (p : FabPort) (f : FPort → FPort) : (s.updFab p f).coord = s.coord := rfl
@[simp] theorem State.updFab_power (p : FabPort) (f : FPort → FPort) : (s.updFab p f).power = s.power := rfl
@[simp] theorem State.updFab_fw (p : FabPort) (f : FPort → FPort) : (s.updFab p f).fw = s.fw := rfl
@[simp] theorem State.updFab_report (p : FabPort) (f : FPort → FPort) : (s.updFab p f).report = s.report := rfl
@[simp] theorem State.updFab_cfg (p : FabPort) (f : FPort → FPort) : (s.updFab p f).cfg = s.cfg := rfl
@[simp] theorem State.updFab_parts (p : FabPort) (f : FPort → FPort) : (s.updFab p f).parts = s.parts := rfl
@[simp] theorem State.updFab_graphs (p : FabPort) (f : FPort → FPort) : (s.updFab p f).graphs = s.graphs := rfl
@[simp] theorem State.updFab_nextGref (p : FabPort) (f : FPort → FPort) : (s.updFab p f).nextGref = s.nextGref := rfl
@[simp] theorem State.updFab_blocks (p : FabPort) (f : FPort → FPort) : (s.updFab p f).blocks = s.blocks := rfl
@[simp] theorem State.updFab_jobs (p : FabPort) (f : FPort → FPort) : (s.updFab p f).jobs = s.jobs := rfl
@[simp] theorem State.updFab_active (p : FabPort) (f : FPort → FPort) : (s.updFab p f).active = s.active := rfl
@[simp] theorem State.updFab_cmds (p : FabPort) (f : FPort → FPort) : (s.updFab p f).cmds = s.cmds := rfl
@[simp] theorem State.updFab_shipsOut (p : FabPort) (f : FPort → FPort) : (s.updFab p f).shipsOut = s.shipsOut := rfl
@[simp] theorem State.updFab_shipsIn (p : FabPort) (f : FPort → FPort) : (s.updFab p f).shipsIn = s.shipsIn := rfl
@[simp] theorem State.updFab_cells (p : FabPort) (f : FPort → FPort) : (s.updFab p f).cells = s.cells := rfl
@[simp] theorem State.updFab_fenced (p : FabPort) (f : FPort → FPort) : (s.updFab p f).fenced = s.fenced := rfl
@[simp] theorem State.updFab_fencedDma (p : FabPort) (f : FPort → FPort) : (s.updFab p f).fencedDma = s.fencedDma := rfl
@[simp] theorem State.updFab_haltedDma (p : FabPort) (f : FPort → FPort) : (s.updFab p f).haltedDma = s.haltedDma := rfl
@[simp] theorem State.updFab_contexts (p : FabPort) (f : FPort → FPort) : (s.updFab p f).contexts = s.contexts := rfl
@[simp] theorem State.updFab_waitingReds (p : FabPort) (f : FPort → FPort) : (s.updFab p f).waitingReds = s.waitingReds := rfl
@[simp] theorem State.updFab_moduleSums (p : FabPort) (f : FPort → FPort) : (s.updFab p f).moduleSums = s.moduleSums := rfl
@[simp] theorem State.updFab_hbm (p : FabPort) (f : FPort → FPort) : (s.updFab p f).hbm = s.hbm := rfl
@[simp] theorem State.updFab_counters (p : FabPort) (f : FPort → FPort) : (s.updFab p f).counters = s.counters := rfl
@[simp] theorem State.updFab_draws (p : FabPort) (f : FPort → FPort) : (s.updFab p f).draws = s.draws := rfl
@[simp] theorem State.updFab_out (p : FabPort) (f : FPort → FPort) : (s.updFab p f).out = s.out := rfl
@[simp] theorem State.updFab_pending (p : FabPort) (f : FPort → FPort) : (s.updFab p f).pending = s.pending := rfl

/-! ## `hostCount` -/

@[simp] theorem State.hostCount_flash (h : HostPort) (f : HostCounters → HostCounters) : (s.hostCount h f).flash = s.flash := rfl
@[simp] theorem State.hostCount_plan (h : HostPort) (f : HostCounters → HostCounters) : (s.hostCount h f).plan = s.plan := rfl
@[simp] theorem State.hostCount_planLocked (h : HostPort) (f : HostCounters → HostCounters) : (s.hostCount h f).planLocked = s.planLocked := rfl
@[simp] theorem State.hostCount_board (h : HostPort) (f : HostCounters → HostCounters) : (s.hostCount h f).board = s.board := rfl
@[simp] theorem State.hostCount_tb (h : HostPort) (f : HostCounters → HostCounters) : (s.hostCount h f).tb = s.tb := rfl
@[simp] theorem State.hostCount_coord (h : HostPort) (f : HostCounters → HostCounters) : (s.hostCount h f).coord = s.coord := rfl
@[simp] theorem State.hostCount_power (h : HostPort) (f : HostCounters → HostCounters) : (s.hostCount h f).power = s.power := rfl
@[simp] theorem State.hostCount_fw (h : HostPort) (f : HostCounters → HostCounters) : (s.hostCount h f).fw = s.fw := rfl
@[simp] theorem State.hostCount_report (h : HostPort) (f : HostCounters → HostCounters) : (s.hostCount h f).report = s.report := rfl
@[simp] theorem State.hostCount_cfg (h : HostPort) (f : HostCounters → HostCounters) : (s.hostCount h f).cfg = s.cfg := rfl
@[simp] theorem State.hostCount_parts (h : HostPort) (f : HostCounters → HostCounters) : (s.hostCount h f).parts = s.parts := rfl
@[simp] theorem State.hostCount_graphs (h : HostPort) (f : HostCounters → HostCounters) : (s.hostCount h f).graphs = s.graphs := rfl
@[simp] theorem State.hostCount_nextGref (h : HostPort) (f : HostCounters → HostCounters) : (s.hostCount h f).nextGref = s.nextGref := rfl
@[simp] theorem State.hostCount_blocks (h : HostPort) (f : HostCounters → HostCounters) : (s.hostCount h f).blocks = s.blocks := rfl
@[simp] theorem State.hostCount_jobs (h : HostPort) (f : HostCounters → HostCounters) : (s.hostCount h f).jobs = s.jobs := rfl
@[simp] theorem State.hostCount_active (h : HostPort) (f : HostCounters → HostCounters) : (s.hostCount h f).active = s.active := rfl
@[simp] theorem State.hostCount_cmds (h : HostPort) (f : HostCounters → HostCounters) : (s.hostCount h f).cmds = s.cmds := rfl
@[simp] theorem State.hostCount_shipsOut (h : HostPort) (f : HostCounters → HostCounters) : (s.hostCount h f).shipsOut = s.shipsOut := rfl
@[simp] theorem State.hostCount_shipsIn (h : HostPort) (f : HostCounters → HostCounters) : (s.hostCount h f).shipsIn = s.shipsIn := rfl
@[simp] theorem State.hostCount_cells (h : HostPort) (f : HostCounters → HostCounters) : (s.hostCount h f).cells = s.cells := rfl
@[simp] theorem State.hostCount_fenced (h : HostPort) (f : HostCounters → HostCounters) : (s.hostCount h f).fenced = s.fenced := rfl
@[simp] theorem State.hostCount_fencedDma (h : HostPort) (f : HostCounters → HostCounters) : (s.hostCount h f).fencedDma = s.fencedDma := rfl
@[simp] theorem State.hostCount_haltedDma (h : HostPort) (f : HostCounters → HostCounters) : (s.hostCount h f).haltedDma = s.haltedDma := rfl
@[simp] theorem State.hostCount_contexts (h : HostPort) (f : HostCounters → HostCounters) : (s.hostCount h f).contexts = s.contexts := rfl
@[simp] theorem State.hostCount_waitingReds (h : HostPort) (f : HostCounters → HostCounters) : (s.hostCount h f).waitingReds = s.waitingReds := rfl
@[simp] theorem State.hostCount_moduleSums (h : HostPort) (f : HostCounters → HostCounters) : (s.hostCount h f).moduleSums = s.moduleSums := rfl
@[simp] theorem State.hostCount_hbm (h : HostPort) (f : HostCounters → HostCounters) : (s.hostCount h f).hbm = s.hbm := rfl
@[simp] theorem State.hostCount_counters (h : HostPort) (f : HostCounters → HostCounters) : (s.hostCount h f).counters = s.counters := rfl
@[simp] theorem State.hostCount_draws (h : HostPort) (f : HostCounters → HostCounters) : (s.hostCount h f).draws = s.draws := rfl
@[simp] theorem State.hostCount_out (h : HostPort) (f : HostCounters → HostCounters) : (s.hostCount h f).out = s.out := rfl
@[simp] theorem State.hostCount_pending (h : HostPort) (f : HostCounters → HostCounters) : (s.hostCount h f).pending = s.pending := rfl

/-! ## `fabCount` -/

@[simp] theorem State.fabCount_flash (f : FabCounters → FabCounters) : (s.fabCount f).flash = s.flash := rfl
@[simp] theorem State.fabCount_plan (f : FabCounters → FabCounters) : (s.fabCount f).plan = s.plan := rfl
@[simp] theorem State.fabCount_planLocked (f : FabCounters → FabCounters) : (s.fabCount f).planLocked = s.planLocked := rfl
@[simp] theorem State.fabCount_board (f : FabCounters → FabCounters) : (s.fabCount f).board = s.board := rfl
@[simp] theorem State.fabCount_tb (f : FabCounters → FabCounters) : (s.fabCount f).tb = s.tb := rfl
@[simp] theorem State.fabCount_coord (f : FabCounters → FabCounters) : (s.fabCount f).coord = s.coord := rfl
@[simp] theorem State.fabCount_power (f : FabCounters → FabCounters) : (s.fabCount f).power = s.power := rfl
@[simp] theorem State.fabCount_fw (f : FabCounters → FabCounters) : (s.fabCount f).fw = s.fw := rfl
@[simp] theorem State.fabCount_report (f : FabCounters → FabCounters) : (s.fabCount f).report = s.report := rfl
@[simp] theorem State.fabCount_cfg (f : FabCounters → FabCounters) : (s.fabCount f).cfg = s.cfg := rfl
@[simp] theorem State.fabCount_parts (f : FabCounters → FabCounters) : (s.fabCount f).parts = s.parts := rfl
@[simp] theorem State.fabCount_graphs (f : FabCounters → FabCounters) : (s.fabCount f).graphs = s.graphs := rfl
@[simp] theorem State.fabCount_nextGref (f : FabCounters → FabCounters) : (s.fabCount f).nextGref = s.nextGref := rfl
@[simp] theorem State.fabCount_blocks (f : FabCounters → FabCounters) : (s.fabCount f).blocks = s.blocks := rfl
@[simp] theorem State.fabCount_jobs (f : FabCounters → FabCounters) : (s.fabCount f).jobs = s.jobs := rfl
@[simp] theorem State.fabCount_active (f : FabCounters → FabCounters) : (s.fabCount f).active = s.active := rfl
@[simp] theorem State.fabCount_cmds (f : FabCounters → FabCounters) : (s.fabCount f).cmds = s.cmds := rfl
@[simp] theorem State.fabCount_shipsOut (f : FabCounters → FabCounters) : (s.fabCount f).shipsOut = s.shipsOut := rfl
@[simp] theorem State.fabCount_shipsIn (f : FabCounters → FabCounters) : (s.fabCount f).shipsIn = s.shipsIn := rfl
@[simp] theorem State.fabCount_cells (f : FabCounters → FabCounters) : (s.fabCount f).cells = s.cells := rfl
@[simp] theorem State.fabCount_fenced (f : FabCounters → FabCounters) : (s.fabCount f).fenced = s.fenced := rfl
@[simp] theorem State.fabCount_fencedDma (f : FabCounters → FabCounters) : (s.fabCount f).fencedDma = s.fencedDma := rfl
@[simp] theorem State.fabCount_haltedDma (f : FabCounters → FabCounters) : (s.fabCount f).haltedDma = s.haltedDma := rfl
@[simp] theorem State.fabCount_contexts (f : FabCounters → FabCounters) : (s.fabCount f).contexts = s.contexts := rfl
@[simp] theorem State.fabCount_waitingReds (f : FabCounters → FabCounters) : (s.fabCount f).waitingReds = s.waitingReds := rfl
@[simp] theorem State.fabCount_moduleSums (f : FabCounters → FabCounters) : (s.fabCount f).moduleSums = s.moduleSums := rfl
@[simp] theorem State.fabCount_hbm (f : FabCounters → FabCounters) : (s.fabCount f).hbm = s.hbm := rfl
@[simp] theorem State.fabCount_counters (f : FabCounters → FabCounters) : (s.fabCount f).counters = s.counters := rfl
@[simp] theorem State.fabCount_draws (f : FabCounters → FabCounters) : (s.fabCount f).draws = s.draws := rfl
@[simp] theorem State.fabCount_out (f : FabCounters → FabCounters) : (s.fabCount f).out = s.out := rfl
@[simp] theorem State.fabCount_pending (f : FabCounters → FabCounters) : (s.fabCount f).pending = s.pending := rfl

/-! ## `stage` -/

@[simp] theorem State.stage_flash (c : Cmd) : (s.stage c).flash = s.flash := rfl
@[simp] theorem State.stage_plan (c : Cmd) : (s.stage c).plan = s.plan := rfl
@[simp] theorem State.stage_planLocked (c : Cmd) : (s.stage c).planLocked = s.planLocked := rfl
@[simp] theorem State.stage_board (c : Cmd) : (s.stage c).board = s.board := rfl
@[simp] theorem State.stage_tb (c : Cmd) : (s.stage c).tb = s.tb := rfl
@[simp] theorem State.stage_coord (c : Cmd) : (s.stage c).coord = s.coord := rfl
@[simp] theorem State.stage_power (c : Cmd) : (s.stage c).power = s.power := rfl
@[simp] theorem State.stage_fw (c : Cmd) : (s.stage c).fw = s.fw := rfl
@[simp] theorem State.stage_report (c : Cmd) : (s.stage c).report = s.report := rfl
@[simp] theorem State.stage_cfg (c : Cmd) : (s.stage c).cfg = s.cfg := rfl
@[simp] theorem State.stage_graphs (c : Cmd) : (s.stage c).graphs = s.graphs := rfl
@[simp] theorem State.stage_nextGref (c : Cmd) : (s.stage c).nextGref = s.nextGref := rfl
@[simp] theorem State.stage_blocks (c : Cmd) : (s.stage c).blocks = s.blocks := rfl
@[simp] theorem State.stage_jobs (c : Cmd) : (s.stage c).jobs = s.jobs := rfl
@[simp] theorem State.stage_active (c : Cmd) : (s.stage c).active = s.active := rfl
@[simp] theorem State.stage_shipsOut (c : Cmd) : (s.stage c).shipsOut = s.shipsOut := rfl
@[simp] theorem State.stage_shipsIn (c : Cmd) : (s.stage c).shipsIn = s.shipsIn := rfl
@[simp] theorem State.stage_cells (c : Cmd) : (s.stage c).cells = s.cells := rfl
@[simp] theorem State.stage_fenced (c : Cmd) : (s.stage c).fenced = s.fenced := rfl
@[simp] theorem State.stage_fencedDma (c : Cmd) : (s.stage c).fencedDma = s.fencedDma := rfl
@[simp] theorem State.stage_haltedDma (c : Cmd) : (s.stage c).haltedDma = s.haltedDma := rfl
@[simp] theorem State.stage_contexts (c : Cmd) : (s.stage c).contexts = s.contexts := rfl
@[simp] theorem State.stage_waitingReds (c : Cmd) : (s.stage c).waitingReds = s.waitingReds := rfl
@[simp] theorem State.stage_moduleSums (c : Cmd) : (s.stage c).moduleSums = s.moduleSums := rfl
@[simp] theorem State.stage_hbm (c : Cmd) : (s.stage c).hbm = s.hbm := rfl
@[simp] theorem State.stage_net (c : Cmd) : (s.stage c).net = s.net := rfl
@[simp] theorem State.stage_counters (c : Cmd) : (s.stage c).counters = s.counters := rfl
@[simp] theorem State.stage_draws (c : Cmd) : (s.stage c).draws = s.draws := rfl
@[simp] theorem State.stage_out (c : Cmd) : (s.stage c).out = s.out := rfl
@[simp] theorem State.stage_pending (c : Cmd) : (s.stage c).pending = s.pending := rfl

/-! ## `updStep` -/

@[simp] theorem State.updStep_flash (h : Nat) (f : Step → Step) : (s.updStep h f).flash = s.flash := rfl
@[simp] theorem State.updStep_plan (h : Nat) (f : Step → Step) : (s.updStep h f).plan = s.plan := rfl
@[simp] theorem State.updStep_planLocked (h : Nat) (f : Step → Step) : (s.updStep h f).planLocked = s.planLocked := rfl
@[simp] theorem State.updStep_board (h : Nat) (f : Step → Step) : (s.updStep h f).board = s.board := rfl
@[simp] theorem State.updStep_tb (h : Nat) (f : Step → Step) : (s.updStep h f).tb = s.tb := rfl
@[simp] theorem State.updStep_coord (h : Nat) (f : Step → Step) : (s.updStep h f).coord = s.coord := rfl
@[simp] theorem State.updStep_power (h : Nat) (f : Step → Step) : (s.updStep h f).power = s.power := rfl
@[simp] theorem State.updStep_fw (h : Nat) (f : Step → Step) : (s.updStep h f).fw = s.fw := rfl
@[simp] theorem State.updStep_report (h : Nat) (f : Step → Step) : (s.updStep h f).report = s.report := rfl
@[simp] theorem State.updStep_cfg (h : Nat) (f : Step → Step) : (s.updStep h f).cfg = s.cfg := rfl
@[simp] theorem State.updStep_parts (h : Nat) (f : Step → Step) : (s.updStep h f).parts = s.parts := rfl
@[simp] theorem State.updStep_graphs (h : Nat) (f : Step → Step) : (s.updStep h f).graphs = s.graphs := rfl
@[simp] theorem State.updStep_nextGref (h : Nat) (f : Step → Step) : (s.updStep h f).nextGref = s.nextGref := rfl
@[simp] theorem State.updStep_blocks (h : Nat) (f : Step → Step) : (s.updStep h f).blocks = s.blocks := rfl
@[simp] theorem State.updStep_active (h : Nat) (f : Step → Step) : (s.updStep h f).active = s.active := rfl
@[simp] theorem State.updStep_cmds (h : Nat) (f : Step → Step) : (s.updStep h f).cmds = s.cmds := rfl
@[simp] theorem State.updStep_shipsOut (h : Nat) (f : Step → Step) : (s.updStep h f).shipsOut = s.shipsOut := rfl
@[simp] theorem State.updStep_shipsIn (h : Nat) (f : Step → Step) : (s.updStep h f).shipsIn = s.shipsIn := rfl
@[simp] theorem State.updStep_cells (h : Nat) (f : Step → Step) : (s.updStep h f).cells = s.cells := rfl
@[simp] theorem State.updStep_fenced (h : Nat) (f : Step → Step) : (s.updStep h f).fenced = s.fenced := rfl
@[simp] theorem State.updStep_fencedDma (h : Nat) (f : Step → Step) : (s.updStep h f).fencedDma = s.fencedDma := rfl
@[simp] theorem State.updStep_haltedDma (h : Nat) (f : Step → Step) : (s.updStep h f).haltedDma = s.haltedDma := rfl
@[simp] theorem State.updStep_contexts (h : Nat) (f : Step → Step) : (s.updStep h f).contexts = s.contexts := rfl
@[simp] theorem State.updStep_waitingReds (h : Nat) (f : Step → Step) : (s.updStep h f).waitingReds = s.waitingReds := rfl
@[simp] theorem State.updStep_moduleSums (h : Nat) (f : Step → Step) : (s.updStep h f).moduleSums = s.moduleSums := rfl
@[simp] theorem State.updStep_hbm (h : Nat) (f : Step → Step) : (s.updStep h f).hbm = s.hbm := rfl
@[simp] theorem State.updStep_net (h : Nat) (f : Step → Step) : (s.updStep h f).net = s.net := rfl
@[simp] theorem State.updStep_counters (h : Nat) (f : Step → Step) : (s.updStep h f).counters = s.counters := rfl
@[simp] theorem State.updStep_draws (h : Nat) (f : Step → Step) : (s.updStep h f).draws = s.draws := rfl
@[simp] theorem State.updStep_out (h : Nat) (f : Step → Step) : (s.updStep h f).out = s.out := rfl
@[simp] theorem State.updStep_pending (h : Nat) (f : Step → Step) : (s.updStep h f).pending = s.pending := rfl

/-! ## `onCell` -/

@[simp] theorem State.onCell_flash (n : CellId) (f : Cell → Cell) : (s.onCell n f).flash = s.flash := rfl
@[simp] theorem State.onCell_plan (n : CellId) (f : Cell → Cell) : (s.onCell n f).plan = s.plan := rfl
@[simp] theorem State.onCell_planLocked (n : CellId) (f : Cell → Cell) : (s.onCell n f).planLocked = s.planLocked := rfl
@[simp] theorem State.onCell_board (n : CellId) (f : Cell → Cell) : (s.onCell n f).board = s.board := rfl
@[simp] theorem State.onCell_tb (n : CellId) (f : Cell → Cell) : (s.onCell n f).tb = s.tb := rfl
@[simp] theorem State.onCell_coord (n : CellId) (f : Cell → Cell) : (s.onCell n f).coord = s.coord := rfl
@[simp] theorem State.onCell_power (n : CellId) (f : Cell → Cell) : (s.onCell n f).power = s.power := rfl
@[simp] theorem State.onCell_fw (n : CellId) (f : Cell → Cell) : (s.onCell n f).fw = s.fw := rfl
@[simp] theorem State.onCell_report (n : CellId) (f : Cell → Cell) : (s.onCell n f).report = s.report := rfl
@[simp] theorem State.onCell_cfg (n : CellId) (f : Cell → Cell) : (s.onCell n f).cfg = s.cfg := rfl
@[simp] theorem State.onCell_parts (n : CellId) (f : Cell → Cell) : (s.onCell n f).parts = s.parts := rfl
@[simp] theorem State.onCell_graphs (n : CellId) (f : Cell → Cell) : (s.onCell n f).graphs = s.graphs := rfl
@[simp] theorem State.onCell_nextGref (n : CellId) (f : Cell → Cell) : (s.onCell n f).nextGref = s.nextGref := rfl
@[simp] theorem State.onCell_blocks (n : CellId) (f : Cell → Cell) : (s.onCell n f).blocks = s.blocks := rfl
@[simp] theorem State.onCell_jobs (n : CellId) (f : Cell → Cell) : (s.onCell n f).jobs = s.jobs := rfl
@[simp] theorem State.onCell_active (n : CellId) (f : Cell → Cell) : (s.onCell n f).active = s.active := rfl
@[simp] theorem State.onCell_cmds (n : CellId) (f : Cell → Cell) : (s.onCell n f).cmds = s.cmds := rfl
@[simp] theorem State.onCell_shipsOut (n : CellId) (f : Cell → Cell) : (s.onCell n f).shipsOut = s.shipsOut := rfl
@[simp] theorem State.onCell_shipsIn (n : CellId) (f : Cell → Cell) : (s.onCell n f).shipsIn = s.shipsIn := rfl
@[simp] theorem State.onCell_fenced (n : CellId) (f : Cell → Cell) : (s.onCell n f).fenced = s.fenced := rfl
@[simp] theorem State.onCell_fencedDma (n : CellId) (f : Cell → Cell) : (s.onCell n f).fencedDma = s.fencedDma := rfl
@[simp] theorem State.onCell_haltedDma (n : CellId) (f : Cell → Cell) : (s.onCell n f).haltedDma = s.haltedDma := rfl
@[simp] theorem State.onCell_contexts (n : CellId) (f : Cell → Cell) : (s.onCell n f).contexts = s.contexts := rfl
@[simp] theorem State.onCell_waitingReds (n : CellId) (f : Cell → Cell) : (s.onCell n f).waitingReds = s.waitingReds := rfl
@[simp] theorem State.onCell_moduleSums (n : CellId) (f : Cell → Cell) : (s.onCell n f).moduleSums = s.moduleSums := rfl
@[simp] theorem State.onCell_hbm (n : CellId) (f : Cell → Cell) : (s.onCell n f).hbm = s.hbm := rfl
@[simp] theorem State.onCell_net (n : CellId) (f : Cell → Cell) : (s.onCell n f).net = s.net := rfl
@[simp] theorem State.onCell_counters (n : CellId) (f : Cell → Cell) : (s.onCell n f).counters = s.counters := rfl
@[simp] theorem State.onCell_draws (n : CellId) (f : Cell → Cell) : (s.onCell n f).draws = s.draws := rfl
@[simp] theorem State.onCell_out (n : CellId) (f : Cell → Cell) : (s.onCell n f).out = s.out := rfl
@[simp] theorem State.onCell_pending (n : CellId) (f : Cell → Cell) : (s.onCell n f).pending = s.pending := rfl

/-! ## Cells -/

variable (c : Cell)

@[simp] theorem Cell.updRegion_base (r : RegionId) (f : Region → Region) : (c.updRegion r f).base = c.base := rfl
@[simp] theorem Cell.updRegion_job (r : RegionId) (f : Region → Region) : (c.updRegion r f).job = c.job := rfl
@[simp] theorem Cell.updRegion_stage (r : RegionId) (f : Region → Region) : (c.updRegion r f).stage = c.stage := rfl
@[simp] theorem Cell.updRegion_pass (r : RegionId) (f : Region → Region) : (c.updRegion r f).pass = c.pass := rfl
@[simp] theorem Cell.updRegion_step (r : RegionId) (f : Region → Region) : (c.updRegion r f).step = c.step := rfl
@[simp] theorem Cell.updRegion_boundary (r : RegionId) (f : Region → Region) : (c.updRegion r f).boundary = c.boundary := rfl
@[simp] theorem Cell.updRegion_trapped (r : RegionId) (f : Region → Region) : (c.updRegion r f).trapped = c.trapped := rfl
@[simp] theorem Cell.updRegion_heldOut (r : RegionId) (f : Region → Region) : (c.updRegion r f).heldOut = c.heldOut := rfl
@[simp] theorem Cell.updRegion_waitOpen (r : RegionId) (f : Region → Region) : (c.updRegion r f).waitOpen = c.waitOpen := rfl
@[simp] theorem Cell.updRegion_waitRegion (r : RegionId) (f : Region → Region) : (c.updRegion r f).waitRegion = c.waitRegion := rfl
@[simp] theorem Cell.updRegion_waitSince (r : RegionId) (f : Region → Region) : (c.updRegion r f).waitSince = c.waitSince := rfl
@[simp] theorem Cell.updRegion_stateTime (r : RegionId) (f : Region → Region) : (c.updRegion r f).stateTime = c.stateTime := rfl
@[simp] theorem Cell.updRegion_credit (r : RegionId) (f : Region → Region) : (c.updRegion r f).credit = c.credit := rfl
@[simp] theorem Cell.updRegion_planeSteps (r : RegionId) (f : Region → Region) : (c.updRegion r f).planeSteps = c.planeSteps := rfl
@[simp] theorem Cell.updRegion_planesSkipped (r : RegionId) (f : Region → Region) : (c.updRegion r f).planesSkipped = c.planesSkipped := rfl
@[simp] theorem Cell.updRegion_waitTicks (r : RegionId) (f : Region → Region) : (c.updRegion r f).waitTicks = c.waitTicks := rfl
@[simp] theorem Cell.updRegion_stallTicks (r : RegionId) (f : Region → Region) : (c.updRegion r f).stallTicks = c.stallTicks := rfl
@[simp] theorem Cell.updRegion_stallSince (r : RegionId) (f : Region → Region) : (c.updRegion r f).stallSince = c.stallSince := rfl
@[simp] theorem Cell.updRegion_passK (r : RegionId) (f : Region → Region) : (c.updRegion r f).passK = c.passK := rfl
@[simp] theorem Cell.updRegion_groups (r : RegionId) (f : Region → Region) : (c.updRegion r f).groups = c.groups := rfl
@[simp] theorem Cell.updRegion_opened (r : RegionId) (f : Region → Region) : (c.updRegion r f).opened = c.opened := rfl
@[simp] theorem Cell.updRegion_passed (r : RegionId) (f : Region → Region) : (c.updRegion r f).passed = c.passed := rfl
@[simp] theorem Cell.updRegion_clamps (r : RegionId) (f : Region → Region) : (c.updRegion r f).clamps = c.clamps := rfl
@[simp] theorem Cell.updRegion_zs (r : RegionId) (f : Region → Region) : (c.updRegion r f).zs = c.zs := rfl
@[simp] theorem Cell.updRegion_tiles (r : RegionId) (f : Region → Region) : (c.updRegion r f).tiles = c.tiles := rfl
@[simp] theorem Cell.updRegion_lanes (r : RegionId) (f : Region → Region) : (c.updRegion r f).lanes = c.lanes := rfl
@[simp] theorem Cell.updRegion_upd (r : RegionId) (f : Region → Region) : (c.updRegion r f).upd = c.upd := rfl
@[simp] theorem Cell.updRegion_traps (r : RegionId) (f : Region → Region) : (c.updRegion r f).traps = c.traps := rfl
@[simp] theorem Cell.updRegion_outs (r : RegionId) (f : Region → Region) : (c.updRegion r f).outs = c.outs := rfl
@[simp] theorem Cell.updRegion_maxima (r : RegionId) (f : Region → Region) : (c.updRegion r f).maxima = c.maxima := rfl
@[simp] theorem Cell.updRegion_logSums (r : RegionId) (f : Region → Region) : (c.updRegion r f).logSums = c.logSums := rfl
@[simp] theorem Cell.updRegion_vec (r : RegionId) (f : Region → Region) : (c.updRegion r f).vec = c.vec := rfl
@[simp] theorem Cell.updRegion_lnsSats (r : RegionId) (f : Region → Region) : (c.updRegion r f).lnsSats = c.lnsSats := rfl

@[simp] theorem Cell.updEngine_base (e : EngineId) (f : Updraft → Updraft) : (c.updEngine e f).base = c.base := rfl
@[simp] theorem Cell.updEngine_job (e : EngineId) (f : Updraft → Updraft) : (c.updEngine e f).job = c.job := rfl
@[simp] theorem Cell.updEngine_stage (e : EngineId) (f : Updraft → Updraft) : (c.updEngine e f).stage = c.stage := rfl
@[simp] theorem Cell.updEngine_pass (e : EngineId) (f : Updraft → Updraft) : (c.updEngine e f).pass = c.pass := rfl
@[simp] theorem Cell.updEngine_step (e : EngineId) (f : Updraft → Updraft) : (c.updEngine e f).step = c.step := rfl
@[simp] theorem Cell.updEngine_boundary (e : EngineId) (f : Updraft → Updraft) : (c.updEngine e f).boundary = c.boundary := rfl
@[simp] theorem Cell.updEngine_trapped (e : EngineId) (f : Updraft → Updraft) : (c.updEngine e f).trapped = c.trapped := rfl
@[simp] theorem Cell.updEngine_heldOut (e : EngineId) (f : Updraft → Updraft) : (c.updEngine e f).heldOut = c.heldOut := rfl
@[simp] theorem Cell.updEngine_waitOpen (e : EngineId) (f : Updraft → Updraft) : (c.updEngine e f).waitOpen = c.waitOpen := rfl
@[simp] theorem Cell.updEngine_waitRegion (e : EngineId) (f : Updraft → Updraft) : (c.updEngine e f).waitRegion = c.waitRegion := rfl
@[simp] theorem Cell.updEngine_waitSince (e : EngineId) (f : Updraft → Updraft) : (c.updEngine e f).waitSince = c.waitSince := rfl
@[simp] theorem Cell.updEngine_stateTime (e : EngineId) (f : Updraft → Updraft) : (c.updEngine e f).stateTime = c.stateTime := rfl
@[simp] theorem Cell.updEngine_credit (e : EngineId) (f : Updraft → Updraft) : (c.updEngine e f).credit = c.credit := rfl
@[simp] theorem Cell.updEngine_planeSteps (e : EngineId) (f : Updraft → Updraft) : (c.updEngine e f).planeSteps = c.planeSteps := rfl
@[simp] theorem Cell.updEngine_planesSkipped (e : EngineId) (f : Updraft → Updraft) : (c.updEngine e f).planesSkipped = c.planesSkipped := rfl
@[simp] theorem Cell.updEngine_waitTicks (e : EngineId) (f : Updraft → Updraft) : (c.updEngine e f).waitTicks = c.waitTicks := rfl
@[simp] theorem Cell.updEngine_stallTicks (e : EngineId) (f : Updraft → Updraft) : (c.updEngine e f).stallTicks = c.stallTicks := rfl
@[simp] theorem Cell.updEngine_stallSince (e : EngineId) (f : Updraft → Updraft) : (c.updEngine e f).stallSince = c.stallSince := rfl
@[simp] theorem Cell.updEngine_passK (e : EngineId) (f : Updraft → Updraft) : (c.updEngine e f).passK = c.passK := rfl
@[simp] theorem Cell.updEngine_groups (e : EngineId) (f : Updraft → Updraft) : (c.updEngine e f).groups = c.groups := rfl
@[simp] theorem Cell.updEngine_opened (e : EngineId) (f : Updraft → Updraft) : (c.updEngine e f).opened = c.opened := rfl
@[simp] theorem Cell.updEngine_passed (e : EngineId) (f : Updraft → Updraft) : (c.updEngine e f).passed = c.passed := rfl
@[simp] theorem Cell.updEngine_clamps (e : EngineId) (f : Updraft → Updraft) : (c.updEngine e f).clamps = c.clamps := rfl
@[simp] theorem Cell.updEngine_zs (e : EngineId) (f : Updraft → Updraft) : (c.updEngine e f).zs = c.zs := rfl
@[simp] theorem Cell.updEngine_tiles (e : EngineId) (f : Updraft → Updraft) : (c.updEngine e f).tiles = c.tiles := rfl
@[simp] theorem Cell.updEngine_lanes (e : EngineId) (f : Updraft → Updraft) : (c.updEngine e f).lanes = c.lanes := rfl
@[simp] theorem Cell.updEngine_regions (e : EngineId) (f : Updraft → Updraft) : (c.updEngine e f).regions = c.regions := rfl
@[simp] theorem Cell.updEngine_traps (e : EngineId) (f : Updraft → Updraft) : (c.updEngine e f).traps = c.traps := rfl
@[simp] theorem Cell.updEngine_outs (e : EngineId) (f : Updraft → Updraft) : (c.updEngine e f).outs = c.outs := rfl
@[simp] theorem Cell.updEngine_maxima (e : EngineId) (f : Updraft → Updraft) : (c.updEngine e f).maxima = c.maxima := rfl
@[simp] theorem Cell.updEngine_logSums (e : EngineId) (f : Updraft → Updraft) : (c.updEngine e f).logSums = c.logSums := rfl
@[simp] theorem Cell.updEngine_vec (e : EngineId) (f : Updraft → Updraft) : (c.updEngine e f).vec = c.vec := rfl
@[simp] theorem Cell.updEngine_lnsSats (e : EngineId) (f : Updraft → Updraft) : (c.updEngine e f).lnsSats = c.lnsSats := rfl

@[simp] theorem Cell.updGroup_base (t : TileId) (f : Group → Group) : (c.updGroup t f).base = c.base := rfl
@[simp] theorem Cell.updGroup_job (t : TileId) (f : Group → Group) : (c.updGroup t f).job = c.job := rfl
@[simp] theorem Cell.updGroup_stage (t : TileId) (f : Group → Group) : (c.updGroup t f).stage = c.stage := rfl
@[simp] theorem Cell.updGroup_pass (t : TileId) (f : Group → Group) : (c.updGroup t f).pass = c.pass := rfl
@[simp] theorem Cell.updGroup_step (t : TileId) (f : Group → Group) : (c.updGroup t f).step = c.step := rfl
@[simp] theorem Cell.updGroup_boundary (t : TileId) (f : Group → Group) : (c.updGroup t f).boundary = c.boundary := rfl
@[simp] theorem Cell.updGroup_trapped (t : TileId) (f : Group → Group) : (c.updGroup t f).trapped = c.trapped := rfl
@[simp] theorem Cell.updGroup_heldOut (t : TileId) (f : Group → Group) : (c.updGroup t f).heldOut = c.heldOut := rfl
@[simp] theorem Cell.updGroup_waitOpen (t : TileId) (f : Group → Group) : (c.updGroup t f).waitOpen = c.waitOpen := rfl
@[simp] theorem Cell.updGroup_waitRegion (t : TileId) (f : Group → Group) : (c.updGroup t f).waitRegion = c.waitRegion := rfl
@[simp] theorem Cell.updGroup_waitSince (t : TileId) (f : Group → Group) : (c.updGroup t f).waitSince = c.waitSince := rfl
@[simp] theorem Cell.updGroup_stateTime (t : TileId) (f : Group → Group) : (c.updGroup t f).stateTime = c.stateTime := rfl
@[simp] theorem Cell.updGroup_credit (t : TileId) (f : Group → Group) : (c.updGroup t f).credit = c.credit := rfl
@[simp] theorem Cell.updGroup_planeSteps (t : TileId) (f : Group → Group) : (c.updGroup t f).planeSteps = c.planeSteps := rfl
@[simp] theorem Cell.updGroup_planesSkipped (t : TileId) (f : Group → Group) : (c.updGroup t f).planesSkipped = c.planesSkipped := rfl
@[simp] theorem Cell.updGroup_waitTicks (t : TileId) (f : Group → Group) : (c.updGroup t f).waitTicks = c.waitTicks := rfl
@[simp] theorem Cell.updGroup_stallTicks (t : TileId) (f : Group → Group) : (c.updGroup t f).stallTicks = c.stallTicks := rfl
@[simp] theorem Cell.updGroup_stallSince (t : TileId) (f : Group → Group) : (c.updGroup t f).stallSince = c.stallSince := rfl
@[simp] theorem Cell.updGroup_passK (t : TileId) (f : Group → Group) : (c.updGroup t f).passK = c.passK := rfl
@[simp] theorem Cell.updGroup_opened (t : TileId) (f : Group → Group) : (c.updGroup t f).opened = c.opened := rfl
@[simp] theorem Cell.updGroup_passed (t : TileId) (f : Group → Group) : (c.updGroup t f).passed = c.passed := rfl
@[simp] theorem Cell.updGroup_clamps (t : TileId) (f : Group → Group) : (c.updGroup t f).clamps = c.clamps := rfl
@[simp] theorem Cell.updGroup_zs (t : TileId) (f : Group → Group) : (c.updGroup t f).zs = c.zs := rfl
@[simp] theorem Cell.updGroup_tiles (t : TileId) (f : Group → Group) : (c.updGroup t f).tiles = c.tiles := rfl
@[simp] theorem Cell.updGroup_lanes (t : TileId) (f : Group → Group) : (c.updGroup t f).lanes = c.lanes := rfl
@[simp] theorem Cell.updGroup_regions (t : TileId) (f : Group → Group) : (c.updGroup t f).regions = c.regions := rfl
@[simp] theorem Cell.updGroup_upd (t : TileId) (f : Group → Group) : (c.updGroup t f).upd = c.upd := rfl
@[simp] theorem Cell.updGroup_traps (t : TileId) (f : Group → Group) : (c.updGroup t f).traps = c.traps := rfl
@[simp] theorem Cell.updGroup_outs (t : TileId) (f : Group → Group) : (c.updGroup t f).outs = c.outs := rfl
@[simp] theorem Cell.updGroup_maxima (t : TileId) (f : Group → Group) : (c.updGroup t f).maxima = c.maxima := rfl
@[simp] theorem Cell.updGroup_logSums (t : TileId) (f : Group → Group) : (c.updGroup t f).logSums = c.logSums := rfl
@[simp] theorem Cell.updGroup_vec (t : TileId) (f : Group → Group) : (c.updGroup t f).vec = c.vec := rfl
@[simp] theorem Cell.updGroup_lnsSats (t : TileId) (f : Group → Group) : (c.updGroup t f).lnsSats = c.lnsSats := rfl

@[simp] theorem Cell.updLane_base (l : LaneGroup) (f : LaneGrp → LaneGrp) : (c.updLane l f).base = c.base := rfl
@[simp] theorem Cell.updLane_job (l : LaneGroup) (f : LaneGrp → LaneGrp) : (c.updLane l f).job = c.job := rfl
@[simp] theorem Cell.updLane_stage (l : LaneGroup) (f : LaneGrp → LaneGrp) : (c.updLane l f).stage = c.stage := rfl
@[simp] theorem Cell.updLane_pass (l : LaneGroup) (f : LaneGrp → LaneGrp) : (c.updLane l f).pass = c.pass := rfl
@[simp] theorem Cell.updLane_step (l : LaneGroup) (f : LaneGrp → LaneGrp) : (c.updLane l f).step = c.step := rfl
@[simp] theorem Cell.updLane_boundary (l : LaneGroup) (f : LaneGrp → LaneGrp) : (c.updLane l f).boundary = c.boundary := rfl
@[simp] theorem Cell.updLane_trapped (l : LaneGroup) (f : LaneGrp → LaneGrp) : (c.updLane l f).trapped = c.trapped := rfl
@[simp] theorem Cell.updLane_heldOut (l : LaneGroup) (f : LaneGrp → LaneGrp) : (c.updLane l f).heldOut = c.heldOut := rfl
@[simp] theorem Cell.updLane_waitOpen (l : LaneGroup) (f : LaneGrp → LaneGrp) : (c.updLane l f).waitOpen = c.waitOpen := rfl
@[simp] theorem Cell.updLane_waitRegion (l : LaneGroup) (f : LaneGrp → LaneGrp) : (c.updLane l f).waitRegion = c.waitRegion := rfl
@[simp] theorem Cell.updLane_waitSince (l : LaneGroup) (f : LaneGrp → LaneGrp) : (c.updLane l f).waitSince = c.waitSince := rfl
@[simp] theorem Cell.updLane_stateTime (l : LaneGroup) (f : LaneGrp → LaneGrp) : (c.updLane l f).stateTime = c.stateTime := rfl
@[simp] theorem Cell.updLane_credit (l : LaneGroup) (f : LaneGrp → LaneGrp) : (c.updLane l f).credit = c.credit := rfl
@[simp] theorem Cell.updLane_planeSteps (l : LaneGroup) (f : LaneGrp → LaneGrp) : (c.updLane l f).planeSteps = c.planeSteps := rfl
@[simp] theorem Cell.updLane_planesSkipped (l : LaneGroup) (f : LaneGrp → LaneGrp) : (c.updLane l f).planesSkipped = c.planesSkipped := rfl
@[simp] theorem Cell.updLane_waitTicks (l : LaneGroup) (f : LaneGrp → LaneGrp) : (c.updLane l f).waitTicks = c.waitTicks := rfl
@[simp] theorem Cell.updLane_stallTicks (l : LaneGroup) (f : LaneGrp → LaneGrp) : (c.updLane l f).stallTicks = c.stallTicks := rfl
@[simp] theorem Cell.updLane_stallSince (l : LaneGroup) (f : LaneGrp → LaneGrp) : (c.updLane l f).stallSince = c.stallSince := rfl
@[simp] theorem Cell.updLane_passK (l : LaneGroup) (f : LaneGrp → LaneGrp) : (c.updLane l f).passK = c.passK := rfl
@[simp] theorem Cell.updLane_groups (l : LaneGroup) (f : LaneGrp → LaneGrp) : (c.updLane l f).groups = c.groups := rfl
@[simp] theorem Cell.updLane_opened (l : LaneGroup) (f : LaneGrp → LaneGrp) : (c.updLane l f).opened = c.opened := rfl
@[simp] theorem Cell.updLane_passed (l : LaneGroup) (f : LaneGrp → LaneGrp) : (c.updLane l f).passed = c.passed := rfl
@[simp] theorem Cell.updLane_clamps (l : LaneGroup) (f : LaneGrp → LaneGrp) : (c.updLane l f).clamps = c.clamps := rfl
@[simp] theorem Cell.updLane_zs (l : LaneGroup) (f : LaneGrp → LaneGrp) : (c.updLane l f).zs = c.zs := rfl
@[simp] theorem Cell.updLane_tiles (l : LaneGroup) (f : LaneGrp → LaneGrp) : (c.updLane l f).tiles = c.tiles := rfl
@[simp] theorem Cell.updLane_regions (l : LaneGroup) (f : LaneGrp → LaneGrp) : (c.updLane l f).regions = c.regions := rfl
@[simp] theorem Cell.updLane_upd (l : LaneGroup) (f : LaneGrp → LaneGrp) : (c.updLane l f).upd = c.upd := rfl
@[simp] theorem Cell.updLane_traps (l : LaneGroup) (f : LaneGrp → LaneGrp) : (c.updLane l f).traps = c.traps := rfl
@[simp] theorem Cell.updLane_outs (l : LaneGroup) (f : LaneGrp → LaneGrp) : (c.updLane l f).outs = c.outs := rfl
@[simp] theorem Cell.updLane_maxima (l : LaneGroup) (f : LaneGrp → LaneGrp) : (c.updLane l f).maxima = c.maxima := rfl
@[simp] theorem Cell.updLane_logSums (l : LaneGroup) (f : LaneGrp → LaneGrp) : (c.updLane l f).logSums = c.logSums := rfl
@[simp] theorem Cell.updLane_vec (l : LaneGroup) (f : LaneGrp → LaneGrp) : (c.updLane l f).vec = c.vec := rfl
@[simp] theorem Cell.updLane_lnsSats (l : LaneGroup) (f : LaneGrp → LaneGrp) : (c.updLane l f).lnsSats = c.lnsSats := rfl

/-- A change of one cell leaves every other cell and all else alone. -/
theorem State.updCell_only (n : CellId) (f : Cell → Cell) : OnlyCell s (s.updCell n f) n where
  others m h := by
    have hv : n.val ≠ m.val := fun e => h (Fin.ext e.symm)
    simp [State.updCell, Vector.getElem_set, hv]
  rest := rfl

theorem State.onCell_only (n : CellId) (f : Cell → Cell) : OnlyCell s (s.onCell n f) n := State.updCell_only s n _

end Sys2Proof.Machine
end

