-- ==== Sys2Proof/Laws/Ops.lean ====
section
/-! SUPPORT. What each shared operation can do: the fields it may change, and by one lemma a field those it leaves alone. -/
namespace Sys2Proof.Machine

/-! ## Shapes -/

/-- The state after something was sent from a host port: ports, queue pairs and outputs. -/
def State.withSent (s : State) (b : Vector HPort 4 × List Qp × List Out) : State :=
  { s with net := { s.net with host := b.1, qps := b.2.1 }, out := b.2.2 }

/-- The state after something was sent on a stream. -/
def State.withStream (s : State) (b : List TxStream × List RxStream × List Out) : State :=
  { s with net := { s.net with tx := b.1, rx := b.2.1 }, out := b.2.2 }

/-- The state after events were posted. -/
def State.withPosted (s : State) (b : Vector Part 8 × Vector HPort 4 × List Qp × List Out) : State :=
  { s with parts := b.1, net := { s.net with host := b.2.1, qps := b.2.2.1 }, out := b.2.2.2 }

/-- What an answer may change. -/
structure Answered where
  parts : Vector Part 8
  hbm : Hbm
  host : Vector HPort 4
  qps : List Qp
  out : List Out
  cmds : List Cmd
  counters : ModCounters

/-- The state after answers. -/
def State.withAnswered (s : State) (b : Answered) : State :=
  { s with parts := b.parts, hbm := b.hbm, net := { s.net with host := b.host, qps := b.qps }, out := b.out, cmds := b.cmds,
           counters := b.counters }

/-- What a kill may change. -/
structure Killed where
  parts : Vector Part 8
  hbm : Hbm
  host : Vector HPort 4
  qps : List Qp
  tx : List TxStream
  rx : List RxStream
  out : List Out
  cmds : List Cmd
  counters : ModCounters
  cells : Vector Cell 128
  jobs : List Job

/-- The state after kills. -/
def State.withKilled (s : State) (b : Killed) : State :=
  { s with parts := b.parts, hbm := b.hbm, net := { s.net with host := b.host, qps := b.qps, tx := b.tx, rx := b.rx }, out := b.out,
           cmds := b.cmds, counters := b.counters, cells := b.cells, jobs := b.jobs }

/-- A fold of operations of one shape has that shape. -/
theorem foldl_shape {α β : Type} (upd : State → β → State) (f : State → α → State) (b0 : State → β)
    (hid : ∀ s, upd s (b0 s) = s) (hcomp : ∀ s b c, upd (upd s b) c = upd s c) (hf : ∀ s x, ∃ b, f s x = upd s b)
    (xs : List α) (s : State) : ∃ b, xs.foldl f s = upd s b := by
  induction xs generalizing s with
  | nil => exact ⟨b0 s, (hid s).symm⟩
  | cons x xs ih =>
    obtain ⟨b, hb⟩ := hf s x
    obtain ⟨c, hc⟩ := ih (f s x)
    exact ⟨c, by rw [List.foldl_cons, hc, hb, hcomp]⟩

/-- Everything that an answer may change, as it stands. -/
def State.answered (s : State) : Answered := ⟨s.parts, s.hbm, s.net.host, s.net.qps, s.out, s.cmds, s.counters⟩

/-- Everything that a kill may change, as it stands. -/
def State.killedParts (s : State) : Killed :=
  ⟨s.parts, s.hbm, s.net.host, s.net.qps, s.net.tx, s.net.rx, s.out, s.cmds, s.counters, s.cells, s.jobs⟩

theorem State.posted_of_sent (s : State) (b) : ∃ c, s.withSent b = s.withPosted c := ⟨(s.parts, b), rfl⟩
theorem State.answered_of_posted (s : State) (b) : ∃ c, s.withPosted b = s.withAnswered c :=
  ⟨⟨b.1, s.hbm, b.2.1, b.2.2.1, b.2.2.2, s.cmds, s.counters⟩, rfl⟩
theorem State.killed_of_answered (s : State) (b) : ∃ c, s.withAnswered b = s.withKilled c :=
  ⟨⟨b.parts, b.hbm, b.host, b.qps, s.net.tx, s.net.rx, b.out, b.cmds, b.counters, s.cells, s.jobs⟩, rfl⟩
theorem State.killed_of_stream (s : State) (b) : ∃ c, s.withStream b = s.withKilled c :=
  ⟨⟨s.parts, s.hbm, s.net.host, s.net.qps, b.1, b.2.1, b.2.2, s.cmds, s.counters, s.cells, s.jobs⟩, rfl⟩

/-! ## Sending -/

theorem State.emitHost_shape (s : State) (h : HostPort) (o : Out) : ∃ b, s.emitHost h o = s.withSent b := by
  unfold State.emitHost
  simp only []
  split
  · exact ⟨(_, s.net.qps, s.out), rfl⟩
  · exact ⟨(s.net.host, s.net.qps, _), rfl⟩

theorem State.emitRoce_shape (s : State) (q : Qp) (x : RoceOut) : ∃ b, s.emitRoce q x = s.withSent b := s.emitHost_shape _ _

theorem State.notice_shape (s : State) (k : Nat) (w : BitVec 32) : ∃ b, s.notice k w = s.withSent b := by
  unfold State.notice
  split
  · exact ⟨(s.net.host, s.net.qps, s.out), rfl⟩
  · next q _ =>
    split
    · exact ⟨(s.net.host, s.net.qps, s.out), rfl⟩
    · obtain ⟨b, h⟩ := s.emitRoce_shape q (q.noticeOut q.sendPsn w)
      rw [h]
      exact ⟨(b.1, _, b.2.2), rfl⟩

theorem State.noticePart_shape (s : State) (p : PartId) (w : BitVec 32) : ∃ b, s.noticePart p w = s.withSent b := by
  unfold State.noticePart
  split
  · exact ⟨(s.net.host, s.net.qps, s.out), rfl⟩
  · exact s.notice_shape _ _

/-! ## Events -/

theorem State.postTo_shape (s : State) (p : PartId) (e : Event) : ∃ b, s.postTo p e = s.withPosted b := by
  unfold State.postTo
  split
  · simp only []
    split
    · obtain ⟨b, h⟩ := (s.updPart p (fun q => q.post p.val e)).noticePart_shape p (noticeWord 2 0 0)
      rw [h]
      exact ⟨(_, b), rfl⟩
    · exact ⟨(_, s.net.host, s.net.qps, s.out), rfl⟩
  · exact ⟨(s.parts, s.net.host, s.net.qps, s.out), rfl⟩

theorem State.postPart_shape (s : State) (p : PartId) (e : Event) : ∃ b, s.postPart p e = s.withPosted b := s.postTo_shape _ _

theorem State.postParts_shape (s : State) (ps : List PartId) (e : Event) : ∃ b, s.postParts ps e = s.withPosted b :=
  foldl_shape State.withPosted _ (fun s => (s.parts, s.net.host, s.net.qps, s.out)) (fun _ => rfl) (fun _ _ _ => rfl)
    (fun s p => s.postPart_shape p e) ps s

theorem State.postModule_shape (s : State) (e : Event) : ∃ b, s.postModule e = s.withPosted b :=
  foldl_shape State.withPosted _ (fun s => (s.parts, s.net.host, s.net.qps, s.out)) (fun _ => rfl) (fun _ _ _ => rfl)
    (fun s p => s.postTo_shape p _) allParts s

theorem State.postPartBad_shape (s : State) (p : PartId) (v n : Nat) : ∃ b, s.postPartBad p v n = s.withPosted b :=
  foldl_shape State.withPosted _ (fun s => (s.parts, s.net.host, s.net.qps, s.out)) (fun _ => rfl) (fun _ _ _ => rfl)
    (fun s _ => s.postModule_shape _) _ s

/-! ## Answers -/

theorem State.bulkStore_shape (s : State) (p : PartId) (v : Nat) (bs : Bytes) :
    ∃ b, s.bulkStore p v bs = s.withAnswered b := by
  unfold State.bulkStore
  obtain ⟨a, ha⟩ := s.postPartBad_shape p v bs.length
  rw [ha]
  exact ⟨⟨a.1, ((s.withPosted a).bulkWrite p v bs).hbm, a.2.1, a.2.2.1, a.2.2.2, s.cmds, s.counters⟩, rfl⟩

theorem State.slotWrite_shape (s : State) (p : PartId) (k : Nat) (bs : Bytes) :
    ∃ b, s.slotWrite p k bs = s.withAnswered b := s.bulkStore_shape p _ bs

theorem State.returnSlot_shape (p : PartId) (s : State) (k : Nat) : ∃ b, State.returnSlot p s k = s.withAnswered b := by
  unfold State.returnSlot
  split
  · obtain ⟨a, ha⟩ := s.bulkStore_shape p k [0]
    rw [ha]
    obtain ⟨b, h⟩ := (s.withAnswered a).noticePart_shape p (noticeWord 1 0 k)
    rw [h]
    exact ⟨{ a with host := b.1, qps := b.2.1, out := b.2.2 }, rfl⟩
  · exact ⟨s.answered, rfl⟩

theorem State.returnSlots_shape (s : State) (p : PartId) (ks : List Nat) : ∃ b, s.returnSlots p ks = s.withAnswered b :=
  foldl_shape State.withAnswered _ State.answered (fun _ => rfl) (fun _ _ _ => rfl) (State.returnSlot_shape p) _ s

theorem State.replyHeader_shape (s : State) (p : PartId) (m : BoxId) (tag flip done : Nat) (r : Result) :
    ∃ ps, s.replyHeader p m tag flip done r = { s with parts := ps } := ⟨_, rfl⟩

theorem State.replyBody_shape (s : State) (p : PartId) (m : BoxId) (r : Result) :
    ∃ ps, s.replyBody p m r = { s with parts := ps } := by
  unfold State.replyBody
  split
  · exact ⟨_, rfl⟩
  · exact ⟨s.parts, rfl⟩

theorem State.returnBox_shape (s : State) (p : PartId) (m : BoxId) : ∃ b, s.returnBox p m = s.withPosted b := by
  unfold State.returnBox
  simp only []
  split
  · exact ⟨(_, s.net.host, s.net.qps, s.out), rfl⟩
  · next k _ =>
    obtain ⟨b, h⟩ := ((s.ctrlWrite p (boxAt m) (zeros 8)).updBox p m
      (fun b => { b with owned := false, taken := false, flipQp := none })).notice_shape k (noticeWord 0 m.val 0)
    rw [h]
    exact ⟨(_, b), rfl⟩

theorem State.answer_shape (s : State) (c : Cmd) (done : Nat) (r : Result) : ∃ b, s.answer c done r = s.withAnswered b := by
  obtain ⟨b1, h1⟩ := s.returnSlots_shape c.p c.slots
  obtain ⟨ps2, h2⟩ := (s.returnSlots c.p c.slots).replyHeader_shape c.p c.m c.tag c.flip done r
  obtain ⟨ps3, h3⟩ := ((s.returnSlots c.p c.slots).replyHeader c.p c.m c.tag c.flip done r).replyBody_shape c.p c.m r
  obtain ⟨b4, h4⟩ := (((s.returnSlots c.p c.slots).replyHeader c.p c.m c.tag c.flip done r).replyBody c.p c.m
    r).returnBox_shape c.p c.m
  unfold State.answer
  simp only []
  rw [h4, h3, h2, h1]
  exact ⟨⟨b4.1, b1.hbm, b4.2.1, b4.2.2.1, b4.2.2.2, _, _⟩, rfl⟩

/-! ## Streams -/

theorem Net.ackCarried_shape (n : Net) (k : StreamKey) (sent : List Out) : ∃ rx, n.ackCarried k sent = { n with rx := rx } := by
  unfold Net.ackCarried
  split
  · exact ⟨n.rx, rfl⟩
  · exact ⟨_, rfl⟩

theorem Net.pump_shape (n : Net) (w : Wire) (x : TxStream) : ∃ tx rx, (n.pump w x).1 = { n with tx := tx, rx := rx } := by
  unfold Net.pump
  obtain ⟨rx, h⟩ := Net.ackCarried_shape _ _ _
  exact ⟨_, rx, h⟩

theorem Net.transmit_shape (n : Net) (w : Wire) (k : StreamKey) (ranks : Nat × Nat) (now : Nat) (payloads : List Bytes) :
    ∃ tx rx, (n.transmit w k ranks now payloads).1 = { n with tx := tx, rx := rx } := by
  unfold Net.transmit
  obtain ⟨tx, rx, h⟩ := Net.pump_shape _ _ _
  exact ⟨tx, rx, h⟩

theorem State.transmit_shape (s : State) (k : StreamKey) (ranks : Nat × Nat) (payloads : List Bytes) :
    ∃ b, s.transmit k ranks payloads = s.withStream b := by
  unfold State.transmit
  split
  · exact ⟨(s.net.tx, s.net.rx, s.out), rfl⟩
  · obtain ⟨tx, rx, h⟩ := s.net.transmit_shape (s.wire k) k ranks s.now payloads
    exact ⟨(tx, rx, _), by simp only []; rw [h]; rfl⟩

theorem State.sendOn_shape (s : State) (os : List Out) (k : StreamKey) : ∃ b, s.sendOn os k = s.withStream b :=
  foldl_shape State.withStream _ (fun s => (s.net.tx, s.net.rx, s.out)) (fun _ => rfl) (fun _ _ _ => rfl)
    (fun s _ => s.transmit_shape _ _ _) _ s

theorem State.send_shape (s : State) (os : List Out) : ∃ b, s.send os = s.withStream b := by
  unfold State.send
  simp only []
  obtain ⟨b, h⟩ := foldl_shape State.withStream (fun s k => s.sendOn _ k) (fun s => (s.net.tx, s.net.rx, s.out)) (fun _ => rfl)
    (fun _ _ _ => rfl) (fun s k => s.sendOn_shape (os.filter _) k) _ _
  rw [h]
  exact ⟨b, rfl⟩

theorem State.control_shape (s : State) (job : Nat) (ranks : List Nat) (kind rank reason step boundary : Nat) :
    ∃ b, s.control job ranks kind rank reason step boundary = s.withStream b := s.send_shape _

/-! ## Kills -/

/-- One kill-shaped change after another is one. -/
theorem State.killed_trans {s t u : State} (h : ∃ b, t = s.withKilled b) (h' : ∃ b, u = t.withKilled b) :
    ∃ b, u = s.withKilled b := by
  obtain ⟨b, rfl⟩ := h
  obtain ⟨c, rfl⟩ := h'
  exact ⟨c, rfl⟩

theorem State.answer_killed (s : State) (c : Cmd) (done : Nat) (r : Result) : ∃ b, s.answer c done r = s.withKilled b := by
  obtain ⟨b, h⟩ := s.answer_shape c done r
  obtain ⟨d, h'⟩ := s.killed_of_answered b
  exact ⟨d, h.trans h'⟩

theorem State.postPart_killed (s : State) (p : PartId) (e : Event) : ∃ b, s.postPart p e = s.withKilled b := by
  obtain ⟨b, h⟩ := s.postPart_shape p e
  exact ⟨{ s.killedParts with parts := b.1, host := b.2.1, qps := b.2.2.1, out := b.2.2.2 }, h⟩

theorem State.postModule_killed (s : State) (e : Event) : ∃ b, s.postModule e = s.withKilled b := by
  obtain ⟨b, h⟩ := s.postModule_shape e
  exact ⟨{ s.killedParts with parts := b.1, host := b.2.1, qps := b.2.2.1, out := b.2.2.2 }, h⟩

theorem State.control_killed (s : State) (job : Nat) (ranks : List Nat) (kind rank reason step boundary : Nat) :
    ∃ b, s.control job ranks kind rank reason step boundary = s.withKilled b := by
  obtain ⟨b, h⟩ := s.control_shape job ranks kind rank reason step boundary
  obtain ⟨d, h'⟩ := s.killed_of_stream b
  exact ⟨d, h.trans h'⟩

theorem State.updJob_killed (s : State) (h : Nat) (f : Job → Job) : ∃ b, s.updJob h f = s.withKilled b :=
  ⟨{ s.killedParts with jobs := _ }, rfl⟩

theorem State.updCells_killed (s : State) (p : Cell → Bool) (f : Cell → Cell) : ∃ b, s.updCells p f = s.withKilled b :=
  ⟨{ s.killedParts with cells := _ }, rfl⟩

theorem State.abandonStep_shape (s : State) (j : Job) (x : Step) (cause : Nat) :
    ∃ b, s.abandonStep j x cause = s.withKilled b := by
  unfold State.abandonStep
  simp only []
  have h0 : ∃ b, (s.updJob j.handle Job.dropRound).tidyJob j.handle = s.withKilled b :=
    State.killed_trans (s.updJob_killed _ _) (State.updJob_killed _ _ _)
  split
  · split
    · exact h0
    · exact State.killed_trans h0 (State.killed_trans (State.answer_killed _ _ _ _) (State.postPart_killed _ _ _))
  · exact State.killed_trans h0 (State.postPart_killed _ _ _)

theorem State.killStep_shape (s : State) (h cause : Nat) (tell : Bool) : ∃ b, s.killStep h cause tell = s.withKilled b := by
  unfold State.killStep
  split
  · exact ⟨s.killedParts, rfl⟩
  · next j _ =>
    split
    · exact ⟨s.killedParts, rfl⟩
    · next x _ =>
      split
      · exact ⟨s.killedParts, rfl⟩
      · simp only []
        have h0 : ∃ b, (({ s with counters := { s.counters with kills := satInc s.counters.kills } } : State).updCells
            (fun c => c.job == some h) (Cell.kill s.now)).updJob h
              (fun j => { j.unstage with step := some (x.killed cause (causeCounts cause)) }) = s.withKilled b :=
          ⟨{ s.killedParts with counters := _, cells := _, jobs := _ }, rfl⟩
        have h1 : ∃ b, (if tell = true then
            ((({ s with counters := { s.counters with kills := satInc s.counters.kills } } : State).updCells
              (fun c => c.job == some h) (Cell.kill s.now)).updJob h
                (fun j => { j.unstage with step := some (x.killed cause (causeCounts cause)) })).control h j.others 2 j.rank
                  cause x.number.toNat 0
            else (({ s with counters := { s.counters with kills := satInc s.counters.kills } } : State).updCells
              (fun c => c.job == some h) (Cell.kill s.now)).updJob h
                (fun j => { j.unstage with step := some (x.killed cause (causeCounts cause)) })) = s.withKilled b := by
          split
          · exact State.killed_trans h0 (State.control_killed _ _ _ _ _ _ _ _)
          · exact h0
        split
        · exact State.killed_trans h1 (State.abandonStep_shape _ _ _ _)
        · exact h1

theorem State.killSteps_shape (s : State) (hs : List Nat) (cause : Nat) : ∃ b, s.killSteps hs cause = s.withKilled b :=
  foldl_shape State.withKilled _ State.killedParts (fun _ => rfl) (fun _ _ _ => rfl) (fun s h => s.killStep_shape h cause true) hs s

theorem State.killActive_shape (s : State) (cause : Nat) : ∃ b, s.killActive cause = s.withKilled b := by
  unfold State.killActive
  split
  · exact ⟨s.killedParts, rfl⟩
  · exact s.killStep_shape _ _ _

theorem State.addressFault_shape (s : State) (who : Agent) (a : Nat) : ∃ b, s.addressFault who a = s.withKilled b := by
  unfold State.addressFault
  exact State.killed_trans (t := ({ s with counters := { s.counters with addressFaults := satInc s.counters.addressFaults } } : State))
    ⟨{ s.killedParts with counters := _ }, rfl⟩
    (State.killed_trans (State.killActive_shape _ _) (State.postModule_killed _ _))

/-! ## What each leaves alone -/

section
variable (s : State)

@[simp] theorem State.emitHost_flash (h : HostPort) (o : Out) : (s.emitHost h o).flash = s.flash := by
  obtain ⟨_, h⟩ := s.emitHost_shape h o; rw [h]; rfl
@[simp] theorem State.emitHost_plan (h : HostPort) (o : Out) : (s.emitHost h o).plan = s.plan := by
  obtain ⟨_, h⟩ := s.emitHost_shape h o; rw [h]; rfl
@[simp] theorem State.emitHost_planLocked (h : HostPort) (o : Out) : (s.emitHost h o).planLocked = s.planLocked := by
  obtain ⟨_, h⟩ := s.emitHost_shape h o; rw [h]; rfl
@[simp] theorem State.emitHost_board (h : HostPort) (o : Out) : (s.emitHost h o).board = s.board := by
  obtain ⟨_, h⟩ := s.emitHost_shape h o; rw [h]; rfl
@[simp] theorem State.emitHost_tb (h : HostPort) (o : Out) : (s.emitHost h o).tb = s.tb := by
  obtain ⟨_, h⟩ := s.emitHost_shape h o; rw [h]; rfl
@[simp] theorem State.emitHost_coord (h : HostPort) (o : Out) : (s.emitHost h o).coord = s.coord := by
  obtain ⟨_, h⟩ := s.emitHost_shape h o; rw [h]; rfl
@[simp] theorem State.emitHost_power (h : HostPort) (o : Out) : (s.emitHost h o).power = s.power := by
  obtain ⟨_, h⟩ := s.emitHost_shape h o; rw [h]; rfl
@[simp] theorem State.emitHost_fw (h : HostPort) (o : Out) : (s.emitHost h o).fw = s.fw := by
  obtain ⟨_, h⟩ := s.emitHost_shape h o; rw [h]; rfl
@[simp] theorem State.emitHost_report (h : HostPort) (o : Out) : (s.emitHost h o).report = s.report := by
  obtain ⟨_, h⟩ := s.emitHost_shape h o; rw [h]; rfl
@[simp] theorem State.emitHost_cfg (h : HostPort) (o : Out) : (s.emitHost h o).cfg = s.cfg := by
  obtain ⟨_, h⟩ := s.emitHost_shape h o; rw [h]; rfl
@[simp] theorem State.emitHost_parts (h : HostPort) (o : Out) : (s.emitHost h o).parts = s.parts := by
  obtain ⟨_, h⟩ := s.emitHost_shape h o; rw [h]; rfl
@[simp] theorem State.emitHost_graphs (h : HostPort) (o : Out) : (s.emitHost h o).graphs = s.graphs := by
  obtain ⟨_, h⟩ := s.emitHost_shape h o; rw [h]; rfl
@[simp] theorem State.emitHost_nextGref (h : HostPort) (o : Out) : (s.emitHost h o).nextGref = s.nextGref := by
  obtain ⟨_, h⟩ := s.emitHost_shape h o; rw [h]; rfl
@[simp] theorem State.emitHost_blocks (h : HostPort) (o : Out) : (s.emitHost h o).blocks = s.blocks := by
  obtain ⟨_, h⟩ := s.emitHost_shape h o; rw [h]; rfl
@[simp] theorem State.emitHost_jobs (h : HostPort) (o : Out) : (s.emitHost h o).jobs = s.jobs := by
  obtain ⟨_, h⟩ := s.emitHost_shape h o; rw [h]; rfl
@[simp] theorem State.emitHost_active (h : HostPort) (o : Out) : (s.emitHost h o).active = s.active := by
  obtain ⟨_, h⟩ := s.emitHost_shape h o; rw [h]; rfl
@[simp] theorem State.emitHost_cmds (h : HostPort) (o : Out) : (s.emitHost h o).cmds = s.cmds := by
  obtain ⟨_, h⟩ := s.emitHost_shape h o; rw [h]; rfl
@[simp] theorem State.emitHost_shipsOut (h : HostPort) (o : Out) : (s.emitHost h o).shipsOut = s.shipsOut := by
  obtain ⟨_, h⟩ := s.emitHost_shape h o; rw [h]; rfl
@[simp] theorem State.emitHost_shipsIn (h : HostPort) (o : Out) : (s.emitHost h o).shipsIn = s.shipsIn := by
  obtain ⟨_, h⟩ := s.emitHost_shape h o; rw [h]; rfl
@[simp] theorem State.emitHost_cells (h : HostPort) (o : Out) : (s.emitHost h o).cells = s.cells := by
  obtain ⟨_, h⟩ := s.emitHost_shape h o; rw [h]; rfl
@[simp] theorem State.emitHost_fenced (h : HostPort) (o : Out) : (s.emitHost h o).fenced = s.fenced := by
  obtain ⟨_, h⟩ := s.emitHost_shape h o; rw [h]; rfl
@[simp] theorem State.emitHost_fencedDma (h : HostPort) (o : Out) : (s.emitHost h o).fencedDma = s.fencedDma := by
  obtain ⟨_, h⟩ := s.emitHost_shape h o; rw [h]; rfl
@[simp] theorem State.emitHost_haltedDma (h : HostPort) (o : Out) : (s.emitHost h o).haltedDma = s.haltedDma := by
  obtain ⟨_, h⟩ := s.emitHost_shape h o; rw [h]; rfl
@[simp] theorem State.emitHost_contexts (h : HostPort) (o : Out) : (s.emitHost h o).contexts = s.contexts := by
  obtain ⟨_, h⟩ := s.emitHost_shape h o; rw [h]; rfl
@[simp] theorem State.emitHost_waitingReds (h : HostPort) (o : Out) : (s.emitHost h o).waitingReds = s.waitingReds := by
  obtain ⟨_, h⟩ := s.emitHost_shape h o; rw [h]; rfl
@[simp] theorem State.emitHost_moduleSums (h : HostPort) (o : Out) : (s.emitHost h o).moduleSums = s.moduleSums := by
  obtain ⟨_, h⟩ := s.emitHost_shape h o; rw [h]; rfl
@[simp] theorem State.emitHost_hbm (h : HostPort) (o : Out) : (s.emitHost h o).hbm = s.hbm := by
  obtain ⟨_, h⟩ := s.emitHost_shape h o; rw [h]; rfl
@[simp] theorem State.emitHost_counters (h : HostPort) (o : Out) : (s.emitHost h o).counters = s.counters := by
  obtain ⟨_, h⟩ := s.emitHost_shape h o; rw [h]; rfl
@[simp] theorem State.emitHost_draws (h : HostPort) (o : Out) : (s.emitHost h o).draws = s.draws := by
  obtain ⟨_, h⟩ := s.emitHost_shape h o; rw [h]; rfl
@[simp] theorem State.emitHost_pending (h : HostPort) (o : Out) : (s.emitHost h o).pending = s.pending := by
  obtain ⟨_, h⟩ := s.emitHost_shape h o; rw [h]; rfl
@[simp] theorem State.emitHost_net_fab (h : HostPort) (o : Out) : (s.emitHost h o).net.fab = s.net.fab := by
  obtain ⟨_, h⟩ := s.emitHost_shape h o; rw [h]; rfl
@[simp] theorem State.emitHost_net_fabCounters (h : HostPort) (o : Out) : (s.emitHost h o).net.fabCounters = s.net.fabCounters := by
  obtain ⟨_, h⟩ := s.emitHost_shape h o; rw [h]; rfl
@[simp] theorem State.emitHost_net_tx (h : HostPort) (o : Out) : (s.emitHost h o).net.tx = s.net.tx := by
  obtain ⟨_, h⟩ := s.emitHost_shape h o; rw [h]; rfl
@[simp] theorem State.emitHost_net_rx (h : HostPort) (o : Out) : (s.emitHost h o).net.rx = s.net.rx := by
  obtain ⟨_, h⟩ := s.emitHost_shape h o; rw [h]; rfl
@[simp] theorem State.emitHost_net_viols (h : HostPort) (o : Out) : (s.emitHost h o).net.viols = s.net.viols := by
  obtain ⟨_, h⟩ := s.emitHost_shape h o; rw [h]; rfl
@[simp] theorem State.emitHost_net_quarantined (h : HostPort) (o : Out) : (s.emitHost h o).net.quarantined = s.net.quarantined := by
  obtain ⟨_, h⟩ := s.emitHost_shape h o; rw [h]; rfl

@[simp] theorem State.emitRoce_flash (q : Qp) (x : RoceOut) : (s.emitRoce q x).flash = s.flash := by
  obtain ⟨_, h⟩ := s.emitRoce_shape q x; rw [h]; rfl
@[simp] theorem State.emitRoce_plan (q : Qp) (x : RoceOut) : (s.emitRoce q x).plan = s.plan := by
  obtain ⟨_, h⟩ := s.emitRoce_shape q x; rw [h]; rfl
@[simp] theorem State.emitRoce_planLocked (q : Qp) (x : RoceOut) : (s.emitRoce q x).planLocked = s.planLocked := by
  obtain ⟨_, h⟩ := s.emitRoce_shape q x; rw [h]; rfl
@[simp] theorem State.emitRoce_board (q : Qp) (x : RoceOut) : (s.emitRoce q x).board = s.board := by
  obtain ⟨_, h⟩ := s.emitRoce_shape q x; rw [h]; rfl
@[simp] theorem State.emitRoce_tb (q : Qp) (x : RoceOut) : (s.emitRoce q x).tb = s.tb := by
  obtain ⟨_, h⟩ := s.emitRoce_shape q x; rw [h]; rfl
@[simp] theorem State.emitRoce_coord (q : Qp) (x : RoceOut) : (s.emitRoce q x).coord = s.coord := by
  obtain ⟨_, h⟩ := s.emitRoce_shape q x; rw [h]; rfl
@[simp] theorem State.emitRoce_power (q : Qp) (x : RoceOut) : (s.emitRoce q x).power = s.power := by
  obtain ⟨_, h⟩ := s.emitRoce_shape q x; rw [h]; rfl
@[simp] theorem State.emitRoce_fw (q : Qp) (x : RoceOut) : (s.emitRoce q x).fw = s.fw := by
  obtain ⟨_, h⟩ := s.emitRoce_shape q x; rw [h]; rfl
@[simp] theorem State.emitRoce_report (q : Qp) (x : RoceOut) : (s.emitRoce q x).report = s.report := by
  obtain ⟨_, h⟩ := s.emitRoce_shape q x; rw [h]; rfl
@[simp] theorem State.emitRoce_cfg (q : Qp) (x : RoceOut) : (s.emitRoce q x).cfg = s.cfg := by
  obtain ⟨_, h⟩ := s.emitRoce_shape q x; rw [h]; rfl
@[simp] theorem State.emitRoce_parts (q : Qp) (x : RoceOut) : (s.emitRoce q x).parts = s.parts := by
  obtain ⟨_, h⟩ := s.emitRoce_shape q x; rw [h]; rfl
@[simp] theorem State.emitRoce_graphs (q : Qp) (x : RoceOut) : (s.emitRoce q x).graphs = s.graphs := by
  obtain ⟨_, h⟩ := s.emitRoce_shape q x; rw [h]; rfl
@[simp] theorem State.emitRoce_nextGref (q : Qp) (x : RoceOut) : (s.emitRoce q x).nextGref = s.nextGref := by
  obtain ⟨_, h⟩ := s.emitRoce_shape q x; rw [h]; rfl
@[simp] theorem State.emitRoce_blocks (q : Qp) (x : RoceOut) : (s.emitRoce q x).blocks = s.blocks := by
  obtain ⟨_, h⟩ := s.emitRoce_shape q x; rw [h]; rfl
@[simp] theorem State.emitRoce_jobs (q : Qp) (x : RoceOut) : (s.emitRoce q x).jobs = s.jobs := by
  obtain ⟨_, h⟩ := s.emitRoce_shape q x; rw [h]; rfl
@[simp] theorem State.emitRoce_active (q : Qp) (x : RoceOut) : (s.emitRoce q x).active = s.active := by
  obtain ⟨_, h⟩ := s.emitRoce_shape q x; rw [h]; rfl
@[simp] theorem State.emitRoce_cmds (q : Qp) (x : RoceOut) : (s.emitRoce q x).cmds = s.cmds := by
  obtain ⟨_, h⟩ := s.emitRoce_shape q x; rw [h]; rfl
@[simp] theorem State.emitRoce_shipsOut (q : Qp) (x : RoceOut) : (s.emitRoce q x).shipsOut = s.shipsOut := by
  obtain ⟨_, h⟩ := s.emitRoce_shape q x; rw [h]; rfl
@[simp] theorem State.emitRoce_shipsIn (q : Qp) (x : RoceOut) : (s.emitRoce q x).shipsIn = s.shipsIn := by
  obtain ⟨_, h⟩ := s.emitRoce_shape q x; rw [h]; rfl
@[simp] theorem State.emitRoce_cells (q : Qp) (x : RoceOut) : (s.emitRoce q x).cells = s.cells := by
  obtain ⟨_, h⟩ := s.emitRoce_shape q x; rw [h]; rfl
@[simp] theorem State.emitRoce_fenced (q : Qp) (x : RoceOut) : (s.emitRoce q x).fenced = s.fenced := by
  obtain ⟨_, h⟩ := s.emitRoce_shape q x; rw [h]; rfl
@[simp] theorem State.emitRoce_fencedDma (q : Qp) (x : RoceOut) : (s.emitRoce q x).fencedDma = s.fencedDma := by
  obtain ⟨_, h⟩ := s.emitRoce_shape q x; rw [h]; rfl
@[simp] theorem State.emitRoce_haltedDma (q : Qp) (x : RoceOut) : (s.emitRoce q x).haltedDma = s.haltedDma := by
  obtain ⟨_, h⟩ := s.emitRoce_shape q x; rw [h]; rfl
@[simp] theorem State.emitRoce_contexts (q : Qp) (x : RoceOut) : (s.emitRoce q x).contexts = s.contexts := by
  obtain ⟨_, h⟩ := s.emitRoce_shape q x; rw [h]; rfl
@[simp] theorem State.emitRoce_waitingReds (q : Qp) (x : RoceOut) : (s.emitRoce q x).waitingReds = s.waitingReds := by
  obtain ⟨_, h⟩ := s.emitRoce_shape q x; rw [h]; rfl
@[simp] theorem State.emitRoce_moduleSums (q : Qp) (x : RoceOut) : (s.emitRoce q x).moduleSums = s.moduleSums := by
  obtain ⟨_, h⟩ := s.emitRoce_shape q x; rw [h]; rfl
@[simp] theorem State.emitRoce_hbm (q : Qp) (x : RoceOut) : (s.emitRoce q x).hbm = s.hbm := by
  obtain ⟨_, h⟩ := s.emitRoce_shape q x; rw [h]; rfl
@[simp] theorem State.emitRoce_counters (q : Qp) (x : RoceOut) : (s.emitRoce q x).counters = s.counters := by
  obtain ⟨_, h⟩ := s.emitRoce_shape q x; rw [h]; rfl
@[simp] theorem State.emitRoce_draws (q : Qp) (x : RoceOut) : (s.emitRoce q x).draws = s.draws := by
  obtain ⟨_, h⟩ := s.emitRoce_shape q x; rw [h]; rfl
@[simp] theorem State.emitRoce_pending (q : Qp) (x : RoceOut) : (s.emitRoce q x).pending = s.pending := by
  obtain ⟨_, h⟩ := s.emitRoce_shape q x; rw [h]; rfl
@[simp] theorem State.emitRoce_net_fab (q : Qp) (x : RoceOut) : (s.emitRoce q x).net.fab = s.net.fab := by
  obtain ⟨_, h⟩ := s.emitRoce_shape q x; rw [h]; rfl
@[simp] theorem State.emitRoce_net_fabCounters (q : Qp) (x : RoceOut) : (s.emitRoce q x).net.fabCounters = s.net.fabCounters := by
  obtain ⟨_, h⟩ := s.emitRoce_shape q x; rw [h]; rfl
@[simp] theorem State.emitRoce_net_tx (q : Qp) (x : RoceOut) : (s.emitRoce q x).net.tx = s.net.tx := by
  obtain ⟨_, h⟩ := s.emitRoce_shape q x; rw [h]; rfl
@[simp] theorem State.emitRoce_net_rx (q : Qp) (x : RoceOut) : (s.emitRoce q x).net.rx = s.net.rx := by
  obtain ⟨_, h⟩ := s.emitRoce_shape q x; rw [h]; rfl
@[simp] theorem State.emitRoce_net_viols (q : Qp) (x : RoceOut) : (s.emitRoce q x).net.viols = s.net.viols := by
  obtain ⟨_, h⟩ := s.emitRoce_shape q x; rw [h]; rfl
@[simp] theorem State.emitRoce_net_quarantined (q : Qp) (x : RoceOut) : (s.emitRoce q x).net.quarantined = s.net.quarantined := by
  obtain ⟨_, h⟩ := s.emitRoce_shape q x; rw [h]; rfl

@[simp] theorem State.notice_flash (k : Nat) (w : BitVec 32) : (s.notice k w).flash = s.flash := by
  obtain ⟨_, h⟩ := s.notice_shape k w; rw [h]; rfl
@[simp] theorem State.notice_plan (k : Nat) (w : BitVec 32) : (s.notice k w).plan = s.plan := by
  obtain ⟨_, h⟩ := s.notice_shape k w; rw [h]; rfl
@[simp] theorem State.notice_planLocked (k : Nat) (w : BitVec 32) : (s.notice k w).planLocked = s.planLocked := by
  obtain ⟨_, h⟩ := s.notice_shape k w; rw [h]; rfl
@[simp] theorem State.notice_board (k : Nat) (w : BitVec 32) : (s.notice k w).board = s.board := by
  obtain ⟨_, h⟩ := s.notice_shape k w; rw [h]; rfl
@[simp] theorem State.notice_tb (k : Nat) (w : BitVec 32) : (s.notice k w).tb = s.tb := by
  obtain ⟨_, h⟩ := s.notice_shape k w; rw [h]; rfl
@[simp] theorem State.notice_coord (k : Nat) (w : BitVec 32) : (s.notice k w).coord = s.coord := by
  obtain ⟨_, h⟩ := s.notice_shape k w; rw [h]; rfl
@[simp] theorem State.notice_power (k : Nat) (w : BitVec 32) : (s.notice k w).power = s.power := by
  obtain ⟨_, h⟩ := s.notice_shape k w; rw [h]; rfl
@[simp] theorem State.notice_fw (k : Nat) (w : BitVec 32) : (s.notice k w).fw = s.fw := by
  obtain ⟨_, h⟩ := s.notice_shape k w; rw [h]; rfl
@[simp] theorem State.notice_report (k : Nat) (w : BitVec 32) : (s.notice k w).report = s.report := by
  obtain ⟨_, h⟩ := s.notice_shape k w; rw [h]; rfl
@[simp] theorem State.notice_cfg (k : Nat) (w : BitVec 32) : (s.notice k w).cfg = s.cfg := by
  obtain ⟨_, h⟩ := s.notice_shape k w; rw [h]; rfl
@[simp] theorem State.notice_parts (k : Nat) (w : BitVec 32) : (s.notice k w).parts = s.parts := by
  obtain ⟨_, h⟩ := s.notice_shape k w; rw [h]; rfl
@[simp] theorem State.notice_graphs (k : Nat) (w : BitVec 32) : (s.notice k w).graphs = s.graphs := by
  obtain ⟨_, h⟩ := s.notice_shape k w; rw [h]; rfl
@[simp] theorem State.notice_nextGref (k : Nat) (w : BitVec 32) : (s.notice k w).nextGref = s.nextGref := by
  obtain ⟨_, h⟩ := s.notice_shape k w; rw [h]; rfl
@[simp] theorem State.notice_blocks (k : Nat) (w : BitVec 32) : (s.notice k w).blocks = s.blocks := by
  obtain ⟨_, h⟩ := s.notice_shape k w; rw [h]; rfl
@[simp] theorem State.notice_jobs (k : Nat) (w : BitVec 32) : (s.notice k w).jobs = s.jobs := by
  obtain ⟨_, h⟩ := s.notice_shape k w; rw [h]; rfl
@[simp] theorem State.notice_active (k : Nat) (w : BitVec 32) : (s.notice k w).active = s.active := by
  obtain ⟨_, h⟩ := s.notice_shape k w; rw [h]; rfl
@[simp] theorem State.notice_cmds (k : Nat) (w : BitVec 32) : (s.notice k w).cmds = s.cmds := by
  obtain ⟨_, h⟩ := s.notice_shape k w; rw [h]; rfl
@[simp] theorem State.notice_shipsOut (k : Nat) (w : BitVec 32) : (s.notice k w).shipsOut = s.shipsOut := by
  obtain ⟨_, h⟩ := s.notice_shape k w; rw [h]; rfl
@[simp] theorem State.notice_shipsIn (k : Nat) (w : BitVec 32) : (s.notice k w).shipsIn = s.shipsIn := by
  obtain ⟨_, h⟩ := s.notice_shape k w; rw [h]; rfl
@[simp] theorem State.notice_cells (k : Nat) (w : BitVec 32) : (s.notice k w).cells = s.cells := by
  obtain ⟨_, h⟩ := s.notice_shape k w; rw [h]; rfl
@[simp] theorem State.notice_fenced (k : Nat) (w : BitVec 32) : (s.notice k w).fenced = s.fenced := by
  obtain ⟨_, h⟩ := s.notice_shape k w; rw [h]; rfl
@[simp] theorem State.notice_fencedDma (k : Nat) (w : BitVec 32) : (s.notice k w).fencedDma = s.fencedDma := by
  obtain ⟨_, h⟩ := s.notice_shape k w; rw [h]; rfl
@[simp] theorem State.notice_haltedDma (k : Nat) (w : BitVec 32) : (s.notice k w).haltedDma = s.haltedDma := by
  obtain ⟨_, h⟩ := s.notice_shape k w; rw [h]; rfl
@[simp] theorem State.notice_contexts (k : Nat) (w : BitVec 32) : (s.notice k w).contexts = s.contexts := by
  obtain ⟨_, h⟩ := s.notice_shape k w; rw [h]; rfl
@[simp] theorem State.notice_waitingReds (k : Nat) (w : BitVec 32) : (s.notice k w).waitingReds = s.waitingReds := by
  obtain ⟨_, h⟩ := s.notice_shape k w; rw [h]; rfl
@[simp] theorem State.notice_moduleSums (k : Nat) (w : BitVec 32) : (s.notice k w).moduleSums = s.moduleSums := by
  obtain ⟨_, h⟩ := s.notice_shape k w; rw [h]; rfl
@[simp] theorem State.notice_hbm (k : Nat) (w : BitVec 32) : (s.notice k w).hbm = s.hbm := by
  obtain ⟨_, h⟩ := s.notice_shape k w; rw [h]; rfl
@[simp] theorem State.notice_counters (k : Nat) (w : BitVec 32) : (s.notice k w).counters = s.counters := by
  obtain ⟨_, h⟩ := s.notice_shape k w; rw [h]; rfl
@[simp] theorem State.notice_draws (k : Nat) (w : BitVec 32) : (s.notice k w).draws = s.draws := by
  obtain ⟨_, h⟩ := s.notice_shape k w; rw [h]; rfl
@[simp] theorem State.notice_pending (k : Nat) (w : BitVec 32) : (s.notice k w).pending = s.pending := by
  obtain ⟨_, h⟩ := s.notice_shape k w; rw [h]; rfl
@[simp] theorem State.notice_net_fab (k : Nat) (w : BitVec 32) : (s.notice k w).net.fab = s.net.fab := by
  obtain ⟨_, h⟩ := s.notice_shape k w; rw [h]; rfl
@[simp] theorem State.notice_net_fabCounters (k : Nat) (w : BitVec 32) : (s.notice k w).net.fabCounters = s.net.fabCounters := by
  obtain ⟨_, h⟩ := s.notice_shape k w; rw [h]; rfl
@[simp] theorem State.notice_net_tx (k : Nat) (w : BitVec 32) : (s.notice k w).net.tx = s.net.tx := by
  obtain ⟨_, h⟩ := s.notice_shape k w; rw [h]; rfl
@[simp] theorem State.notice_net_rx (k : Nat) (w : BitVec 32) : (s.notice k w).net.rx = s.net.rx := by
  obtain ⟨_, h⟩ := s.notice_shape k w; rw [h]; rfl
@[simp] theorem State.notice_net_viols (k : Nat) (w : BitVec 32) : (s.notice k w).net.viols = s.net.viols := by
  obtain ⟨_, h⟩ := s.notice_shape k w; rw [h]; rfl
@[simp] theorem State.notice_net_quarantined (k : Nat) (w : BitVec 32) : (s.notice k w).net.quarantined = s.net.quarantined := by
  obtain ⟨_, h⟩ := s.notice_shape k w; rw [h]; rfl

@[simp] theorem State.noticePart_flash (p : PartId) (w : BitVec 32) : (s.noticePart p w).flash = s.flash := by
  obtain ⟨_, h⟩ := s.noticePart_shape p w; rw [h]; rfl
@[simp] theorem State.noticePart_plan (p : PartId) (w : BitVec 32) : (s.noticePart p w).plan = s.plan := by
  obtain ⟨_, h⟩ := s.noticePart_shape p w; rw [h]; rfl
@[simp] theorem State.noticePart_planLocked (p : PartId) (w : BitVec 32) : (s.noticePart p w).planLocked = s.planLocked := by
  obtain ⟨_, h⟩ := s.noticePart_shape p w; rw [h]; rfl
@[simp] theorem State.noticePart_board (p : PartId) (w : BitVec 32) : (s.noticePart p w).board = s.board := by
  obtain ⟨_, h⟩ := s.noticePart_shape p w; rw [h]; rfl
@[simp] theorem State.noticePart_tb (p : PartId) (w : BitVec 32) : (s.noticePart p w).tb = s.tb := by
  obtain ⟨_, h⟩ := s.noticePart_shape p w; rw [h]; rfl
@[simp] theorem State.noticePart_coord (p : PartId) (w : BitVec 32) : (s.noticePart p w).coord = s.coord := by
  obtain ⟨_, h⟩ := s.noticePart_shape p w; rw [h]; rfl
@[simp] theorem State.noticePart_power (p : PartId) (w : BitVec 32) : (s.noticePart p w).power = s.power := by
  obtain ⟨_, h⟩ := s.noticePart_shape p w; rw [h]; rfl
@[simp] theorem State.noticePart_fw (p : PartId) (w : BitVec 32) : (s.noticePart p w).fw = s.fw := by
  obtain ⟨_, h⟩ := s.noticePart_shape p w; rw [h]; rfl
@[simp] theorem State.noticePart_report (p : PartId) (w : BitVec 32) : (s.noticePart p w).report = s.report := by
  obtain ⟨_, h⟩ := s.noticePart_shape p w; rw [h]; rfl
@[simp] theorem State.noticePart_cfg (p : PartId) (w : BitVec 32) : (s.noticePart p w).cfg = s.cfg := by
  obtain ⟨_, h⟩ := s.noticePart_shape p w; rw [h]; rfl
@[simp] theorem State.noticePart_parts (p : PartId) (w : BitVec 32) : (s.noticePart p w).parts = s.parts := by
  obtain ⟨_, h⟩ := s.noticePart_shape p w; rw [h]; rfl
@[simp] theorem State.noticePart_graphs (p : PartId) (w : BitVec 32) : (s.noticePart p w).graphs = s.graphs := by
  obtain ⟨_, h⟩ := s.noticePart_shape p w; rw [h]; rfl
@[simp] theorem State.noticePart_nextGref (p : PartId) (w : BitVec 32) : (s.noticePart p w).nextGref = s.nextGref := by
  obtain ⟨_, h⟩ := s.noticePart_shape p w; rw [h]; rfl
@[simp] theorem State.noticePart_blocks (p : PartId) (w : BitVec 32) : (s.noticePart p w).blocks = s.blocks := by
  obtain ⟨_, h⟩ := s.noticePart_shape p w; rw [h]; rfl
@[simp] theorem State.noticePart_jobs (p : PartId) (w : BitVec 32) : (s.noticePart p w).jobs = s.jobs := by
  obtain ⟨_, h⟩ := s.noticePart_shape p w; rw [h]; rfl
@[simp] theorem State.noticePart_active (p : PartId) (w : BitVec 32) : (s.noticePart p w).active = s.active := by
  obtain ⟨_, h⟩ := s.noticePart_shape p w; rw [h]; rfl
@[simp] theorem State.noticePart_cmds (p : PartId) (w : BitVec 32) : (s.noticePart p w).cmds = s.cmds := by
  obtain ⟨_, h⟩ := s.noticePart_shape p w; rw [h]; rfl
@[simp] theorem State.noticePart_shipsOut (p : PartId) (w : BitVec 32) : (s.noticePart p w).shipsOut = s.shipsOut := by
  obtain ⟨_, h⟩ := s.noticePart_shape p w; rw [h]; rfl
@[simp] theorem State.noticePart_shipsIn (p : PartId) (w : BitVec 32) : (s.noticePart p w).shipsIn = s.shipsIn := by
  obtain ⟨_, h⟩ := s.noticePart_shape p w; rw [h]; rfl
@[simp] theorem State.noticePart_cells (p : PartId) (w : BitVec 32) : (s.noticePart p w).cells = s.cells := by
  obtain ⟨_, h⟩ := s.noticePart_shape p w; rw [h]; rfl
@[simp] theorem State.noticePart_fenced (p : PartId) (w : BitVec 32) : (s.noticePart p w).fenced = s.fenced := by
  obtain ⟨_, h⟩ := s.noticePart_shape p w; rw [h]; rfl
@[simp] theorem State.noticePart_fencedDma (p : PartId) (w : BitVec 32) : (s.noticePart p w).fencedDma = s.fencedDma := by
  obtain ⟨_, h⟩ := s.noticePart_shape p w; rw [h]; rfl
@[simp] theorem State.noticePart_haltedDma (p : PartId) (w : BitVec 32) : (s.noticePart p w).haltedDma = s.haltedDma := by
  obtain ⟨_, h⟩ := s.noticePart_shape p w; rw [h]; rfl
@[simp] theorem State.noticePart_contexts (p : PartId) (w : BitVec 32) : (s.noticePart p w).contexts = s.contexts := by
  obtain ⟨_, h⟩ := s.noticePart_shape p w; rw [h]; rfl
@[simp] theorem State.noticePart_waitingReds (p : PartId) (w : BitVec 32) : (s.noticePart p w).waitingReds = s.waitingReds := by
  obtain ⟨_, h⟩ := s.noticePart_shape p w; rw [h]; rfl
@[simp] theorem State.noticePart_moduleSums (p : PartId) (w : BitVec 32) : (s.noticePart p w).moduleSums = s.moduleSums := by
  obtain ⟨_, h⟩ := s.noticePart_shape p w; rw [h]; rfl
@[simp] theorem State.noticePart_hbm (p : PartId) (w : BitVec 32) : (s.noticePart p w).hbm = s.hbm := by
  obtain ⟨_, h⟩ := s.noticePart_shape p w; rw [h]; rfl
@[simp] theorem State.noticePart_counters (p : PartId) (w : BitVec 32) : (s.noticePart p w).counters = s.counters := by
  obtain ⟨_, h⟩ := s.noticePart_shape p w; rw [h]; rfl
@[simp] theorem State.noticePart_draws (p : PartId) (w : BitVec 32) : (s.noticePart p w).draws = s.draws := by
  obtain ⟨_, h⟩ := s.noticePart_shape p w; rw [h]; rfl
@[simp] theorem State.noticePart_pending (p : PartId) (w : BitVec 32) : (s.noticePart p w).pending = s.pending := by
  obtain ⟨_, h⟩ := s.noticePart_shape p w; rw [h]; rfl
@[simp] theorem State.noticePart_net_fab (p : PartId) (w : BitVec 32) : (s.noticePart p w).net.fab = s.net.fab := by
  obtain ⟨_, h⟩ := s.noticePart_shape p w; rw [h]; rfl
@[simp] theorem State.noticePart_net_fabCounters (p : PartId) (w : BitVec 32) : (s.noticePart p w).net.fabCounters = s.net.fabCounters := by
  obtain ⟨_, h⟩ := s.noticePart_shape p w; rw [h]; rfl
@[simp] theorem State.noticePart_net_tx (p : PartId) (w : BitVec 32) : (s.noticePart p w).net.tx = s.net.tx := by
  obtain ⟨_, h⟩ := s.noticePart_shape p w; rw [h]; rfl
@[simp] theorem State.noticePart_net_rx (p : PartId) (w : BitVec 32) : (s.noticePart p w).net.rx = s.net.rx := by
  obtain ⟨_, h⟩ := s.noticePart_shape p w; rw [h]; rfl
@[simp] theorem State.noticePart_net_viols (p : PartId) (w : BitVec 32) : (s.noticePart p w).net.viols = s.net.viols := by
  obtain ⟨_, h⟩ := s.noticePart_shape p w; rw [h]; rfl
@[simp] theorem State.noticePart_net_quarantined (p : PartId) (w : BitVec 32) : (s.noticePart p w).net.quarantined = s.net.quarantined := by
  obtain ⟨_, h⟩ := s.noticePart_shape p w; rw [h]; rfl

@[simp] theorem State.postTo_flash (p : PartId) (e : Event) : (s.postTo p e).flash = s.flash := by
  obtain ⟨_, h⟩ := s.postTo_shape p e; rw [h]; rfl
@[simp] theorem State.postTo_plan (p : PartId) (e : Event) : (s.postTo p e).plan = s.plan := by
  obtain ⟨_, h⟩ := s.postTo_shape p e; rw [h]; rfl
@[simp] theorem State.postTo_planLocked (p : PartId) (e : Event) : (s.postTo p e).planLocked = s.planLocked := by
  obtain ⟨_, h⟩ := s.postTo_shape p e; rw [h]; rfl
@[simp] theorem State.postTo_board (p : PartId) (e : Event) : (s.postTo p e).board = s.board := by
  obtain ⟨_, h⟩ := s.postTo_shape p e; rw [h]; rfl
@[simp] theorem State.postTo_tb (p : PartId) (e : Event) : (s.postTo p e).tb = s.tb := by
  obtain ⟨_, h⟩ := s.postTo_shape p e; rw [h]; rfl
@[simp] theorem State.postTo_coord (p : PartId) (e : Event) : (s.postTo p e).coord = s.coord := by
  obtain ⟨_, h⟩ := s.postTo_shape p e; rw [h]; rfl
@[simp] theorem State.postTo_power (p : PartId) (e : Event) : (s.postTo p e).power = s.power := by
  obtain ⟨_, h⟩ := s.postTo_shape p e; rw [h]; rfl
@[simp] theorem State.postTo_fw (p : PartId) (e : Event) : (s.postTo p e).fw = s.fw := by
  obtain ⟨_, h⟩ := s.postTo_shape p e; rw [h]; rfl
@[simp] theorem State.postTo_report (p : PartId) (e : Event) : (s.postTo p e).report = s.report := by
  obtain ⟨_, h⟩ := s.postTo_shape p e; rw [h]; rfl
@[simp] theorem State.postTo_cfg (p : PartId) (e : Event) : (s.postTo p e).cfg = s.cfg := by
  obtain ⟨_, h⟩ := s.postTo_shape p e; rw [h]; rfl
@[simp] theorem State.postTo_graphs (p : PartId) (e : Event) : (s.postTo p e).graphs = s.graphs := by
  obtain ⟨_, h⟩ := s.postTo_shape p e; rw [h]; rfl
@[simp] theorem State.postTo_nextGref (p : PartId) (e : Event) : (s.postTo p e).nextGref = s.nextGref := by
  obtain ⟨_, h⟩ := s.postTo_shape p e; rw [h]; rfl
@[simp] theorem State.postTo_blocks (p : PartId) (e : Event) : (s.postTo p e).blocks = s.blocks := by
  obtain ⟨_, h⟩ := s.postTo_shape p e; rw [h]; rfl
@[simp] theorem State.postTo_jobs (p : PartId) (e : Event) : (s.postTo p e).jobs = s.jobs := by
  obtain ⟨_, h⟩ := s.postTo_shape p e; rw [h]; rfl
@[simp] theorem State.postTo_active (p : PartId) (e : Event) : (s.postTo p e).active = s.active := by
  obtain ⟨_, h⟩ := s.postTo_shape p e; rw [h]; rfl
@[simp] theorem State.postTo_cmds (p : PartId) (e : Event) : (s.postTo p e).cmds = s.cmds := by
  obtain ⟨_, h⟩ := s.postTo_shape p e; rw [h]; rfl
@[simp] theorem State.postTo_shipsOut (p : PartId) (e : Event) : (s.postTo p e).shipsOut = s.shipsOut := by
  obtain ⟨_, h⟩ := s.postTo_shape p e; rw [h]; rfl
@[simp] theorem State.postTo_shipsIn (p : PartId) (e : Event) : (s.postTo p e).shipsIn = s.shipsIn := by
  obtain ⟨_, h⟩ := s.postTo_shape p e; rw [h]; rfl
@[simp] theorem State.postTo_cells (p : PartId) (e : Event) : (s.postTo p e).cells = s.cells := by
  obtain ⟨_, h⟩ := s.postTo_shape p e; rw [h]; rfl
@[simp] theorem State.postTo_fenced (p : PartId) (e : Event) : (s.postTo p e).fenced = s.fenced := by
  obtain ⟨_, h⟩ := s.postTo_shape p e; rw [h]; rfl
@[simp] theorem State.postTo_fencedDma (p : PartId) (e : Event) : (s.postTo p e).fencedDma = s.fencedDma := by
  obtain ⟨_, h⟩ := s.postTo_shape p e; rw [h]; rfl
@[simp] theorem State.postTo_haltedDma (p : PartId) (e : Event) : (s.postTo p e).haltedDma = s.haltedDma := by
  obtain ⟨_, h⟩ := s.postTo_shape p e; rw [h]; rfl
@[simp] theorem State.postTo_contexts (p : PartId) (e : Event) : (s.postTo p e).contexts = s.contexts := by
  obtain ⟨_, h⟩ := s.postTo_shape p e; rw [h]; rfl
@[simp] theorem State.postTo_waitingReds (p : PartId) (e : Event) : (s.postTo p e).waitingReds = s.waitingReds := by
  obtain ⟨_, h⟩ := s.postTo_shape p e; rw [h]; rfl
@[simp] theorem State.postTo_moduleSums (p : PartId) (e : Event) : (s.postTo p e).moduleSums = s.moduleSums := by
  obtain ⟨_, h⟩ := s.postTo_shape p e; rw [h]; rfl
@[simp] theorem State.postTo_hbm (p : PartId) (e : Event) : (s.postTo p e).hbm = s.hbm := by
  obtain ⟨_, h⟩ := s.postTo_shape p e; rw [h]; rfl
@[simp] theorem State.postTo_counters (p : PartId) (e : Event) : (s.postTo p e).counters = s.counters := by
  obtain ⟨_, h⟩ := s.postTo_shape p e; rw [h]; rfl
@[simp] theorem State.postTo_draws (p : PartId) (e : Event) : (s.postTo p e).draws = s.draws := by
  obtain ⟨_, h⟩ := s.postTo_shape p e; rw [h]; rfl
@[simp] theorem State.postTo_pending (p : PartId) (e : Event) : (s.postTo p e).pending = s.pending := by
  obtain ⟨_, h⟩ := s.postTo_shape p e; rw [h]; rfl
@[simp] theorem State.postTo_net_fab (p : PartId) (e : Event) : (s.postTo p e).net.fab = s.net.fab := by
  obtain ⟨_, h⟩ := s.postTo_shape p e; rw [h]; rfl
@[simp] theorem State.postTo_net_fabCounters (p : PartId) (e : Event) : (s.postTo p e).net.fabCounters = s.net.fabCounters := by
  obtain ⟨_, h⟩ := s.postTo_shape p e; rw [h]; rfl
@[simp] theorem State.postTo_net_tx (p : PartId) (e : Event) : (s.postTo p e).net.tx = s.net.tx := by
  obtain ⟨_, h⟩ := s.postTo_shape p e; rw [h]; rfl
@[simp] theorem State.postTo_net_rx (p : PartId) (e : Event) : (s.postTo p e).net.rx = s.net.rx := by
  obtain ⟨_, h⟩ := s.postTo_shape p e; rw [h]; rfl
@[simp] theorem State.postTo_net_viols (p : PartId) (e : Event) : (s.postTo p e).net.viols = s.net.viols := by
  obtain ⟨_, h⟩ := s.postTo_shape p e; rw [h]; rfl
@[simp] theorem State.postTo_net_quarantined (p : PartId) (e : Event) : (s.postTo p e).net.quarantined = s.net.quarantined := by
  obtain ⟨_, h⟩ := s.postTo_shape p e; rw [h]; rfl

@[simp] theorem State.postPart_flash (p : PartId) (e : Event) : (s.postPart p e).flash = s.flash := by
  obtain ⟨_, h⟩ := s.postPart_shape p e; rw [h]; rfl
@[simp] theorem State.postPart_plan (p : PartId) (e : Event) : (s.postPart p e).plan = s.plan := by
  obtain ⟨_, h⟩ := s.postPart_shape p e; rw [h]; rfl
@[simp] theorem State.postPart_planLocked (p : PartId) (e : Event) : (s.postPart p e).planLocked = s.planLocked := by
  obtain ⟨_, h⟩ := s.postPart_shape p e; rw [h]; rfl
@[simp] theorem State.postPart_board (p : PartId) (e : Event) : (s.postPart p e).board = s.board := by
  obtain ⟨_, h⟩ := s.postPart_shape p e; rw [h]; rfl
@[simp] theorem State.postPart_tb (p : PartId) (e : Event) : (s.postPart p e).tb = s.tb := by
  obtain ⟨_, h⟩ := s.postPart_shape p e; rw [h]; rfl
@[simp] theorem State.postPart_coord (p : PartId) (e : Event) : (s.postPart p e).coord = s.coord := by
  obtain ⟨_, h⟩ := s.postPart_shape p e; rw [h]; rfl
@[simp] theorem State.postPart_power (p : PartId) (e : Event) : (s.postPart p e).power = s.power := by
  obtain ⟨_, h⟩ := s.postPart_shape p e; rw [h]; rfl
@[simp] theorem State.postPart_fw (p : PartId) (e : Event) : (s.postPart p e).fw = s.fw := by
  obtain ⟨_, h⟩ := s.postPart_shape p e; rw [h]; rfl
@[simp] theorem State.postPart_report (p : PartId) (e : Event) : (s.postPart p e).report = s.report := by
  obtain ⟨_, h⟩ := s.postPart_shape p e; rw [h]; rfl
@[simp] theorem State.postPart_cfg (p : PartId) (e : Event) : (s.postPart p e).cfg = s.cfg := by
  obtain ⟨_, h⟩ := s.postPart_shape p e; rw [h]; rfl
@[simp] theorem State.postPart_graphs (p : PartId) (e : Event) : (s.postPart p e).graphs = s.graphs := by
  obtain ⟨_, h⟩ := s.postPart_shape p e; rw [h]; rfl
@[simp] theorem State.postPart_nextGref (p : PartId) (e : Event) : (s.postPart p e).nextGref = s.nextGref := by
  obtain ⟨_, h⟩ := s.postPart_shape p e; rw [h]; rfl
@[simp] theorem State.postPart_blocks (p : PartId) (e : Event) : (s.postPart p e).blocks = s.blocks := by
  obtain ⟨_, h⟩ := s.postPart_shape p e; rw [h]; rfl
@[simp] theorem State.postPart_jobs (p : PartId) (e : Event) : (s.postPart p e).jobs = s.jobs := by
  obtain ⟨_, h⟩ := s.postPart_shape p e; rw [h]; rfl
@[simp] theorem State.postPart_active (p : PartId) (e : Event) : (s.postPart p e).active = s.active := by
  obtain ⟨_, h⟩ := s.postPart_shape p e; rw [h]; rfl
@[simp] theorem State.postPart_cmds (p : PartId) (e : Event) : (s.postPart p e).cmds = s.cmds := by
  obtain ⟨_, h⟩ := s.postPart_shape p e; rw [h]; rfl
@[simp] theorem State.postPart_shipsOut (p : PartId) (e : Event) : (s.postPart p e).shipsOut = s.shipsOut := by
  obtain ⟨_, h⟩ := s.postPart_shape p e; rw [h]; rfl
@[simp] theorem State.postPart_shipsIn (p : PartId) (e : Event) : (s.postPart p e).shipsIn = s.shipsIn := by
  obtain ⟨_, h⟩ := s.postPart_shape p e; rw [h]; rfl
@[simp] theorem State.postPart_cells (p : PartId) (e : Event) : (s.postPart p e).cells = s.cells := by
  obtain ⟨_, h⟩ := s.postPart_shape p e; rw [h]; rfl
@[simp] theorem State.postPart_fenced (p : PartId) (e : Event) : (s.postPart p e).fenced = s.fenced := by
  obtain ⟨_, h⟩ := s.postPart_shape p e; rw [h]; rfl
@[simp] theorem State.postPart_fencedDma (p : PartId) (e : Event) : (s.postPart p e).fencedDma = s.fencedDma := by
  obtain ⟨_, h⟩ := s.postPart_shape p e; rw [h]; rfl
@[simp] theorem State.postPart_haltedDma (p : PartId) (e : Event) : (s.postPart p e).haltedDma = s.haltedDma := by
  obtain ⟨_, h⟩ := s.postPart_shape p e; rw [h]; rfl
@[simp] theorem State.postPart_contexts (p : PartId) (e : Event) : (s.postPart p e).contexts = s.contexts := by
  obtain ⟨_, h⟩ := s.postPart_shape p e; rw [h]; rfl
@[simp] theorem State.postPart_waitingReds (p : PartId) (e : Event) : (s.postPart p e).waitingReds = s.waitingReds := by
  obtain ⟨_, h⟩ := s.postPart_shape p e; rw [h]; rfl
@[simp] theorem State.postPart_moduleSums (p : PartId) (e : Event) : (s.postPart p e).moduleSums = s.moduleSums := by
  obtain ⟨_, h⟩ := s.postPart_shape p e; rw [h]; rfl
@[simp] theorem State.postPart_hbm (p : PartId) (e : Event) : (s.postPart p e).hbm = s.hbm := by
  obtain ⟨_, h⟩ := s.postPart_shape p e; rw [h]; rfl
@[simp] theorem State.postPart_counters (p : PartId) (e : Event) : (s.postPart p e).counters = s.counters := by
  obtain ⟨_, h⟩ := s.postPart_shape p e; rw [h]; rfl
@[simp] theorem State.postPart_draws (p : PartId) (e : Event) : (s.postPart p e).draws = s.draws := by
  obtain ⟨_, h⟩ := s.postPart_shape p e; rw [h]; rfl
@[simp] theorem State.postPart_pending (p : PartId) (e : Event) : (s.postPart p e).pending = s.pending := by
  obtain ⟨_, h⟩ := s.postPart_shape p e; rw [h]; rfl
@[simp] theorem State.postPart_net_fab (p : PartId) (e : Event) : (s.postPart p e).net.fab = s.net.fab := by
  obtain ⟨_, h⟩ := s.postPart_shape p e; rw [h]; rfl
@[simp] theorem State.postPart_net_fabCounters (p : PartId) (e : Event) : (s.postPart p e).net.fabCounters = s.net.fabCounters := by
  obtain ⟨_, h⟩ := s.postPart_shape p e; rw [h]; rfl
@[simp] theorem State.postPart_net_tx (p : PartId) (e : Event) : (s.postPart p e).net.tx = s.net.tx := by
  obtain ⟨_, h⟩ := s.postPart_shape p e; rw [h]; rfl
@[simp] theorem State.postPart_net_rx (p : PartId) (e : Event) : (s.postPart p e).net.rx = s.net.rx := by
  obtain ⟨_, h⟩ := s.postPart_shape p e; rw [h]; rfl
@[simp] theorem State.postPart_net_viols (p : PartId) (e : Event) : (s.postPart p e).net.viols = s.net.viols := by
  obtain ⟨_, h⟩ := s.postPart_shape p e; rw [h]; rfl
@[simp] theorem State.postPart_net_quarantined (p : PartId) (e : Event) : (s.postPart p e).net.quarantined = s.net.quarantined := by
  obtain ⟨_, h⟩ := s.postPart_shape p e; rw [h]; rfl

@[simp] theorem State.postParts_flash (ps : List PartId) (e : Event) : (s.postParts ps e).flash = s.flash := by
  obtain ⟨_, h⟩ := s.postParts_shape ps e; rw [h]; rfl
@[simp] theorem State.postParts_plan (ps : List PartId) (e : Event) : (s.postParts ps e).plan = s.plan := by
  obtain ⟨_, h⟩ := s.postParts_shape ps e; rw [h]; rfl
@[simp] theorem State.postParts_planLocked (ps : List PartId) (e : Event) : (s.postParts ps e).planLocked = s.planLocked := by
  obtain ⟨_, h⟩ := s.postParts_shape ps e; rw [h]; rfl
@[simp] theorem State.postParts_board (ps : List PartId) (e : Event) : (s.postParts ps e).board = s.board := by
  obtain ⟨_, h⟩ := s.postParts_shape ps e; rw [h]; rfl
@[simp] theorem State.postParts_tb (ps : List PartId) (e : Event) : (s.postParts ps e).tb = s.tb := by
  obtain ⟨_, h⟩ := s.postParts_shape ps e; rw [h]; rfl
@[simp] theorem State.postParts_coord (ps : List PartId) (e : Event) : (s.postParts ps e).coord = s.coord := by
  obtain ⟨_, h⟩ := s.postParts_shape ps e; rw [h]; rfl
@[simp] theorem State.postParts_power (ps : List PartId) (e : Event) : (s.postParts ps e).power = s.power := by
  obtain ⟨_, h⟩ := s.postParts_shape ps e; rw [h]; rfl
@[simp] theorem State.postParts_fw (ps : List PartId) (e : Event) : (s.postParts ps e).fw = s.fw := by
  obtain ⟨_, h⟩ := s.postParts_shape ps e; rw [h]; rfl
@[simp] theorem State.postParts_report (ps : List PartId) (e : Event) : (s.postParts ps e).report = s.report := by
  obtain ⟨_, h⟩ := s.postParts_shape ps e; rw [h]; rfl
@[simp] theorem State.postParts_cfg (ps : List PartId) (e : Event) : (s.postParts ps e).cfg = s.cfg := by
  obtain ⟨_, h⟩ := s.postParts_shape ps e; rw [h]; rfl
@[simp] theorem State.postParts_graphs (ps : List PartId) (e : Event) : (s.postParts ps e).graphs = s.graphs := by
  obtain ⟨_, h⟩ := s.postParts_shape ps e; rw [h]; rfl
@[simp] theorem State.postParts_nextGref (ps : List PartId) (e : Event) : (s.postParts ps e).nextGref = s.nextGref := by
  obtain ⟨_, h⟩ := s.postParts_shape ps e; rw [h]; rfl
@[simp] theorem State.postParts_blocks (ps : List PartId) (e : Event) : (s.postParts ps e).blocks = s.blocks := by
  obtain ⟨_, h⟩ := s.postParts_shape ps e; rw [h]; rfl
@[simp] theorem State.postParts_jobs (ps : List PartId) (e : Event) : (s.postParts ps e).jobs = s.jobs := by
  obtain ⟨_, h⟩ := s.postParts_shape ps e; rw [h]; rfl
@[simp] theorem State.postParts_active (ps : List PartId) (e : Event) : (s.postParts ps e).active = s.active := by
  obtain ⟨_, h⟩ := s.postParts_shape ps e; rw [h]; rfl
@[simp] theorem State.postParts_cmds (ps : List PartId) (e : Event) : (s.postParts ps e).cmds = s.cmds := by
  obtain ⟨_, h⟩ := s.postParts_shape ps e; rw [h]; rfl
@[simp] theorem State.postParts_shipsOut (ps : List PartId) (e : Event) : (s.postParts ps e).shipsOut = s.shipsOut := by
  obtain ⟨_, h⟩ := s.postParts_shape ps e; rw [h]; rfl
@[simp] theorem State.postParts_shipsIn (ps : List PartId) (e : Event) : (s.postParts ps e).shipsIn = s.shipsIn := by
  obtain ⟨_, h⟩ := s.postParts_shape ps e; rw [h]; rfl
@[simp] theorem State.postParts_cells (ps : List PartId) (e : Event) : (s.postParts ps e).cells = s.cells := by
  obtain ⟨_, h⟩ := s.postParts_shape ps e; rw [h]; rfl
@[simp] theorem State.postParts_fenced (ps : List PartId) (e : Event) : (s.postParts ps e).fenced = s.fenced := by
  obtain ⟨_, h⟩ := s.postParts_shape ps e; rw [h]; rfl
@[simp] theorem State.postParts_fencedDma (ps : List PartId) (e : Event) : (s.postParts ps e).fencedDma = s.fencedDma := by
  obtain ⟨_, h⟩ := s.postParts_shape ps e; rw [h]; rfl
@[simp] theorem State.postParts_haltedDma (ps : List PartId) (e : Event) : (s.postParts ps e).haltedDma = s.haltedDma := by
  obtain ⟨_, h⟩ := s.postParts_shape ps e; rw [h]; rfl
@[simp] theorem State.postParts_contexts (ps : List PartId) (e : Event) : (s.postParts ps e).contexts = s.contexts := by
  obtain ⟨_, h⟩ := s.postParts_shape ps e; rw [h]; rfl
@[simp] theorem State.postParts_waitingReds (ps : List PartId) (e : Event) : (s.postParts ps e).waitingReds = s.waitingReds := by
  obtain ⟨_, h⟩ := s.postParts_shape ps e; rw [h]; rfl
@[simp] theorem State.postParts_moduleSums (ps : List PartId) (e : Event) : (s.postParts ps e).moduleSums = s.moduleSums := by
  obtain ⟨_, h⟩ := s.postParts_shape ps e; rw [h]; rfl
@[simp] theorem State.postParts_hbm (ps : List PartId) (e : Event) : (s.postParts ps e).hbm = s.hbm := by
  obtain ⟨_, h⟩ := s.postParts_shape ps e; rw [h]; rfl
@[simp] theorem State.postParts_counters (ps : List PartId) (e : Event) : (s.postParts ps e).counters = s.counters := by
  obtain ⟨_, h⟩ := s.postParts_shape ps e; rw [h]; rfl
@[simp] theorem State.postParts_draws (ps : List PartId) (e : Event) : (s.postParts ps e).draws = s.draws := by
  obtain ⟨_, h⟩ := s.postParts_shape ps e; rw [h]; rfl
@[simp] theorem State.postParts_pending (ps : List PartId) (e : Event) : (s.postParts ps e).pending = s.pending := by
  obtain ⟨_, h⟩ := s.postParts_shape ps e; rw [h]; rfl
@[simp] theorem State.postParts_net_fab (ps : List PartId) (e : Event) : (s.postParts ps e).net.fab = s.net.fab := by
  obtain ⟨_, h⟩ := s.postParts_shape ps e; rw [h]; rfl
@[simp] theorem State.postParts_net_fabCounters (ps : List PartId) (e : Event) : (s.postParts ps e).net.fabCounters = s.net.fabCounters := by
  obtain ⟨_, h⟩ := s.postParts_shape ps e; rw [h]; rfl
@[simp] theorem State.postParts_net_tx (ps : List PartId) (e : Event) : (s.postParts ps e).net.tx = s.net.tx := by
  obtain ⟨_, h⟩ := s.postParts_shape ps e; rw [h]; rfl
@[simp] theorem State.postParts_net_rx (ps : List PartId) (e : Event) : (s.postParts ps e).net.rx = s.net.rx := by
  obtain ⟨_, h⟩ := s.postParts_shape ps e; rw [h]; rfl
@[simp] theorem State.postParts_net_viols (ps : List PartId) (e : Event) : (s.postParts ps e).net.viols = s.net.viols := by
  obtain ⟨_, h⟩ := s.postParts_shape ps e; rw [h]; rfl
@[simp] theorem State.postParts_net_quarantined (ps : List PartId) (e : Event) : (s.postParts ps e).net.quarantined = s.net.quarantined := by
  obtain ⟨_, h⟩ := s.postParts_shape ps e; rw [h]; rfl

@[simp] theorem State.postModule_flash (e : Event) : (s.postModule e).flash = s.flash := by
  obtain ⟨_, h⟩ := s.postModule_shape e; rw [h]; rfl
@[simp] theorem State.postModule_plan (e : Event) : (s.postModule e).plan = s.plan := by
  obtain ⟨_, h⟩ := s.postModule_shape e; rw [h]; rfl
@[simp] theorem State.postModule_planLocked (e : Event) : (s.postModule e).planLocked = s.planLocked := by
  obtain ⟨_, h⟩ := s.postModule_shape e; rw [h]; rfl
@[simp] theorem State.postModule_board (e : Event) : (s.postModule e).board = s.board := by
  obtain ⟨_, h⟩ := s.postModule_shape e; rw [h]; rfl
@[simp] theorem State.postModule_tb (e : Event) : (s.postModule e).tb = s.tb := by
  obtain ⟨_, h⟩ := s.postModule_shape e; rw [h]; rfl
@[simp] theorem State.postModule_coord (e : Event) : (s.postModule e).coord = s.coord := by
  obtain ⟨_, h⟩ := s.postModule_shape e; rw [h]; rfl
@[simp] theorem State.postModule_power (e : Event) : (s.postModule e).power = s.power := by
  obtain ⟨_, h⟩ := s.postModule_shape e; rw [h]; rfl
@[simp] theorem State.postModule_fw (e : Event) : (s.postModule e).fw = s.fw := by
  obtain ⟨_, h⟩ := s.postModule_shape e; rw [h]; rfl
@[simp] theorem State.postModule_report (e : Event) : (s.postModule e).report = s.report := by
  obtain ⟨_, h⟩ := s.postModule_shape e; rw [h]; rfl
@[simp] theorem State.postModule_cfg (e : Event) : (s.postModule e).cfg = s.cfg := by
  obtain ⟨_, h⟩ := s.postModule_shape e; rw [h]; rfl
@[simp] theorem State.postModule_graphs (e : Event) : (s.postModule e).graphs = s.graphs := by
  obtain ⟨_, h⟩ := s.postModule_shape e; rw [h]; rfl
@[simp] theorem State.postModule_nextGref (e : Event) : (s.postModule e).nextGref = s.nextGref := by
  obtain ⟨_, h⟩ := s.postModule_shape e; rw [h]; rfl
@[simp] theorem State.postModule_blocks (e : Event) : (s.postModule e).blocks = s.blocks := by
  obtain ⟨_, h⟩ := s.postModule_shape e; rw [h]; rfl
@[simp] theorem State.postModule_jobs (e : Event) : (s.postModule e).jobs = s.jobs := by
  obtain ⟨_, h⟩ := s.postModule_shape e; rw [h]; rfl
@[simp] theorem State.postModule_active (e : Event) : (s.postModule e).active = s.active := by
  obtain ⟨_, h⟩ := s.postModule_shape e; rw [h]; rfl
@[simp] theorem State.postModule_cmds (e : Event) : (s.postModule e).cmds = s.cmds := by
  obtain ⟨_, h⟩ := s.postModule_shape e; rw [h]; rfl
@[simp] theorem State.postModule_shipsOut (e : Event) : (s.postModule e).shipsOut = s.shipsOut := by
  obtain ⟨_, h⟩ := s.postModule_shape e; rw [h]; rfl
@[simp] theorem State.postModule_shipsIn (e : Event) : (s.postModule e).shipsIn = s.shipsIn := by
  obtain ⟨_, h⟩ := s.postModule_shape e; rw [h]; rfl
@[simp] theorem State.postModule_cells (e : Event) : (s.postModule e).cells = s.cells := by
  obtain ⟨_, h⟩ := s.postModule_shape e; rw [h]; rfl
@[simp] theorem State.postModule_fenced (e : Event) : (s.postModule e).fenced = s.fenced := by
  obtain ⟨_, h⟩ := s.postModule_shape e; rw [h]; rfl
@[simp] theorem State.postModule_fencedDma (e : Event) : (s.postModule e).fencedDma = s.fencedDma := by
  obtain ⟨_, h⟩ := s.postModule_shape e; rw [h]; rfl
@[simp] theorem State.postModule_haltedDma (e : Event) : (s.postModule e).haltedDma = s.haltedDma := by
  obtain ⟨_, h⟩ := s.postModule_shape e; rw [h]; rfl
@[simp] theorem State.postModule_contexts (e : Event) : (s.postModule e).contexts = s.contexts := by
  obtain ⟨_, h⟩ := s.postModule_shape e; rw [h]; rfl
@[simp] theorem State.postModule_waitingReds (e : Event) : (s.postModule e).waitingReds = s.waitingReds := by
  obtain ⟨_, h⟩ := s.postModule_shape e; rw [h]; rfl
@[simp] theorem State.postModule_moduleSums (e : Event) : (s.postModule e).moduleSums = s.moduleSums := by
  obtain ⟨_, h⟩ := s.postModule_shape e; rw [h]; rfl
@[simp] theorem State.postModule_hbm (e : Event) : (s.postModule e).hbm = s.hbm := by
  obtain ⟨_, h⟩ := s.postModule_shape e; rw [h]; rfl
@[simp] theorem State.postModule_counters (e : Event) : (s.postModule e).counters = s.counters := by
  obtain ⟨_, h⟩ := s.postModule_shape e; rw [h]; rfl
@[simp] theorem State.postModule_draws (e : Event) : (s.postModule e).draws = s.draws := by
  obtain ⟨_, h⟩ := s.postModule_shape e; rw [h]; rfl
@[simp] theorem State.postModule_pending (e : Event) : (s.postModule e).pending = s.pending := by
  obtain ⟨_, h⟩ := s.postModule_shape e; rw [h]; rfl
@[simp] theorem State.postModule_net_fab (e : Event) : (s.postModule e).net.fab = s.net.fab := by
  obtain ⟨_, h⟩ := s.postModule_shape e; rw [h]; rfl
@[simp] theorem State.postModule_net_fabCounters (e : Event) : (s.postModule e).net.fabCounters = s.net.fabCounters := by
  obtain ⟨_, h⟩ := s.postModule_shape e; rw [h]; rfl
@[simp] theorem State.postModule_net_tx (e : Event) : (s.postModule e).net.tx = s.net.tx := by
  obtain ⟨_, h⟩ := s.postModule_shape e; rw [h]; rfl
@[simp] theorem State.postModule_net_rx (e : Event) : (s.postModule e).net.rx = s.net.rx := by
  obtain ⟨_, h⟩ := s.postModule_shape e; rw [h]; rfl
@[simp] theorem State.postModule_net_viols (e : Event) : (s.postModule e).net.viols = s.net.viols := by
  obtain ⟨_, h⟩ := s.postModule_shape e; rw [h]; rfl
@[simp] theorem State.postModule_net_quarantined (e : Event) : (s.postModule e).net.quarantined = s.net.quarantined := by
  obtain ⟨_, h⟩ := s.postModule_shape e; rw [h]; rfl

@[simp] theorem State.slotWrite_flash (p : PartId) (k : Nat) (bs : Bytes) : (s.slotWrite p k bs).flash = s.flash := by
  obtain ⟨_, h⟩ := s.slotWrite_shape p k bs; rw [h]; rfl
@[simp] theorem State.slotWrite_plan (p : PartId) (k : Nat) (bs : Bytes) : (s.slotWrite p k bs).plan = s.plan := by
  obtain ⟨_, h⟩ := s.slotWrite_shape p k bs; rw [h]; rfl
@[simp] theorem State.slotWrite_planLocked (p : PartId) (k : Nat) (bs : Bytes) : (s.slotWrite p k bs).planLocked = s.planLocked := by
  obtain ⟨_, h⟩ := s.slotWrite_shape p k bs; rw [h]; rfl
@[simp] theorem State.slotWrite_board (p : PartId) (k : Nat) (bs : Bytes) : (s.slotWrite p k bs).board = s.board := by
  obtain ⟨_, h⟩ := s.slotWrite_shape p k bs; rw [h]; rfl
@[simp] theorem State.slotWrite_tb (p : PartId) (k : Nat) (bs : Bytes) : (s.slotWrite p k bs).tb = s.tb := by
  obtain ⟨_, h⟩ := s.slotWrite_shape p k bs; rw [h]; rfl
@[simp] theorem State.slotWrite_coord (p : PartId) (k : Nat) (bs : Bytes) : (s.slotWrite p k bs).coord = s.coord := by
  obtain ⟨_, h⟩ := s.slotWrite_shape p k bs; rw [h]; rfl
@[simp] theorem State.slotWrite_power (p : PartId) (k : Nat) (bs : Bytes) : (s.slotWrite p k bs).power = s.power := by
  obtain ⟨_, h⟩ := s.slotWrite_shape p k bs; rw [h]; rfl
@[simp] theorem State.slotWrite_fw (p : PartId) (k : Nat) (bs : Bytes) : (s.slotWrite p k bs).fw = s.fw := by
  obtain ⟨_, h⟩ := s.slotWrite_shape p k bs; rw [h]; rfl
@[simp] theorem State.slotWrite_report (p : PartId) (k : Nat) (bs : Bytes) : (s.slotWrite p k bs).report = s.report := by
  obtain ⟨_, h⟩ := s.slotWrite_shape p k bs; rw [h]; rfl
@[simp] theorem State.slotWrite_cfg (p : PartId) (k : Nat) (bs : Bytes) : (s.slotWrite p k bs).cfg = s.cfg := by
  obtain ⟨_, h⟩ := s.slotWrite_shape p k bs; rw [h]; rfl
@[simp] theorem State.slotWrite_graphs (p : PartId) (k : Nat) (bs : Bytes) : (s.slotWrite p k bs).graphs = s.graphs := by
  obtain ⟨_, h⟩ := s.slotWrite_shape p k bs; rw [h]; rfl
@[simp] theorem State.slotWrite_nextGref (p : PartId) (k : Nat) (bs : Bytes) : (s.slotWrite p k bs).nextGref = s.nextGref := by
  obtain ⟨_, h⟩ := s.slotWrite_shape p k bs; rw [h]; rfl
@[simp] theorem State.slotWrite_blocks (p : PartId) (k : Nat) (bs : Bytes) : (s.slotWrite p k bs).blocks = s.blocks := by
  obtain ⟨_, h⟩ := s.slotWrite_shape p k bs; rw [h]; rfl
@[simp] theorem State.slotWrite_jobs (p : PartId) (k : Nat) (bs : Bytes) : (s.slotWrite p k bs).jobs = s.jobs := by
  obtain ⟨_, h⟩ := s.slotWrite_shape p k bs; rw [h]; rfl
@[simp] theorem State.slotWrite_active (p : PartId) (k : Nat) (bs : Bytes) : (s.slotWrite p k bs).active = s.active := by
  obtain ⟨_, h⟩ := s.slotWrite_shape p k bs; rw [h]; rfl
@[simp] theorem State.slotWrite_shipsOut (p : PartId) (k : Nat) (bs : Bytes) : (s.slotWrite p k bs).shipsOut = s.shipsOut := by
  obtain ⟨_, h⟩ := s.slotWrite_shape p k bs; rw [h]; rfl
@[simp] theorem State.slotWrite_shipsIn (p : PartId) (k : Nat) (bs : Bytes) : (s.slotWrite p k bs).shipsIn = s.shipsIn := by
  obtain ⟨_, h⟩ := s.slotWrite_shape p k bs; rw [h]; rfl
@[simp] theorem State.slotWrite_cells (p : PartId) (k : Nat) (bs : Bytes) : (s.slotWrite p k bs).cells = s.cells := by
  obtain ⟨_, h⟩ := s.slotWrite_shape p k bs; rw [h]; rfl
@[simp] theorem State.slotWrite_fenced (p : PartId) (k : Nat) (bs : Bytes) : (s.slotWrite p k bs).fenced = s.fenced := by
  obtain ⟨_, h⟩ := s.slotWrite_shape p k bs; rw [h]; rfl
@[simp] theorem State.slotWrite_fencedDma (p : PartId) (k : Nat) (bs : Bytes) : (s.slotWrite p k bs).fencedDma = s.fencedDma := by
  obtain ⟨_, h⟩ := s.slotWrite_shape p k bs; rw [h]; rfl
@[simp] theorem State.slotWrite_haltedDma (p : PartId) (k : Nat) (bs : Bytes) : (s.slotWrite p k bs).haltedDma = s.haltedDma := by
  obtain ⟨_, h⟩ := s.slotWrite_shape p k bs; rw [h]; rfl
@[simp] theorem State.slotWrite_contexts (p : PartId) (k : Nat) (bs : Bytes) : (s.slotWrite p k bs).contexts = s.contexts := by
  obtain ⟨_, h⟩ := s.slotWrite_shape p k bs; rw [h]; rfl
@[simp] theorem State.slotWrite_waitingReds (p : PartId) (k : Nat) (bs : Bytes) : (s.slotWrite p k bs).waitingReds = s.waitingReds := by
  obtain ⟨_, h⟩ := s.slotWrite_shape p k bs; rw [h]; rfl
@[simp] theorem State.slotWrite_moduleSums (p : PartId) (k : Nat) (bs : Bytes) : (s.slotWrite p k bs).moduleSums = s.moduleSums := by
  obtain ⟨_, h⟩ := s.slotWrite_shape p k bs; rw [h]; rfl
@[simp] theorem State.slotWrite_draws (p : PartId) (k : Nat) (bs : Bytes) : (s.slotWrite p k bs).draws = s.draws := by
  obtain ⟨_, h⟩ := s.slotWrite_shape p k bs; rw [h]; rfl
@[simp] theorem State.slotWrite_pending (p : PartId) (k : Nat) (bs : Bytes) : (s.slotWrite p k bs).pending = s.pending := by
  obtain ⟨_, h⟩ := s.slotWrite_shape p k bs; rw [h]; rfl
@[simp] theorem State.slotWrite_net_fab (p : PartId) (k : Nat) (bs : Bytes) : (s.slotWrite p k bs).net.fab = s.net.fab := by
  obtain ⟨_, h⟩ := s.slotWrite_shape p k bs; rw [h]; rfl
@[simp] theorem State.slotWrite_net_fabCounters (p : PartId) (k : Nat) (bs : Bytes) : (s.slotWrite p k bs).net.fabCounters = s.net.fabCounters := by
  obtain ⟨_, h⟩ := s.slotWrite_shape p k bs; rw [h]; rfl
@[simp] theorem State.slotWrite_net_tx (p : PartId) (k : Nat) (bs : Bytes) : (s.slotWrite p k bs).net.tx = s.net.tx := by
  obtain ⟨_, h⟩ := s.slotWrite_shape p k bs; rw [h]; rfl
@[simp] theorem State.slotWrite_net_rx (p : PartId) (k : Nat) (bs : Bytes) : (s.slotWrite p k bs).net.rx = s.net.rx := by
  obtain ⟨_, h⟩ := s.slotWrite_shape p k bs; rw [h]; rfl
@[simp] theorem State.slotWrite_net_viols (p : PartId) (k : Nat) (bs : Bytes) : (s.slotWrite p k bs).net.viols = s.net.viols := by
  obtain ⟨_, h⟩ := s.slotWrite_shape p k bs; rw [h]; rfl
@[simp] theorem State.slotWrite_net_quarantined (p : PartId) (k : Nat) (bs : Bytes) : (s.slotWrite p k bs).net.quarantined = s.net.quarantined := by
  obtain ⟨_, h⟩ := s.slotWrite_shape p k bs; rw [h]; rfl

@[simp] theorem State.returnSlots_flash (p : PartId) (ks : List Nat) : (s.returnSlots p ks).flash = s.flash := by
  obtain ⟨_, h⟩ := s.returnSlots_shape p ks; rw [h]; rfl
@[simp] theorem State.returnSlots_plan (p : PartId) (ks : List Nat) : (s.returnSlots p ks).plan = s.plan := by
  obtain ⟨_, h⟩ := s.returnSlots_shape p ks; rw [h]; rfl
@[simp] theorem State.returnSlots_planLocked (p : PartId) (ks : List Nat) : (s.returnSlots p ks).planLocked = s.planLocked := by
  obtain ⟨_, h⟩ := s.returnSlots_shape p ks; rw [h]; rfl
@[simp] theorem State.returnSlots_board (p : PartId) (ks : List Nat) : (s.returnSlots p ks).board = s.board := by
  obtain ⟨_, h⟩ := s.returnSlots_shape p ks; rw [h]; rfl
@[simp] theorem State.returnSlots_tb (p : PartId) (ks : List Nat) : (s.returnSlots p ks).tb = s.tb := by
  obtain ⟨_, h⟩ := s.returnSlots_shape p ks; rw [h]; rfl
@[simp] theorem State.returnSlots_coord (p : PartId) (ks : List Nat) : (s.returnSlots p ks).coord = s.coord := by
  obtain ⟨_, h⟩ := s.returnSlots_shape p ks; rw [h]; rfl
@[simp] theorem State.returnSlots_power (p : PartId) (ks : List Nat) : (s.returnSlots p ks).power = s.power := by
  obtain ⟨_, h⟩ := s.returnSlots_shape p ks; rw [h]; rfl
@[simp] theorem State.returnSlots_fw (p : PartId) (ks : List Nat) : (s.returnSlots p ks).fw = s.fw := by
  obtain ⟨_, h⟩ := s.returnSlots_shape p ks; rw [h]; rfl
@[simp] theorem State.returnSlots_report (p : PartId) (ks : List Nat) : (s.returnSlots p ks).report = s.report := by
  obtain ⟨_, h⟩ := s.returnSlots_shape p ks; rw [h]; rfl
@[simp] theorem State.returnSlots_cfg (p : PartId) (ks : List Nat) : (s.returnSlots p ks).cfg = s.cfg := by
  obtain ⟨_, h⟩ := s.returnSlots_shape p ks; rw [h]; rfl
@[simp] theorem State.returnSlots_graphs (p : PartId) (ks : List Nat) : (s.returnSlots p ks).graphs = s.graphs := by
  obtain ⟨_, h⟩ := s.returnSlots_shape p ks; rw [h]; rfl
@[simp] theorem State.returnSlots_nextGref (p : PartId) (ks : List Nat) : (s.returnSlots p ks).nextGref = s.nextGref := by
  obtain ⟨_, h⟩ := s.returnSlots_shape p ks; rw [h]; rfl
@[simp] theorem State.returnSlots_blocks (p : PartId) (ks : List Nat) : (s.returnSlots p ks).blocks = s.blocks := by
  obtain ⟨_, h⟩ := s.returnSlots_shape p ks; rw [h]; rfl
@[simp] theorem State.returnSlots_jobs (p : PartId) (ks : List Nat) : (s.returnSlots p ks).jobs = s.jobs := by
  obtain ⟨_, h⟩ := s.returnSlots_shape p ks; rw [h]; rfl
@[simp] theorem State.returnSlots_active (p : PartId) (ks : List Nat) : (s.returnSlots p ks).active = s.active := by
  obtain ⟨_, h⟩ := s.returnSlots_shape p ks; rw [h]; rfl
@[simp] theorem State.returnSlots_shipsOut (p : PartId) (ks : List Nat) : (s.returnSlots p ks).shipsOut = s.shipsOut := by
  obtain ⟨_, h⟩ := s.returnSlots_shape p ks; rw [h]; rfl
@[simp] theorem State.returnSlots_shipsIn (p : PartId) (ks : List Nat) : (s.returnSlots p ks).shipsIn = s.shipsIn := by
  obtain ⟨_, h⟩ := s.returnSlots_shape p ks; rw [h]; rfl
@[simp] theorem State.returnSlots_cells (p : PartId) (ks : List Nat) : (s.returnSlots p ks).cells = s.cells := by
  obtain ⟨_, h⟩ := s.returnSlots_shape p ks; rw [h]; rfl
@[simp] theorem State.returnSlots_fenced (p : PartId) (ks : List Nat) : (s.returnSlots p ks).fenced = s.fenced := by
  obtain ⟨_, h⟩ := s.returnSlots_shape p ks; rw [h]; rfl
@[simp] theorem State.returnSlots_fencedDma (p : PartId) (ks : List Nat) : (s.returnSlots p ks).fencedDma = s.fencedDma := by
  obtain ⟨_, h⟩ := s.returnSlots_shape p ks; rw [h]; rfl
@[simp] theorem State.returnSlots_haltedDma (p : PartId) (ks : List Nat) : (s.returnSlots p ks).haltedDma = s.haltedDma := by
  obtain ⟨_, h⟩ := s.returnSlots_shape p ks; rw [h]; rfl
@[simp] theorem State.returnSlots_contexts (p : PartId) (ks : List Nat) : (s.returnSlots p ks).contexts = s.contexts := by
  obtain ⟨_, h⟩ := s.returnSlots_shape p ks; rw [h]; rfl
@[simp] theorem State.returnSlots_waitingReds (p : PartId) (ks : List Nat) : (s.returnSlots p ks).waitingReds = s.waitingReds := by
  obtain ⟨_, h⟩ := s.returnSlots_shape p ks; rw [h]; rfl
@[simp] theorem State.returnSlots_moduleSums (p : PartId) (ks : List Nat) : (s.returnSlots p ks).moduleSums = s.moduleSums := by
  obtain ⟨_, h⟩ := s.returnSlots_shape p ks; rw [h]; rfl
@[simp] theorem State.returnSlots_draws (p : PartId) (ks : List Nat) : (s.returnSlots p ks).draws = s.draws := by
  obtain ⟨_, h⟩ := s.returnSlots_shape p ks; rw [h]; rfl
@[simp] theorem State.returnSlots_pending (p : PartId) (ks : List Nat) : (s.returnSlots p ks).pending = s.pending := by
  obtain ⟨_, h⟩ := s.returnSlots_shape p ks; rw [h]; rfl
@[simp] theorem State.returnSlots_net_fab (p : PartId) (ks : List Nat) : (s.returnSlots p ks).net.fab = s.net.fab := by
  obtain ⟨_, h⟩ := s.returnSlots_shape p ks; rw [h]; rfl
@[simp] theorem State.returnSlots_net_fabCounters (p : PartId) (ks : List Nat) : (s.returnSlots p ks).net.fabCounters = s.net.fabCounters := by
  obtain ⟨_, h⟩ := s.returnSlots_shape p ks; rw [h]; rfl
@[simp] theorem State.returnSlots_net_tx (p : PartId) (ks : List Nat) : (s.returnSlots p ks).net.tx = s.net.tx := by
  obtain ⟨_, h⟩ := s.returnSlots_shape p ks; rw [h]; rfl
@[simp] theorem State.returnSlots_net_rx (p : PartId) (ks : List Nat) : (s.returnSlots p ks).net.rx = s.net.rx := by
  obtain ⟨_, h⟩ := s.returnSlots_shape p ks; rw [h]; rfl
@[simp] theorem State.returnSlots_net_viols (p : PartId) (ks : List Nat) : (s.returnSlots p ks).net.viols = s.net.viols := by
  obtain ⟨_, h⟩ := s.returnSlots_shape p ks; rw [h]; rfl
@[simp] theorem State.returnSlots_net_quarantined (p : PartId) (ks : List Nat) : (s.returnSlots p ks).net.quarantined = s.net.quarantined := by
  obtain ⟨_, h⟩ := s.returnSlots_shape p ks; rw [h]; rfl

@[simp] theorem State.returnBox_flash (p : PartId) (m : BoxId) : (s.returnBox p m).flash = s.flash := by
  obtain ⟨_, h⟩ := s.returnBox_shape p m; rw [h]; rfl
@[simp] theorem State.returnBox_plan (p : PartId) (m : BoxId) : (s.returnBox p m).plan = s.plan := by
  obtain ⟨_, h⟩ := s.returnBox_shape p m; rw [h]; rfl
@[simp] theorem State.returnBox_planLocked (p : PartId) (m : BoxId) : (s.returnBox p m).planLocked = s.planLocked := by
  obtain ⟨_, h⟩ := s.returnBox_shape p m; rw [h]; rfl
@[simp] theorem State.returnBox_board (p : PartId) (m : BoxId) : (s.returnBox p m).board = s.board := by
  obtain ⟨_, h⟩ := s.returnBox_shape p m; rw [h]; rfl
@[simp] theorem State.returnBox_tb (p : PartId) (m : BoxId) : (s.returnBox p m).tb = s.tb := by
  obtain ⟨_, h⟩ := s.returnBox_shape p m; rw [h]; rfl
@[simp] theorem State.returnBox_coord (p : PartId) (m : BoxId) : (s.returnBox p m).coord = s.coord := by
  obtain ⟨_, h⟩ := s.returnBox_shape p m; rw [h]; rfl
@[simp] theorem State.returnBox_power (p : PartId) (m : BoxId) : (s.returnBox p m).power = s.power := by
  obtain ⟨_, h⟩ := s.returnBox_shape p m; rw [h]; rfl
@[simp] theorem State.returnBox_fw (p : PartId) (m : BoxId) : (s.returnBox p m).fw = s.fw := by
  obtain ⟨_, h⟩ := s.returnBox_shape p m; rw [h]; rfl
@[simp] theorem State.returnBox_report (p : PartId) (m : BoxId) : (s.returnBox p m).report = s.report := by
  obtain ⟨_, h⟩ := s.returnBox_shape p m; rw [h]; rfl
@[simp] theorem State.returnBox_cfg (p : PartId) (m : BoxId) : (s.returnBox p m).cfg = s.cfg := by
  obtain ⟨_, h⟩ := s.returnBox_shape p m; rw [h]; rfl
@[simp] theorem State.returnBox_graphs (p : PartId) (m : BoxId) : (s.returnBox p m).graphs = s.graphs := by
  obtain ⟨_, h⟩ := s.returnBox_shape p m; rw [h]; rfl
@[simp] theorem State.returnBox_nextGref (p : PartId) (m : BoxId) : (s.returnBox p m).nextGref = s.nextGref := by
  obtain ⟨_, h⟩ := s.returnBox_shape p m; rw [h]; rfl
@[simp] theorem State.returnBox_blocks (p : PartId) (m : BoxId) : (s.returnBox p m).blocks = s.blocks := by
  obtain ⟨_, h⟩ := s.returnBox_shape p m; rw [h]; rfl
@[simp] theorem State.returnBox_jobs (p : PartId) (m : BoxId) : (s.returnBox p m).jobs = s.jobs := by
  obtain ⟨_, h⟩ := s.returnBox_shape p m; rw [h]; rfl
@[simp] theorem State.returnBox_active (p : PartId) (m : BoxId) : (s.returnBox p m).active = s.active := by
  obtain ⟨_, h⟩ := s.returnBox_shape p m; rw [h]; rfl
@[simp] theorem State.returnBox_cmds (p : PartId) (m : BoxId) : (s.returnBox p m).cmds = s.cmds := by
  obtain ⟨_, h⟩ := s.returnBox_shape p m; rw [h]; rfl
@[simp] theorem State.returnBox_shipsOut (p : PartId) (m : BoxId) : (s.returnBox p m).shipsOut = s.shipsOut := by
  obtain ⟨_, h⟩ := s.returnBox_shape p m; rw [h]; rfl
@[simp] theorem State.returnBox_shipsIn (p : PartId) (m : BoxId) : (s.returnBox p m).shipsIn = s.shipsIn := by
  obtain ⟨_, h⟩ := s.returnBox_shape p m; rw [h]; rfl
@[simp] theorem State.returnBox_cells (p : PartId) (m : BoxId) : (s.returnBox p m).cells = s.cells := by
  obtain ⟨_, h⟩ := s.returnBox_shape p m; rw [h]; rfl
@[simp] theorem State.returnBox_fenced (p : PartId) (m : BoxId) : (s.returnBox p m).fenced = s.fenced := by
  obtain ⟨_, h⟩ := s.returnBox_shape p m; rw [h]; rfl
@[simp] theorem State.returnBox_fencedDma (p : PartId) (m : BoxId) : (s.returnBox p m).fencedDma = s.fencedDma := by
  obtain ⟨_, h⟩ := s.returnBox_shape p m; rw [h]; rfl
@[simp] theorem State.returnBox_haltedDma (p : PartId) (m : BoxId) : (s.returnBox p m).haltedDma = s.haltedDma := by
  obtain ⟨_, h⟩ := s.returnBox_shape p m; rw [h]; rfl
@[simp] theorem State.returnBox_contexts (p : PartId) (m : BoxId) : (s.returnBox p m).contexts = s.contexts := by
  obtain ⟨_, h⟩ := s.returnBox_shape p m; rw [h]; rfl
@[simp] theorem State.returnBox_waitingReds (p : PartId) (m : BoxId) : (s.returnBox p m).waitingReds = s.waitingReds := by
  obtain ⟨_, h⟩ := s.returnBox_shape p m; rw [h]; rfl
@[simp] theorem State.returnBox_moduleSums (p : PartId) (m : BoxId) : (s.returnBox p m).moduleSums = s.moduleSums := by
  obtain ⟨_, h⟩ := s.returnBox_shape p m; rw [h]; rfl
@[simp] theorem State.returnBox_hbm (p : PartId) (m : BoxId) : (s.returnBox p m).hbm = s.hbm := by
  obtain ⟨_, h⟩ := s.returnBox_shape p m; rw [h]; rfl
@[simp] theorem State.returnBox_counters (p : PartId) (m : BoxId) : (s.returnBox p m).counters = s.counters := by
  obtain ⟨_, h⟩ := s.returnBox_shape p m; rw [h]; rfl
@[simp] theorem State.returnBox_draws (p : PartId) (m : BoxId) : (s.returnBox p m).draws = s.draws := by
  obtain ⟨_, h⟩ := s.returnBox_shape p m; rw [h]; rfl
@[simp] theorem State.returnBox_pending (p : PartId) (m : BoxId) : (s.returnBox p m).pending = s.pending := by
  obtain ⟨_, h⟩ := s.returnBox_shape p m; rw [h]; rfl
@[simp] theorem State.returnBox_net_fab (p : PartId) (m : BoxId) : (s.returnBox p m).net.fab = s.net.fab := by
  obtain ⟨_, h⟩ := s.returnBox_shape p m; rw [h]; rfl
@[simp] theorem State.returnBox_net_fabCounters (p : PartId) (m : BoxId) : (s.returnBox p m).net.fabCounters = s.net.fabCounters := by
  obtain ⟨_, h⟩ := s.returnBox_shape p m; rw [h]; rfl
@[simp] theorem State.returnBox_net_tx (p : PartId) (m : BoxId) : (s.returnBox p m).net.tx = s.net.tx := by
  obtain ⟨_, h⟩ := s.returnBox_shape p m; rw [h]; rfl
@[simp] theorem State.returnBox_net_rx (p : PartId) (m : BoxId) : (s.returnBox p m).net.rx = s.net.rx := by
  obtain ⟨_, h⟩ := s.returnBox_shape p m; rw [h]; rfl
@[simp] theorem State.returnBox_net_viols (p : PartId) (m : BoxId) : (s.returnBox p m).net.viols = s.net.viols := by
  obtain ⟨_, h⟩ := s.returnBox_shape p m; rw [h]; rfl
@[simp] theorem State.returnBox_net_quarantined (p : PartId) (m : BoxId) : (s.returnBox p m).net.quarantined = s.net.quarantined := by
  obtain ⟨_, h⟩ := s.returnBox_shape p m; rw [h]; rfl

@[simp] theorem State.answer_flash (c : Cmd) (done : Nat) (r : Result) : (s.answer c done r).flash = s.flash := by
  obtain ⟨_, h⟩ := s.answer_shape c done r; rw [h]; rfl
@[simp] theorem State.answer_plan (c : Cmd) (done : Nat) (r : Result) : (s.answer c done r).plan = s.plan := by
  obtain ⟨_, h⟩ := s.answer_shape c done r; rw [h]; rfl
@[simp] theorem State.answer_planLocked (c : Cmd) (done : Nat) (r : Result) : (s.answer c done r).planLocked = s.planLocked := by
  obtain ⟨_, h⟩ := s.answer_shape c done r; rw [h]; rfl
@[simp] theorem State.answer_board (c : Cmd) (done : Nat) (r : Result) : (s.answer c done r).board = s.board := by
  obtain ⟨_, h⟩ := s.answer_shape c done r; rw [h]; rfl
@[simp] theorem State.answer_tb (c : Cmd) (done : Nat) (r : Result) : (s.answer c done r).tb = s.tb := by
  obtain ⟨_, h⟩ := s.answer_shape c done r; rw [h]; rfl
@[simp] theorem State.answer_coord (c : Cmd) (done : Nat) (r : Result) : (s.answer c done r).coord = s.coord := by
  obtain ⟨_, h⟩ := s.answer_shape c done r; rw [h]; rfl
@[simp] theorem State.answer_power (c : Cmd) (done : Nat) (r : Result) : (s.answer c done r).power = s.power := by
  obtain ⟨_, h⟩ := s.answer_shape c done r; rw [h]; rfl
@[simp] theorem State.answer_fw (c : Cmd) (done : Nat) (r : Result) : (s.answer c done r).fw = s.fw := by
  obtain ⟨_, h⟩ := s.answer_shape c done r; rw [h]; rfl
@[simp] theorem State.answer_report (c : Cmd) (done : Nat) (r : Result) : (s.answer c done r).report = s.report := by
  obtain ⟨_, h⟩ := s.answer_shape c done r; rw [h]; rfl
@[simp] theorem State.answer_cfg (c : Cmd) (done : Nat) (r : Result) : (s.answer c done r).cfg = s.cfg := by
  obtain ⟨_, h⟩ := s.answer_shape c done r; rw [h]; rfl
@[simp] theorem State.answer_graphs (c : Cmd) (done : Nat) (r : Result) : (s.answer c done r).graphs = s.graphs := by
  obtain ⟨_, h⟩ := s.answer_shape c done r; rw [h]; rfl
@[simp] theorem State.answer_nextGref (c : Cmd) (done : Nat) (r : Result) : (s.answer c done r).nextGref = s.nextGref := by
  obtain ⟨_, h⟩ := s.answer_shape c done r; rw [h]; rfl
@[simp] theorem State.answer_blocks (c : Cmd) (done : Nat) (r : Result) : (s.answer c done r).blocks = s.blocks := by
  obtain ⟨_, h⟩ := s.answer_shape c done r; rw [h]; rfl
@[simp] theorem State.answer_jobs (c : Cmd) (done : Nat) (r : Result) : (s.answer c done r).jobs = s.jobs := by
  obtain ⟨_, h⟩ := s.answer_shape c done r; rw [h]; rfl
@[simp] theorem State.answer_active (c : Cmd) (done : Nat) (r : Result) : (s.answer c done r).active = s.active := by
  obtain ⟨_, h⟩ := s.answer_shape c done r; rw [h]; rfl
@[simp] theorem State.answer_shipsOut (c : Cmd) (done : Nat) (r : Result) : (s.answer c done r).shipsOut = s.shipsOut := by
  obtain ⟨_, h⟩ := s.answer_shape c done r; rw [h]; rfl
@[simp] theorem State.answer_shipsIn (c : Cmd) (done : Nat) (r : Result) : (s.answer c done r).shipsIn = s.shipsIn := by
  obtain ⟨_, h⟩ := s.answer_shape c done r; rw [h]; rfl
@[simp] theorem State.answer_cells (c : Cmd) (done : Nat) (r : Result) : (s.answer c done r).cells = s.cells := by
  obtain ⟨_, h⟩ := s.answer_shape c done r; rw [h]; rfl
@[simp] theorem State.answer_fenced (c : Cmd) (done : Nat) (r : Result) : (s.answer c done r).fenced = s.fenced := by
  obtain ⟨_, h⟩ := s.answer_shape c done r; rw [h]; rfl
@[simp] theorem State.answer_fencedDma (c : Cmd) (done : Nat) (r : Result) : (s.answer c done r).fencedDma = s.fencedDma := by
  obtain ⟨_, h⟩ := s.answer_shape c done r; rw [h]; rfl
@[simp] theorem State.answer_haltedDma (c : Cmd) (done : Nat) (r : Result) : (s.answer c done r).haltedDma = s.haltedDma := by
  obtain ⟨_, h⟩ := s.answer_shape c done r; rw [h]; rfl
@[simp] theorem State.answer_contexts (c : Cmd) (done : Nat) (r : Result) : (s.answer c done r).contexts = s.contexts := by
  obtain ⟨_, h⟩ := s.answer_shape c done r; rw [h]; rfl
@[simp] theorem State.answer_waitingReds (c : Cmd) (done : Nat) (r : Result) : (s.answer c done r).waitingReds = s.waitingReds := by
  obtain ⟨_, h⟩ := s.answer_shape c done r; rw [h]; rfl
@[simp] theorem State.answer_moduleSums (c : Cmd) (done : Nat) (r : Result) : (s.answer c done r).moduleSums = s.moduleSums := by
  obtain ⟨_, h⟩ := s.answer_shape c done r; rw [h]; rfl
@[simp] theorem State.answer_draws (c : Cmd) (done : Nat) (r : Result) : (s.answer c done r).draws = s.draws := by
  obtain ⟨_, h⟩ := s.answer_shape c done r; rw [h]; rfl
@[simp] theorem State.answer_pending (c : Cmd) (done : Nat) (r : Result) : (s.answer c done r).pending = s.pending := by
  obtain ⟨_, h⟩ := s.answer_shape c done r; rw [h]; rfl
@[simp] theorem State.answer_net_fab (c : Cmd) (done : Nat) (r : Result) : (s.answer c done r).net.fab = s.net.fab := by
  obtain ⟨_, h⟩ := s.answer_shape c done r; rw [h]; rfl
@[simp] theorem State.answer_net_fabCounters (c : Cmd) (done : Nat) (r : Result) : (s.answer c done r).net.fabCounters = s.net.fabCounters := by
  obtain ⟨_, h⟩ := s.answer_shape c done r; rw [h]; rfl
@[simp] theorem State.answer_net_tx (c : Cmd) (done : Nat) (r : Result) : (s.answer c done r).net.tx = s.net.tx := by
  obtain ⟨_, h⟩ := s.answer_shape c done r; rw [h]; rfl
@[simp] theorem State.answer_net_rx (c : Cmd) (done : Nat) (r : Result) : (s.answer c done r).net.rx = s.net.rx := by
  obtain ⟨_, h⟩ := s.answer_shape c done r; rw [h]; rfl
@[simp] theorem State.answer_net_viols (c : Cmd) (done : Nat) (r : Result) : (s.answer c done r).net.viols = s.net.viols := by
  obtain ⟨_, h⟩ := s.answer_shape c done r; rw [h]; rfl
@[simp] theorem State.answer_net_quarantined (c : Cmd) (done : Nat) (r : Result) : (s.answer c done r).net.quarantined = s.net.quarantined := by
  obtain ⟨_, h⟩ := s.answer_shape c done r; rw [h]; rfl

@[simp] theorem State.transmit_flash (k : StreamKey) (ranks : Nat × Nat) (ps : List Bytes) : (s.transmit k ranks ps).flash = s.flash := by
  obtain ⟨_, h⟩ := s.transmit_shape k ranks ps; rw [h]; rfl
@[simp] theorem State.transmit_plan (k : StreamKey) (ranks : Nat × Nat) (ps : List Bytes) : (s.transmit k ranks ps).plan = s.plan := by
  obtain ⟨_, h⟩ := s.transmit_shape k ranks ps; rw [h]; rfl
@[simp] theorem State.transmit_planLocked (k : StreamKey) (ranks : Nat × Nat) (ps : List Bytes) : (s.transmit k ranks ps).planLocked = s.planLocked := by
  obtain ⟨_, h⟩ := s.transmit_shape k ranks ps; rw [h]; rfl
@[simp] theorem State.transmit_board (k : StreamKey) (ranks : Nat × Nat) (ps : List Bytes) : (s.transmit k ranks ps).board = s.board := by
  obtain ⟨_, h⟩ := s.transmit_shape k ranks ps; rw [h]; rfl
@[simp] theorem State.transmit_tb (k : StreamKey) (ranks : Nat × Nat) (ps : List Bytes) : (s.transmit k ranks ps).tb = s.tb := by
  obtain ⟨_, h⟩ := s.transmit_shape k ranks ps; rw [h]; rfl
@[simp] theorem State.transmit_coord (k : StreamKey) (ranks : Nat × Nat) (ps : List Bytes) : (s.transmit k ranks ps).coord = s.coord := by
  obtain ⟨_, h⟩ := s.transmit_shape k ranks ps; rw [h]; rfl
@[simp] theorem State.transmit_power (k : StreamKey) (ranks : Nat × Nat) (ps : List Bytes) : (s.transmit k ranks ps).power = s.power := by
  obtain ⟨_, h⟩ := s.transmit_shape k ranks ps; rw [h]; rfl
@[simp] theorem State.transmit_fw (k : StreamKey) (ranks : Nat × Nat) (ps : List Bytes) : (s.transmit k ranks ps).fw = s.fw := by
  obtain ⟨_, h⟩ := s.transmit_shape k ranks ps; rw [h]; rfl
@[simp] theorem State.transmit_report (k : StreamKey) (ranks : Nat × Nat) (ps : List Bytes) : (s.transmit k ranks ps).report = s.report := by
  obtain ⟨_, h⟩ := s.transmit_shape k ranks ps; rw [h]; rfl
@[simp] theorem State.transmit_cfg (k : StreamKey) (ranks : Nat × Nat) (ps : List Bytes) : (s.transmit k ranks ps).cfg = s.cfg := by
  obtain ⟨_, h⟩ := s.transmit_shape k ranks ps; rw [h]; rfl
@[simp] theorem State.transmit_parts (k : StreamKey) (ranks : Nat × Nat) (ps : List Bytes) : (s.transmit k ranks ps).parts = s.parts := by
  obtain ⟨_, h⟩ := s.transmit_shape k ranks ps; rw [h]; rfl
@[simp] theorem State.transmit_graphs (k : StreamKey) (ranks : Nat × Nat) (ps : List Bytes) : (s.transmit k ranks ps).graphs = s.graphs := by
  obtain ⟨_, h⟩ := s.transmit_shape k ranks ps; rw [h]; rfl
@[simp] theorem State.transmit_nextGref (k : StreamKey) (ranks : Nat × Nat) (ps : List Bytes) : (s.transmit k ranks ps).nextGref = s.nextGref := by
  obtain ⟨_, h⟩ := s.transmit_shape k ranks ps; rw [h]; rfl
@[simp] theorem State.transmit_blocks (k : StreamKey) (ranks : Nat × Nat) (ps : List Bytes) : (s.transmit k ranks ps).blocks = s.blocks := by
  obtain ⟨_, h⟩ := s.transmit_shape k ranks ps; rw [h]; rfl
@[simp] theorem State.transmit_jobs (k : StreamKey) (ranks : Nat × Nat) (ps : List Bytes) : (s.transmit k ranks ps).jobs = s.jobs := by
  obtain ⟨_, h⟩ := s.transmit_shape k ranks ps; rw [h]; rfl
@[simp] theorem State.transmit_active (k : StreamKey) (ranks : Nat × Nat) (ps : List Bytes) : (s.transmit k ranks ps).active = s.active := by
  obtain ⟨_, h⟩ := s.transmit_shape k ranks ps; rw [h]; rfl
@[simp] theorem State.transmit_cmds (k : StreamKey) (ranks : Nat × Nat) (ps : List Bytes) : (s.transmit k ranks ps).cmds = s.cmds := by
  obtain ⟨_, h⟩ := s.transmit_shape k ranks ps; rw [h]; rfl
@[simp] theorem State.transmit_shipsOut (k : StreamKey) (ranks : Nat × Nat) (ps : List Bytes) : (s.transmit k ranks ps).shipsOut = s.shipsOut := by
  obtain ⟨_, h⟩ := s.transmit_shape k ranks ps; rw [h]; rfl
@[simp] theorem State.transmit_shipsIn (k : StreamKey) (ranks : Nat × Nat) (ps : List Bytes) : (s.transmit k ranks ps).shipsIn = s.shipsIn := by
  obtain ⟨_, h⟩ := s.transmit_shape k ranks ps; rw [h]; rfl
@[simp] theorem State.transmit_cells (k : StreamKey) (ranks : Nat × Nat) (ps : List Bytes) : (s.transmit k ranks ps).cells = s.cells := by
  obtain ⟨_, h⟩ := s.transmit_shape k ranks ps; rw [h]; rfl
@[simp] theorem State.transmit_fenced (k : StreamKey) (ranks : Nat × Nat) (ps : List Bytes) : (s.transmit k ranks ps).fenced = s.fenced := by
  obtain ⟨_, h⟩ := s.transmit_shape k ranks ps; rw [h]; rfl
@[simp] theorem State.transmit_fencedDma (k : StreamKey) (ranks : Nat × Nat) (ps : List Bytes) : (s.transmit k ranks ps).fencedDma = s.fencedDma := by
  obtain ⟨_, h⟩ := s.transmit_shape k ranks ps; rw [h]; rfl
@[simp] theorem State.transmit_haltedDma (k : StreamKey) (ranks : Nat × Nat) (ps : List Bytes) : (s.transmit k ranks ps).haltedDma = s.haltedDma := by
  obtain ⟨_, h⟩ := s.transmit_shape k ranks ps; rw [h]; rfl
@[simp] theorem State.transmit_contexts (k : StreamKey) (ranks : Nat × Nat) (ps : List Bytes) : (s.transmit k ranks ps).contexts = s.contexts := by
  obtain ⟨_, h⟩ := s.transmit_shape k ranks ps; rw [h]; rfl
@[simp] theorem State.transmit_waitingReds (k : StreamKey) (ranks : Nat × Nat) (ps : List Bytes) : (s.transmit k ranks ps).waitingReds = s.waitingReds := by
  obtain ⟨_, h⟩ := s.transmit_shape k ranks ps; rw [h]; rfl
@[simp] theorem State.transmit_moduleSums (k : StreamKey) (ranks : Nat × Nat) (ps : List Bytes) : (s.transmit k ranks ps).moduleSums = s.moduleSums := by
  obtain ⟨_, h⟩ := s.transmit_shape k ranks ps; rw [h]; rfl
@[simp] theorem State.transmit_hbm (k : StreamKey) (ranks : Nat × Nat) (ps : List Bytes) : (s.transmit k ranks ps).hbm = s.hbm := by
  obtain ⟨_, h⟩ := s.transmit_shape k ranks ps; rw [h]; rfl
@[simp] theorem State.transmit_counters (k : StreamKey) (ranks : Nat × Nat) (ps : List Bytes) : (s.transmit k ranks ps).counters = s.counters := by
  obtain ⟨_, h⟩ := s.transmit_shape k ranks ps; rw [h]; rfl
@[simp] theorem State.transmit_draws (k : StreamKey) (ranks : Nat × Nat) (ps : List Bytes) : (s.transmit k ranks ps).draws = s.draws := by
  obtain ⟨_, h⟩ := s.transmit_shape k ranks ps; rw [h]; rfl
@[simp] theorem State.transmit_pending (k : StreamKey) (ranks : Nat × Nat) (ps : List Bytes) : (s.transmit k ranks ps).pending = s.pending := by
  obtain ⟨_, h⟩ := s.transmit_shape k ranks ps; rw [h]; rfl
@[simp] theorem State.transmit_net_host (k : StreamKey) (ranks : Nat × Nat) (ps : List Bytes) : (s.transmit k ranks ps).net.host = s.net.host := by
  obtain ⟨_, h⟩ := s.transmit_shape k ranks ps; rw [h]; rfl
@[simp] theorem State.transmit_net_qps (k : StreamKey) (ranks : Nat × Nat) (ps : List Bytes) : (s.transmit k ranks ps).net.qps = s.net.qps := by
  obtain ⟨_, h⟩ := s.transmit_shape k ranks ps; rw [h]; rfl
@[simp] theorem State.transmit_net_fab (k : StreamKey) (ranks : Nat × Nat) (ps : List Bytes) : (s.transmit k ranks ps).net.fab = s.net.fab := by
  obtain ⟨_, h⟩ := s.transmit_shape k ranks ps; rw [h]; rfl
@[simp] theorem State.transmit_net_fabCounters (k : StreamKey) (ranks : Nat × Nat) (ps : List Bytes) : (s.transmit k ranks ps).net.fabCounters = s.net.fabCounters := by
  obtain ⟨_, h⟩ := s.transmit_shape k ranks ps; rw [h]; rfl
@[simp] theorem State.transmit_net_viols (k : StreamKey) (ranks : Nat × Nat) (ps : List Bytes) : (s.transmit k ranks ps).net.viols = s.net.viols := by
  obtain ⟨_, h⟩ := s.transmit_shape k ranks ps; rw [h]; rfl
@[simp] theorem State.transmit_net_quarantined (k : StreamKey) (ranks : Nat × Nat) (ps : List Bytes) : (s.transmit k ranks ps).net.quarantined = s.net.quarantined := by
  obtain ⟨_, h⟩ := s.transmit_shape k ranks ps; rw [h]; rfl

@[simp] theorem State.send_flash (os : List Out) : (s.send os).flash = s.flash := by
  obtain ⟨_, h⟩ := s.send_shape os; rw [h]; rfl
@[simp] theorem State.send_plan (os : List Out) : (s.send os).plan = s.plan := by
  obtain ⟨_, h⟩ := s.send_shape os; rw [h]; rfl
@[simp] theorem State.send_planLocked (os : List Out) : (s.send os).planLocked = s.planLocked := by
  obtain ⟨_, h⟩ := s.send_shape os; rw [h]; rfl
@[simp] theorem State.send_board (os : List Out) : (s.send os).board = s.board := by
  obtain ⟨_, h⟩ := s.send_shape os; rw [h]; rfl
@[simp] theorem State.send_tb (os : List Out) : (s.send os).tb = s.tb := by
  obtain ⟨_, h⟩ := s.send_shape os; rw [h]; rfl
@[simp] theorem State.send_coord (os : List Out) : (s.send os).coord = s.coord := by
  obtain ⟨_, h⟩ := s.send_shape os; rw [h]; rfl
@[simp] theorem State.send_power (os : List Out) : (s.send os).power = s.power := by
  obtain ⟨_, h⟩ := s.send_shape os; rw [h]; rfl
@[simp] theorem State.send_fw (os : List Out) : (s.send os).fw = s.fw := by
  obtain ⟨_, h⟩ := s.send_shape os; rw [h]; rfl
@[simp] theorem State.send_report (os : List Out) : (s.send os).report = s.report := by
  obtain ⟨_, h⟩ := s.send_shape os; rw [h]; rfl
@[simp] theorem State.send_cfg (os : List Out) : (s.send os).cfg = s.cfg := by
  obtain ⟨_, h⟩ := s.send_shape os; rw [h]; rfl
@[simp] theorem State.send_parts (os : List Out) : (s.send os).parts = s.parts := by
  obtain ⟨_, h⟩ := s.send_shape os; rw [h]; rfl
@[simp] theorem State.send_graphs (os : List Out) : (s.send os).graphs = s.graphs := by
  obtain ⟨_, h⟩ := s.send_shape os; rw [h]; rfl
@[simp] theorem State.send_nextGref (os : List Out) : (s.send os).nextGref = s.nextGref := by
  obtain ⟨_, h⟩ := s.send_shape os; rw [h]; rfl
@[simp] theorem State.send_blocks (os : List Out) : (s.send os).blocks = s.blocks := by
  obtain ⟨_, h⟩ := s.send_shape os; rw [h]; rfl
@[simp] theorem State.send_jobs (os : List Out) : (s.send os).jobs = s.jobs := by
  obtain ⟨_, h⟩ := s.send_shape os; rw [h]; rfl
@[simp] theorem State.send_active (os : List Out) : (s.send os).active = s.active := by
  obtain ⟨_, h⟩ := s.send_shape os; rw [h]; rfl
@[simp] theorem State.send_cmds (os : List Out) : (s.send os).cmds = s.cmds := by
  obtain ⟨_, h⟩ := s.send_shape os; rw [h]; rfl
@[simp] theorem State.send_shipsOut (os : List Out) : (s.send os).shipsOut = s.shipsOut := by
  obtain ⟨_, h⟩ := s.send_shape os; rw [h]; rfl
@[simp] theorem State.send_shipsIn (os : List Out) : (s.send os).shipsIn = s.shipsIn := by
  obtain ⟨_, h⟩ := s.send_shape os; rw [h]; rfl
@[simp] theorem State.send_cells (os : List Out) : (s.send os).cells = s.cells := by
  obtain ⟨_, h⟩ := s.send_shape os; rw [h]; rfl
@[simp] theorem State.send_fenced (os : List Out) : (s.send os).fenced = s.fenced := by
  obtain ⟨_, h⟩ := s.send_shape os; rw [h]; rfl
@[simp] theorem State.send_fencedDma (os : List Out) : (s.send os).fencedDma = s.fencedDma := by
  obtain ⟨_, h⟩ := s.send_shape os; rw [h]; rfl
@[simp] theorem State.send_haltedDma (os : List Out) : (s.send os).haltedDma = s.haltedDma := by
  obtain ⟨_, h⟩ := s.send_shape os; rw [h]; rfl
@[simp] theorem State.send_contexts (os : List Out) : (s.send os).contexts = s.contexts := by
  obtain ⟨_, h⟩ := s.send_shape os; rw [h]; rfl
@[simp] theorem State.send_waitingReds (os : List Out) : (s.send os).waitingReds = s.waitingReds := by
  obtain ⟨_, h⟩ := s.send_shape os; rw [h]; rfl
@[simp] theorem State.send_moduleSums (os : List Out) : (s.send os).moduleSums = s.moduleSums := by
  obtain ⟨_, h⟩ := s.send_shape os; rw [h]; rfl
@[simp] theorem State.send_hbm (os : List Out) : (s.send os).hbm = s.hbm := by
  obtain ⟨_, h⟩ := s.send_shape os; rw [h]; rfl
@[simp] theorem State.send_counters (os : List Out) : (s.send os).counters = s.counters := by
  obtain ⟨_, h⟩ := s.send_shape os; rw [h]; rfl
@[simp] theorem State.send_draws (os : List Out) : (s.send os).draws = s.draws := by
  obtain ⟨_, h⟩ := s.send_shape os; rw [h]; rfl
@[simp] theorem State.send_pending (os : List Out) : (s.send os).pending = s.pending := by
  obtain ⟨_, h⟩ := s.send_shape os; rw [h]; rfl
@[simp] theorem State.send_net_host (os : List Out) : (s.send os).net.host = s.net.host := by
  obtain ⟨_, h⟩ := s.send_shape os; rw [h]; rfl
@[simp] theorem State.send_net_qps (os : List Out) : (s.send os).net.qps = s.net.qps := by
  obtain ⟨_, h⟩ := s.send_shape os; rw [h]; rfl
@[simp] theorem State.send_net_fab (os : List Out) : (s.send os).net.fab = s.net.fab := by
  obtain ⟨_, h⟩ := s.send_shape os; rw [h]; rfl
@[simp] theorem State.send_net_fabCounters (os : List Out) : (s.send os).net.fabCounters = s.net.fabCounters := by
  obtain ⟨_, h⟩ := s.send_shape os; rw [h]; rfl
@[simp] theorem State.send_net_viols (os : List Out) : (s.send os).net.viols = s.net.viols := by
  obtain ⟨_, h⟩ := s.send_shape os; rw [h]; rfl
@[simp] theorem State.send_net_quarantined (os : List Out) : (s.send os).net.quarantined = s.net.quarantined := by
  obtain ⟨_, h⟩ := s.send_shape os; rw [h]; rfl

@[simp] theorem State.control_flash (job : Nat) (ranks : List Nat) (kind rank reason step boundary : Nat) : (s.control job ranks kind rank reason step boundary).flash = s.flash := by
  obtain ⟨_, h⟩ := s.control_shape job ranks kind rank reason step boundary; rw [h]; rfl
@[simp] theorem State.control_plan (job : Nat) (ranks : List Nat) (kind rank reason step boundary : Nat) : (s.control job ranks kind rank reason step boundary).plan = s.plan := by
  obtain ⟨_, h⟩ := s.control_shape job ranks kind rank reason step boundary; rw [h]; rfl
@[simp] theorem State.control_planLocked (job : Nat) (ranks : List Nat) (kind rank reason step boundary : Nat) : (s.control job ranks kind rank reason step boundary).planLocked = s.planLocked := by
  obtain ⟨_, h⟩ := s.control_shape job ranks kind rank reason step boundary; rw [h]; rfl
@[simp] theorem State.control_board (job : Nat) (ranks : List Nat) (kind rank reason step boundary : Nat) : (s.control job ranks kind rank reason step boundary).board = s.board := by
  obtain ⟨_, h⟩ := s.control_shape job ranks kind rank reason step boundary; rw [h]; rfl
@[simp] theorem State.control_tb (job : Nat) (ranks : List Nat) (kind rank reason step boundary : Nat) : (s.control job ranks kind rank reason step boundary).tb = s.tb := by
  obtain ⟨_, h⟩ := s.control_shape job ranks kind rank reason step boundary; rw [h]; rfl
@[simp] theorem State.control_coord (job : Nat) (ranks : List Nat) (kind rank reason step boundary : Nat) : (s.control job ranks kind rank reason step boundary).coord = s.coord := by
  obtain ⟨_, h⟩ := s.control_shape job ranks kind rank reason step boundary; rw [h]; rfl
@[simp] theorem State.control_power (job : Nat) (ranks : List Nat) (kind rank reason step boundary : Nat) : (s.control job ranks kind rank reason step boundary).power = s.power := by
  obtain ⟨_, h⟩ := s.control_shape job ranks kind rank reason step boundary; rw [h]; rfl
@[simp] theorem State.control_fw (job : Nat) (ranks : List Nat) (kind rank reason step boundary : Nat) : (s.control job ranks kind rank reason step boundary).fw = s.fw := by
  obtain ⟨_, h⟩ := s.control_shape job ranks kind rank reason step boundary; rw [h]; rfl
@[simp] theorem State.control_report (job : Nat) (ranks : List Nat) (kind rank reason step boundary : Nat) : (s.control job ranks kind rank reason step boundary).report = s.report := by
  obtain ⟨_, h⟩ := s.control_shape job ranks kind rank reason step boundary; rw [h]; rfl
@[simp] theorem State.control_cfg (job : Nat) (ranks : List Nat) (kind rank reason step boundary : Nat) : (s.control job ranks kind rank reason step boundary).cfg = s.cfg := by
  obtain ⟨_, h⟩ := s.control_shape job ranks kind rank reason step boundary; rw [h]; rfl
@[simp] theorem State.control_parts (job : Nat) (ranks : List Nat) (kind rank reason step boundary : Nat) : (s.control job ranks kind rank reason step boundary).parts = s.parts := by
  obtain ⟨_, h⟩ := s.control_shape job ranks kind rank reason step boundary; rw [h]; rfl
@[simp] theorem State.control_graphs (job : Nat) (ranks : List Nat) (kind rank reason step boundary : Nat) : (s.control job ranks kind rank reason step boundary).graphs = s.graphs := by
  obtain ⟨_, h⟩ := s.control_shape job ranks kind rank reason step boundary; rw [h]; rfl
@[simp] theorem State.control_nextGref (job : Nat) (ranks : List Nat) (kind rank reason step boundary : Nat) : (s.control job ranks kind rank reason step boundary).nextGref = s.nextGref := by
  obtain ⟨_, h⟩ := s.control_shape job ranks kind rank reason step boundary; rw [h]; rfl
@[simp] theorem State.control_blocks (job : Nat) (ranks : List Nat) (kind rank reason step boundary : Nat) : (s.control job ranks kind rank reason step boundary).blocks = s.blocks := by
  obtain ⟨_, h⟩ := s.control_shape job ranks kind rank reason step boundary; rw [h]; rfl
@[simp] theorem State.control_jobs (job : Nat) (ranks : List Nat) (kind rank reason step boundary : Nat) : (s.control job ranks kind rank reason step boundary).jobs = s.jobs := by
  obtain ⟨_, h⟩ := s.control_shape job ranks kind rank reason step boundary; rw [h]; rfl
@[simp] theorem State.control_active (job : Nat) (ranks : List Nat) (kind rank reason step boundary : Nat) : (s.control job ranks kind rank reason step boundary).active = s.active := by
  obtain ⟨_, h⟩ := s.control_shape job ranks kind rank reason step boundary; rw [h]; rfl
@[simp] theorem State.control_cmds (job : Nat) (ranks : List Nat) (kind rank reason step boundary : Nat) : (s.control job ranks kind rank reason step boundary).cmds = s.cmds := by
  obtain ⟨_, h⟩ := s.control_shape job ranks kind rank reason step boundary; rw [h]; rfl
@[simp] theorem State.control_shipsOut (job : Nat) (ranks : List Nat) (kind rank reason step boundary : Nat) : (s.control job ranks kind rank reason step boundary).shipsOut = s.shipsOut := by
  obtain ⟨_, h⟩ := s.control_shape job ranks kind rank reason step boundary; rw [h]; rfl
@[simp] theorem State.control_shipsIn (job : Nat) (ranks : List Nat) (kind rank reason step boundary : Nat) : (s.control job ranks kind rank reason step boundary).shipsIn = s.shipsIn := by
  obtain ⟨_, h⟩ := s.control_shape job ranks kind rank reason step boundary; rw [h]; rfl
@[simp] theorem State.control_cells (job : Nat) (ranks : List Nat) (kind rank reason step boundary : Nat) : (s.control job ranks kind rank reason step boundary).cells = s.cells := by
  obtain ⟨_, h⟩ := s.control_shape job ranks kind rank reason step boundary; rw [h]; rfl
@[simp] theorem State.control_fenced (job : Nat) (ranks : List Nat) (kind rank reason step boundary : Nat) : (s.control job ranks kind rank reason step boundary).fenced = s.fenced := by
  obtain ⟨_, h⟩ := s.control_shape job ranks kind rank reason step boundary; rw [h]; rfl
@[simp] theorem State.control_fencedDma (job : Nat) (ranks : List Nat) (kind rank reason step boundary : Nat) : (s.control job ranks kind rank reason step boundary).fencedDma = s.fencedDma := by
  obtain ⟨_, h⟩ := s.control_shape job ranks kind rank reason step boundary; rw [h]; rfl
@[simp] theorem State.control_haltedDma (job : Nat) (ranks : List Nat) (kind rank reason step boundary : Nat) : (s.control job ranks kind rank reason step boundary).haltedDma = s.haltedDma := by
  obtain ⟨_, h⟩ := s.control_shape job ranks kind rank reason step boundary; rw [h]; rfl
@[simp] theorem State.control_contexts (job : Nat) (ranks : List Nat) (kind rank reason step boundary : Nat) : (s.control job ranks kind rank reason step boundary).contexts = s.contexts := by
  obtain ⟨_, h⟩ := s.control_shape job ranks kind rank reason step boundary; rw [h]; rfl
@[simp] theorem State.control_waitingReds (job : Nat) (ranks : List Nat) (kind rank reason step boundary : Nat) : (s.control job ranks kind rank reason step boundary).waitingReds = s.waitingReds := by
  obtain ⟨_, h⟩ := s.control_shape job ranks kind rank reason step boundary; rw [h]; rfl
@[simp] theorem State.control_moduleSums (job : Nat) (ranks : List Nat) (kind rank reason step boundary : Nat) : (s.control job ranks kind rank reason step boundary).moduleSums = s.moduleSums := by
  obtain ⟨_, h⟩ := s.control_shape job ranks kind rank reason step boundary; rw [h]; rfl
@[simp] theorem State.control_hbm (job : Nat) (ranks : List Nat) (kind rank reason step boundary : Nat) : (s.control job ranks kind rank reason step boundary).hbm = s.hbm := by
  obtain ⟨_, h⟩ := s.control_shape job ranks kind rank reason step boundary; rw [h]; rfl
@[simp] theorem State.control_counters (job : Nat) (ranks : List Nat) (kind rank reason step boundary : Nat) : (s.control job ranks kind rank reason step boundary).counters = s.counters := by
  obtain ⟨_, h⟩ := s.control_shape job ranks kind rank reason step boundary; rw [h]; rfl
@[simp] theorem State.control_draws (job : Nat) (ranks : List Nat) (kind rank reason step boundary : Nat) : (s.control job ranks kind rank reason step boundary).draws = s.draws := by
  obtain ⟨_, h⟩ := s.control_shape job ranks kind rank reason step boundary; rw [h]; rfl
@[simp] theorem State.control_pending (job : Nat) (ranks : List Nat) (kind rank reason step boundary : Nat) : (s.control job ranks kind rank reason step boundary).pending = s.pending := by
  obtain ⟨_, h⟩ := s.control_shape job ranks kind rank reason step boundary; rw [h]; rfl
@[simp] theorem State.control_net_host (job : Nat) (ranks : List Nat) (kind rank reason step boundary : Nat) : (s.control job ranks kind rank reason step boundary).net.host = s.net.host := by
  obtain ⟨_, h⟩ := s.control_shape job ranks kind rank reason step boundary; rw [h]; rfl
@[simp] theorem State.control_net_qps (job : Nat) (ranks : List Nat) (kind rank reason step boundary : Nat) : (s.control job ranks kind rank reason step boundary).net.qps = s.net.qps := by
  obtain ⟨_, h⟩ := s.control_shape job ranks kind rank reason step boundary; rw [h]; rfl
@[simp] theorem State.control_net_fab (job : Nat) (ranks : List Nat) (kind rank reason step boundary : Nat) : (s.control job ranks kind rank reason step boundary).net.fab = s.net.fab := by
  obtain ⟨_, h⟩ := s.control_shape job ranks kind rank reason step boundary; rw [h]; rfl
@[simp] theorem State.control_net_fabCounters (job : Nat) (ranks : List Nat) (kind rank reason step boundary : Nat) : (s.control job ranks kind rank reason step boundary).net.fabCounters = s.net.fabCounters := by
  obtain ⟨_, h⟩ := s.control_shape job ranks kind rank reason step boundary; rw [h]; rfl
@[simp] theorem State.control_net_viols (job : Nat) (ranks : List Nat) (kind rank reason step boundary : Nat) : (s.control job ranks kind rank reason step boundary).net.viols = s.net.viols := by
  obtain ⟨_, h⟩ := s.control_shape job ranks kind rank reason step boundary; rw [h]; rfl
@[simp] theorem State.control_net_quarantined (job : Nat) (ranks : List Nat) (kind rank reason step boundary : Nat) : (s.control job ranks kind rank reason step boundary).net.quarantined = s.net.quarantined := by
  obtain ⟨_, h⟩ := s.control_shape job ranks kind rank reason step boundary; rw [h]; rfl

@[simp] theorem State.abandonStep_flash (j : Job) (x : Step) (cause : Nat) : (s.abandonStep j x cause).flash = s.flash := by
  obtain ⟨_, h⟩ := s.abandonStep_shape j x cause; rw [h]; rfl
@[simp] theorem State.abandonStep_plan (j : Job) (x : Step) (cause : Nat) : (s.abandonStep j x cause).plan = s.plan := by
  obtain ⟨_, h⟩ := s.abandonStep_shape j x cause; rw [h]; rfl
@[simp] theorem State.abandonStep_planLocked (j : Job) (x : Step) (cause : Nat) : (s.abandonStep j x cause).planLocked = s.planLocked := by
  obtain ⟨_, h⟩ := s.abandonStep_shape j x cause; rw [h]; rfl
@[simp] theorem State.abandonStep_board (j : Job) (x : Step) (cause : Nat) : (s.abandonStep j x cause).board = s.board := by
  obtain ⟨_, h⟩ := s.abandonStep_shape j x cause; rw [h]; rfl
@[simp] theorem State.abandonStep_tb (j : Job) (x : Step) (cause : Nat) : (s.abandonStep j x cause).tb = s.tb := by
  obtain ⟨_, h⟩ := s.abandonStep_shape j x cause; rw [h]; rfl
@[simp] theorem State.abandonStep_coord (j : Job) (x : Step) (cause : Nat) : (s.abandonStep j x cause).coord = s.coord := by
  obtain ⟨_, h⟩ := s.abandonStep_shape j x cause; rw [h]; rfl
@[simp] theorem State.abandonStep_power (j : Job) (x : Step) (cause : Nat) : (s.abandonStep j x cause).power = s.power := by
  obtain ⟨_, h⟩ := s.abandonStep_shape j x cause; rw [h]; rfl
@[simp] theorem State.abandonStep_fw (j : Job) (x : Step) (cause : Nat) : (s.abandonStep j x cause).fw = s.fw := by
  obtain ⟨_, h⟩ := s.abandonStep_shape j x cause; rw [h]; rfl
@[simp] theorem State.abandonStep_report (j : Job) (x : Step) (cause : Nat) : (s.abandonStep j x cause).report = s.report := by
  obtain ⟨_, h⟩ := s.abandonStep_shape j x cause; rw [h]; rfl
@[simp] theorem State.abandonStep_cfg (j : Job) (x : Step) (cause : Nat) : (s.abandonStep j x cause).cfg = s.cfg := by
  obtain ⟨_, h⟩ := s.abandonStep_shape j x cause; rw [h]; rfl
@[simp] theorem State.abandonStep_graphs (j : Job) (x : Step) (cause : Nat) : (s.abandonStep j x cause).graphs = s.graphs := by
  obtain ⟨_, h⟩ := s.abandonStep_shape j x cause; rw [h]; rfl
@[simp] theorem State.abandonStep_nextGref (j : Job) (x : Step) (cause : Nat) : (s.abandonStep j x cause).nextGref = s.nextGref := by
  obtain ⟨_, h⟩ := s.abandonStep_shape j x cause; rw [h]; rfl
@[simp] theorem State.abandonStep_blocks (j : Job) (x : Step) (cause : Nat) : (s.abandonStep j x cause).blocks = s.blocks := by
  obtain ⟨_, h⟩ := s.abandonStep_shape j x cause; rw [h]; rfl
@[simp] theorem State.abandonStep_active (j : Job) (x : Step) (cause : Nat) : (s.abandonStep j x cause).active = s.active := by
  obtain ⟨_, h⟩ := s.abandonStep_shape j x cause; rw [h]; rfl
@[simp] theorem State.abandonStep_shipsOut (j : Job) (x : Step) (cause : Nat) : (s.abandonStep j x cause).shipsOut = s.shipsOut := by
  obtain ⟨_, h⟩ := s.abandonStep_shape j x cause; rw [h]; rfl
@[simp] theorem State.abandonStep_shipsIn (j : Job) (x : Step) (cause : Nat) : (s.abandonStep j x cause).shipsIn = s.shipsIn := by
  obtain ⟨_, h⟩ := s.abandonStep_shape j x cause; rw [h]; rfl
@[simp] theorem State.abandonStep_fenced (j : Job) (x : Step) (cause : Nat) : (s.abandonStep j x cause).fenced = s.fenced := by
  obtain ⟨_, h⟩ := s.abandonStep_shape j x cause; rw [h]; rfl
@[simp] theorem State.abandonStep_fencedDma (j : Job) (x : Step) (cause : Nat) : (s.abandonStep j x cause).fencedDma = s.fencedDma := by
  obtain ⟨_, h⟩ := s.abandonStep_shape j x cause; rw [h]; rfl
@[simp] theorem State.abandonStep_haltedDma (j : Job) (x : Step) (cause : Nat) : (s.abandonStep j x cause).haltedDma = s.haltedDma := by
  obtain ⟨_, h⟩ := s.abandonStep_shape j x cause; rw [h]; rfl
@[simp] theorem State.abandonStep_contexts (j : Job) (x : Step) (cause : Nat) : (s.abandonStep j x cause).contexts = s.contexts := by
  obtain ⟨_, h⟩ := s.abandonStep_shape j x cause; rw [h]; rfl
@[simp] theorem State.abandonStep_waitingReds (j : Job) (x : Step) (cause : Nat) : (s.abandonStep j x cause).waitingReds = s.waitingReds := by
  obtain ⟨_, h⟩ := s.abandonStep_shape j x cause; rw [h]; rfl
@[simp] theorem State.abandonStep_moduleSums (j : Job) (x : Step) (cause : Nat) : (s.abandonStep j x cause).moduleSums = s.moduleSums := by
  obtain ⟨_, h⟩ := s.abandonStep_shape j x cause; rw [h]; rfl
@[simp] theorem State.abandonStep_draws (j : Job) (x : Step) (cause : Nat) : (s.abandonStep j x cause).draws = s.draws := by
  obtain ⟨_, h⟩ := s.abandonStep_shape j x cause; rw [h]; rfl
@[simp] theorem State.abandonStep_pending (j : Job) (x : Step) (cause : Nat) : (s.abandonStep j x cause).pending = s.pending := by
  obtain ⟨_, h⟩ := s.abandonStep_shape j x cause; rw [h]; rfl
@[simp] theorem State.abandonStep_net_fab (j : Job) (x : Step) (cause : Nat) : (s.abandonStep j x cause).net.fab = s.net.fab := by
  obtain ⟨_, h⟩ := s.abandonStep_shape j x cause; rw [h]; rfl
@[simp] theorem State.abandonStep_net_fabCounters (j : Job) (x : Step) (cause : Nat) : (s.abandonStep j x cause).net.fabCounters = s.net.fabCounters := by
  obtain ⟨_, h⟩ := s.abandonStep_shape j x cause; rw [h]; rfl
@[simp] theorem State.abandonStep_net_viols (j : Job) (x : Step) (cause : Nat) : (s.abandonStep j x cause).net.viols = s.net.viols := by
  obtain ⟨_, h⟩ := s.abandonStep_shape j x cause; rw [h]; rfl
@[simp] theorem State.abandonStep_net_quarantined (j : Job) (x : Step) (cause : Nat) : (s.abandonStep j x cause).net.quarantined = s.net.quarantined := by
  obtain ⟨_, h⟩ := s.abandonStep_shape j x cause; rw [h]; rfl

@[simp] theorem State.killStep_flash (h cause : Nat) (tell : Bool) : (s.killStep h cause tell).flash = s.flash := by
  obtain ⟨_, h⟩ := s.killStep_shape h cause tell; rw [h]; rfl
@[simp] theorem State.killStep_plan (h cause : Nat) (tell : Bool) : (s.killStep h cause tell).plan = s.plan := by
  obtain ⟨_, h⟩ := s.killStep_shape h cause tell; rw [h]; rfl
@[simp] theorem State.killStep_planLocked (h cause : Nat) (tell : Bool) : (s.killStep h cause tell).planLocked = s.planLocked := by
  obtain ⟨_, h⟩ := s.killStep_shape h cause tell; rw [h]; rfl
@[simp] theorem State.killStep_board (h cause : Nat) (tell : Bool) : (s.killStep h cause tell).board = s.board := by
  obtain ⟨_, h⟩ := s.killStep_shape h cause tell; rw [h]; rfl
@[simp] theorem State.killStep_tb (h cause : Nat) (tell : Bool) : (s.killStep h cause tell).tb = s.tb := by
  obtain ⟨_, h⟩ := s.killStep_shape h cause tell; rw [h]; rfl
@[simp] theorem State.killStep_coord (h cause : Nat) (tell : Bool) : (s.killStep h cause tell).coord = s.coord := by
  obtain ⟨_, h⟩ := s.killStep_shape h cause tell; rw [h]; rfl
@[simp] theorem State.killStep_power (h cause : Nat) (tell : Bool) : (s.killStep h cause tell).power = s.power := by
  obtain ⟨_, h⟩ := s.killStep_shape h cause tell; rw [h]; rfl
@[simp] theorem State.killStep_fw (h cause : Nat) (tell : Bool) : (s.killStep h cause tell).fw = s.fw := by
  obtain ⟨_, h⟩ := s.killStep_shape h cause tell; rw [h]; rfl
@[simp] theorem State.killStep_report (h cause : Nat) (tell : Bool) : (s.killStep h cause tell).report = s.report := by
  obtain ⟨_, h⟩ := s.killStep_shape h cause tell; rw [h]; rfl
@[simp] theorem State.killStep_cfg (h cause : Nat) (tell : Bool) : (s.killStep h cause tell).cfg = s.cfg := by
  obtain ⟨_, h⟩ := s.killStep_shape h cause tell; rw [h]; rfl
@[simp] theorem State.killStep_graphs (h cause : Nat) (tell : Bool) : (s.killStep h cause tell).graphs = s.graphs := by
  obtain ⟨_, h⟩ := s.killStep_shape h cause tell; rw [h]; rfl
@[simp] theorem State.killStep_nextGref (h cause : Nat) (tell : Bool) : (s.killStep h cause tell).nextGref = s.nextGref := by
  obtain ⟨_, h⟩ := s.killStep_shape h cause tell; rw [h]; rfl
@[simp] theorem State.killStep_blocks (h cause : Nat) (tell : Bool) : (s.killStep h cause tell).blocks = s.blocks := by
  obtain ⟨_, h⟩ := s.killStep_shape h cause tell; rw [h]; rfl
@[simp] theorem State.killStep_active (h cause : Nat) (tell : Bool) : (s.killStep h cause tell).active = s.active := by
  obtain ⟨_, h⟩ := s.killStep_shape h cause tell; rw [h]; rfl
@[simp] theorem State.killStep_shipsOut (h cause : Nat) (tell : Bool) : (s.killStep h cause tell).shipsOut = s.shipsOut := by
  obtain ⟨_, h⟩ := s.killStep_shape h cause tell; rw [h]; rfl
@[simp] theorem State.killStep_shipsIn (h cause : Nat) (tell : Bool) : (s.killStep h cause tell).shipsIn = s.shipsIn := by
  obtain ⟨_, h⟩ := s.killStep_shape h cause tell; rw [h]; rfl
@[simp] theorem State.killStep_fenced (h cause : Nat) (tell : Bool) : (s.killStep h cause tell).fenced = s.fenced := by
  obtain ⟨_, h⟩ := s.killStep_shape h cause tell; rw [h]; rfl
@[simp] theorem State.killStep_fencedDma (h cause : Nat) (tell : Bool) : (s.killStep h cause tell).fencedDma = s.fencedDma := by
  obtain ⟨_, h⟩ := s.killStep_shape h cause tell; rw [h]; rfl
@[simp] theorem State.killStep_haltedDma (h cause : Nat) (tell : Bool) : (s.killStep h cause tell).haltedDma = s.haltedDma := by
  obtain ⟨_, h⟩ := s.killStep_shape h cause tell; rw [h]; rfl
@[simp] theorem State.killStep_contexts (h cause : Nat) (tell : Bool) : (s.killStep h cause tell).contexts = s.contexts := by
  obtain ⟨_, h⟩ := s.killStep_shape h cause tell; rw [h]; rfl
@[simp] theorem State.killStep_waitingReds (h cause : Nat) (tell : Bool) : (s.killStep h cause tell).waitingReds = s.waitingReds := by
  obtain ⟨_, h⟩ := s.killStep_shape h cause tell; rw [h]; rfl
@[simp] theorem State.killStep_moduleSums (h cause : Nat) (tell : Bool) : (s.killStep h cause tell).moduleSums = s.moduleSums := by
  obtain ⟨_, h⟩ := s.killStep_shape h cause tell; rw [h]; rfl
@[simp] theorem State.killStep_draws (h cause : Nat) (tell : Bool) : (s.killStep h cause tell).draws = s.draws := by
  obtain ⟨_, h⟩ := s.killStep_shape h cause tell; rw [h]; rfl
@[simp] theorem State.killStep_pending (h cause : Nat) (tell : Bool) : (s.killStep h cause tell).pending = s.pending := by
  obtain ⟨_, h⟩ := s.killStep_shape h cause tell; rw [h]; rfl
@[simp] theorem State.killStep_net_fab (h cause : Nat) (tell : Bool) : (s.killStep h cause tell).net.fab = s.net.fab := by
  obtain ⟨_, h⟩ := s.killStep_shape h cause tell; rw [h]; rfl
@[simp] theorem State.killStep_net_fabCounters (h cause : Nat) (tell : Bool) : (s.killStep h cause tell).net.fabCounters = s.net.fabCounters := by
  obtain ⟨_, h⟩ := s.killStep_shape h cause tell; rw [h]; rfl
@[simp] theorem State.killStep_net_viols (h cause : Nat) (tell : Bool) : (s.killStep h cause tell).net.viols = s.net.viols := by
  obtain ⟨_, h⟩ := s.killStep_shape h cause tell; rw [h]; rfl
@[simp] theorem State.killStep_net_quarantined (h cause : Nat) (tell : Bool) : (s.killStep h cause tell).net.quarantined = s.net.quarantined := by
  obtain ⟨_, h⟩ := s.killStep_shape h cause tell; rw [h]; rfl

@[simp] theorem State.killSteps_flash (hs : List Nat) (cause : Nat) : (s.killSteps hs cause).flash = s.flash := by
  obtain ⟨_, h⟩ := s.killSteps_shape hs cause; rw [h]; rfl
@[simp] theorem State.killSteps_plan (hs : List Nat) (cause : Nat) : (s.killSteps hs cause).plan = s.plan := by
  obtain ⟨_, h⟩ := s.killSteps_shape hs cause; rw [h]; rfl
@[simp] theorem State.killSteps_planLocked (hs : List Nat) (cause : Nat) : (s.killSteps hs cause).planLocked = s.planLocked := by
  obtain ⟨_, h⟩ := s.killSteps_shape hs cause; rw [h]; rfl
@[simp] theorem State.killSteps_board (hs : List Nat) (cause : Nat) : (s.killSteps hs cause).board = s.board := by
  obtain ⟨_, h⟩ := s.killSteps_shape hs cause; rw [h]; rfl
@[simp] theorem State.killSteps_tb (hs : List Nat) (cause : Nat) : (s.killSteps hs cause).tb = s.tb := by
  obtain ⟨_, h⟩ := s.killSteps_shape hs cause; rw [h]; rfl
@[simp] theorem State.killSteps_coord (hs : List Nat) (cause : Nat) : (s.killSteps hs cause).coord = s.coord := by
  obtain ⟨_, h⟩ := s.killSteps_shape hs cause; rw [h]; rfl
@[simp] theorem State.killSteps_power (hs : List Nat) (cause : Nat) : (s.killSteps hs cause).power = s.power := by
  obtain ⟨_, h⟩ := s.killSteps_shape hs cause; rw [h]; rfl
@[simp] theorem State.killSteps_fw (hs : List Nat) (cause : Nat) : (s.killSteps hs cause).fw = s.fw := by
  obtain ⟨_, h⟩ := s.killSteps_shape hs cause; rw [h]; rfl
@[simp] theorem State.killSteps_report (hs : List Nat) (cause : Nat) : (s.killSteps hs cause).report = s.report := by
  obtain ⟨_, h⟩ := s.killSteps_shape hs cause; rw [h]; rfl
@[simp] theorem State.killSteps_cfg (hs : List Nat) (cause : Nat) : (s.killSteps hs cause).cfg = s.cfg := by
  obtain ⟨_, h⟩ := s.killSteps_shape hs cause; rw [h]; rfl
@[simp] theorem State.killSteps_graphs (hs : List Nat) (cause : Nat) : (s.killSteps hs cause).graphs = s.graphs := by
  obtain ⟨_, h⟩ := s.killSteps_shape hs cause; rw [h]; rfl
@[simp] theorem State.killSteps_nextGref (hs : List Nat) (cause : Nat) : (s.killSteps hs cause).nextGref = s.nextGref := by
  obtain ⟨_, h⟩ := s.killSteps_shape hs cause; rw [h]; rfl
@[simp] theorem State.killSteps_blocks (hs : List Nat) (cause : Nat) : (s.killSteps hs cause).blocks = s.blocks := by
  obtain ⟨_, h⟩ := s.killSteps_shape hs cause; rw [h]; rfl
@[simp] theorem State.killSteps_active (hs : List Nat) (cause : Nat) : (s.killSteps hs cause).active = s.active := by
  obtain ⟨_, h⟩ := s.killSteps_shape hs cause; rw [h]; rfl
@[simp] theorem State.killSteps_shipsOut (hs : List Nat) (cause : Nat) : (s.killSteps hs cause).shipsOut = s.shipsOut := by
  obtain ⟨_, h⟩ := s.killSteps_shape hs cause; rw [h]; rfl
@[simp] theorem State.killSteps_shipsIn (hs : List Nat) (cause : Nat) : (s.killSteps hs cause).shipsIn = s.shipsIn := by
  obtain ⟨_, h⟩ := s.killSteps_shape hs cause; rw [h]; rfl
@[simp] theorem State.killSteps_fenced (hs : List Nat) (cause : Nat) : (s.killSteps hs cause).fenced = s.fenced := by
  obtain ⟨_, h⟩ := s.killSteps_shape hs cause; rw [h]; rfl
@[simp] theorem State.killSteps_fencedDma (hs : List Nat) (cause : Nat) : (s.killSteps hs cause).fencedDma = s.fencedDma := by
  obtain ⟨_, h⟩ := s.killSteps_shape hs cause; rw [h]; rfl
@[simp] theorem State.killSteps_haltedDma (hs : List Nat) (cause : Nat) : (s.killSteps hs cause).haltedDma = s.haltedDma := by
  obtain ⟨_, h⟩ := s.killSteps_shape hs cause; rw [h]; rfl
@[simp] theorem State.killSteps_contexts (hs : List Nat) (cause : Nat) : (s.killSteps hs cause).contexts = s.contexts := by
  obtain ⟨_, h⟩ := s.killSteps_shape hs cause; rw [h]; rfl
@[simp] theorem State.killSteps_waitingReds (hs : List Nat) (cause : Nat) : (s.killSteps hs cause).waitingReds = s.waitingReds := by
  obtain ⟨_, h⟩ := s.killSteps_shape hs cause; rw [h]; rfl
@[simp] theorem State.killSteps_moduleSums (hs : List Nat) (cause : Nat) : (s.killSteps hs cause).moduleSums = s.moduleSums := by
  obtain ⟨_, h⟩ := s.killSteps_shape hs cause; rw [h]; rfl
@[simp] theorem State.killSteps_draws (hs : List Nat) (cause : Nat) : (s.killSteps hs cause).draws = s.draws := by
  obtain ⟨_, h⟩ := s.killSteps_shape hs cause; rw [h]; rfl
@[simp] theorem State.killSteps_pending (hs : List Nat) (cause : Nat) : (s.killSteps hs cause).pending = s.pending := by
  obtain ⟨_, h⟩ := s.killSteps_shape hs cause; rw [h]; rfl
@[simp] theorem State.killSteps_net_fab (hs : List Nat) (cause : Nat) : (s.killSteps hs cause).net.fab = s.net.fab := by
  obtain ⟨_, h⟩ := s.killSteps_shape hs cause; rw [h]; rfl
@[simp] theorem State.killSteps_net_fabCounters (hs : List Nat) (cause : Nat) : (s.killSteps hs cause).net.fabCounters = s.net.fabCounters := by
  obtain ⟨_, h⟩ := s.killSteps_shape hs cause; rw [h]; rfl
@[simp] theorem State.killSteps_net_viols (hs : List Nat) (cause : Nat) : (s.killSteps hs cause).net.viols = s.net.viols := by
  obtain ⟨_, h⟩ := s.killSteps_shape hs cause; rw [h]; rfl
@[simp] theorem State.killSteps_net_quarantined (hs : List Nat) (cause : Nat) : (s.killSteps hs cause).net.quarantined = s.net.quarantined := by
  obtain ⟨_, h⟩ := s.killSteps_shape hs cause; rw [h]; rfl

@[simp] theorem State.killActive_flash (cause : Nat) : (s.killActive cause).flash = s.flash := by
  obtain ⟨_, h⟩ := s.killActive_shape cause; rw [h]; rfl
@[simp] theorem State.killActive_plan (cause : Nat) : (s.killActive cause).plan = s.plan := by
  obtain ⟨_, h⟩ := s.killActive_shape cause; rw [h]; rfl
@[simp] theorem State.killActive_planLocked (cause : Nat) : (s.killActive cause).planLocked = s.planLocked := by
  obtain ⟨_, h⟩ := s.killActive_shape cause; rw [h]; rfl
@[simp] theorem State.killActive_board (cause : Nat) : (s.killActive cause).board = s.board := by
  obtain ⟨_, h⟩ := s.killActive_shape cause; rw [h]; rfl
@[simp] theorem State.killActive_tb (cause : Nat) : (s.killActive cause).tb = s.tb := by
  obtain ⟨_, h⟩ := s.killActive_shape cause; rw [h]; rfl
@[simp] theorem State.killActive_coord (cause : Nat) : (s.killActive cause).coord = s.coord := by
  obtain ⟨_, h⟩ := s.killActive_shape cause; rw [h]; rfl
@[simp] theorem State.killActive_power (cause : Nat) : (s.killActive cause).power = s.power := by
  obtain ⟨_, h⟩ := s.killActive_shape cause; rw [h]; rfl
@[simp] theorem State.killActive_fw (cause : Nat) : (s.killActive cause).fw = s.fw := by
  obtain ⟨_, h⟩ := s.killActive_shape cause; rw [h]; rfl
@[simp] theorem State.killActive_report (cause : Nat) : (s.killActive cause).report = s.report := by
  obtain ⟨_, h⟩ := s.killActive_shape cause; rw [h]; rfl
@[simp] theorem State.killActive_cfg (cause : Nat) : (s.killActive cause).cfg = s.cfg := by
  obtain ⟨_, h⟩ := s.killActive_shape cause; rw [h]; rfl
@[simp] theorem State.killActive_graphs (cause : Nat) : (s.killActive cause).graphs = s.graphs := by
  obtain ⟨_, h⟩ := s.killActive_shape cause; rw [h]; rfl
@[simp] theorem State.killActive_nextGref (cause : Nat) : (s.killActive cause).nextGref = s.nextGref := by
  obtain ⟨_, h⟩ := s.killActive_shape cause; rw [h]; rfl
@[simp] theorem State.killActive_blocks (cause : Nat) : (s.killActive cause).blocks = s.blocks := by
  obtain ⟨_, h⟩ := s.killActive_shape cause; rw [h]; rfl
@[simp] theorem State.killActive_active (cause : Nat) : (s.killActive cause).active = s.active := by
  obtain ⟨_, h⟩ := s.killActive_shape cause; rw [h]; rfl
@[simp] theorem State.killActive_shipsOut (cause : Nat) : (s.killActive cause).shipsOut = s.shipsOut := by
  obtain ⟨_, h⟩ := s.killActive_shape cause; rw [h]; rfl
@[simp] theorem State.killActive_shipsIn (cause : Nat) : (s.killActive cause).shipsIn = s.shipsIn := by
  obtain ⟨_, h⟩ := s.killActive_shape cause; rw [h]; rfl
@[simp] theorem State.killActive_fenced (cause : Nat) : (s.killActive cause).fenced = s.fenced := by
  obtain ⟨_, h⟩ := s.killActive_shape cause; rw [h]; rfl
@[simp] theorem State.killActive_fencedDma (cause : Nat) : (s.killActive cause).fencedDma = s.fencedDma := by
  obtain ⟨_, h⟩ := s.killActive_shape cause; rw [h]; rfl
@[simp] theorem State.killActive_haltedDma (cause : Nat) : (s.killActive cause).haltedDma = s.haltedDma := by
  obtain ⟨_, h⟩ := s.killActive_shape cause; rw [h]; rfl
@[simp] theorem State.killActive_contexts (cause : Nat) : (s.killActive cause).contexts = s.contexts := by
  obtain ⟨_, h⟩ := s.killActive_shape cause; rw [h]; rfl
@[simp] theorem State.killActive_waitingReds (cause : Nat) : (s.killActive cause).waitingReds = s.waitingReds := by
  obtain ⟨_, h⟩ := s.killActive_shape cause; rw [h]; rfl
@[simp] theorem State.killActive_moduleSums (cause : Nat) : (s.killActive cause).moduleSums = s.moduleSums := by
  obtain ⟨_, h⟩ := s.killActive_shape cause; rw [h]; rfl
@[simp] theorem State.killActive_draws (cause : Nat) : (s.killActive cause).draws = s.draws := by
  obtain ⟨_, h⟩ := s.killActive_shape cause; rw [h]; rfl
@[simp] theorem State.killActive_pending (cause : Nat) : (s.killActive cause).pending = s.pending := by
  obtain ⟨_, h⟩ := s.killActive_shape cause; rw [h]; rfl
@[simp] theorem State.killActive_net_fab (cause : Nat) : (s.killActive cause).net.fab = s.net.fab := by
  obtain ⟨_, h⟩ := s.killActive_shape cause; rw [h]; rfl
@[simp] theorem State.killActive_net_fabCounters (cause : Nat) : (s.killActive cause).net.fabCounters = s.net.fabCounters := by
  obtain ⟨_, h⟩ := s.killActive_shape cause; rw [h]; rfl
@[simp] theorem State.killActive_net_viols (cause : Nat) : (s.killActive cause).net.viols = s.net.viols := by
  obtain ⟨_, h⟩ := s.killActive_shape cause; rw [h]; rfl
@[simp] theorem State.killActive_net_quarantined (cause : Nat) : (s.killActive cause).net.quarantined = s.net.quarantined := by
  obtain ⟨_, h⟩ := s.killActive_shape cause; rw [h]; rfl

@[simp] theorem State.addressFault_flash (who : Agent) (a : Nat) : (s.addressFault who a).flash = s.flash := by
  obtain ⟨_, h⟩ := s.addressFault_shape who a; rw [h]; rfl
@[simp] theorem State.addressFault_plan (who : Agent) (a : Nat) : (s.addressFault who a).plan = s.plan := by
  obtain ⟨_, h⟩ := s.addressFault_shape who a; rw [h]; rfl
@[simp] theorem State.addressFault_planLocked (who : Agent) (a : Nat) : (s.addressFault who a).planLocked = s.planLocked := by
  obtain ⟨_, h⟩ := s.addressFault_shape who a; rw [h]; rfl
@[simp] theorem State.addressFault_board (who : Agent) (a : Nat) : (s.addressFault who a).board = s.board := by
  obtain ⟨_, h⟩ := s.addressFault_shape who a; rw [h]; rfl
@[simp] theorem State.addressFault_tb (who : Agent) (a : Nat) : (s.addressFault who a).tb = s.tb := by
  obtain ⟨_, h⟩ := s.addressFault_shape who a; rw [h]; rfl
@[simp] theorem State.addressFault_coord (who : Agent) (a : Nat) : (s.addressFault who a).coord = s.coord := by
  obtain ⟨_, h⟩ := s.addressFault_shape who a; rw [h]; rfl
@[simp] theorem State.addressFault_power (who : Agent) (a : Nat) : (s.addressFault who a).power = s.power := by
  obtain ⟨_, h⟩ := s.addressFault_shape who a; rw [h]; rfl
@[simp] theorem State.addressFault_fw (who : Agent) (a : Nat) : (s.addressFault who a).fw = s.fw := by
  obtain ⟨_, h⟩ := s.addressFault_shape who a; rw [h]; rfl
@[simp] theorem State.addressFault_report (who : Agent) (a : Nat) : (s.addressFault who a).report = s.report := by
  obtain ⟨_, h⟩ := s.addressFault_shape who a; rw [h]; rfl
@[simp] theorem State.addressFault_cfg (who : Agent) (a : Nat) : (s.addressFault who a).cfg = s.cfg := by
  obtain ⟨_, h⟩ := s.addressFault_shape who a; rw [h]; rfl
@[simp] theorem State.addressFault_graphs (who : Agent) (a : Nat) : (s.addressFault who a).graphs = s.graphs := by
  obtain ⟨_, h⟩ := s.addressFault_shape who a; rw [h]; rfl
@[simp] theorem State.addressFault_nextGref (who : Agent) (a : Nat) : (s.addressFault who a).nextGref = s.nextGref := by
  obtain ⟨_, h⟩ := s.addressFault_shape who a; rw [h]; rfl
@[simp] theorem State.addressFault_blocks (who : Agent) (a : Nat) : (s.addressFault who a).blocks = s.blocks := by
  obtain ⟨_, h⟩ := s.addressFault_shape who a; rw [h]; rfl
@[simp] theorem State.addressFault_active (who : Agent) (a : Nat) : (s.addressFault who a).active = s.active := by
  obtain ⟨_, h⟩ := s.addressFault_shape who a; rw [h]; rfl
@[simp] theorem State.addressFault_shipsOut (who : Agent) (a : Nat) : (s.addressFault who a).shipsOut = s.shipsOut := by
  obtain ⟨_, h⟩ := s.addressFault_shape who a; rw [h]; rfl
@[simp] theorem State.addressFault_shipsIn (who : Agent) (a : Nat) : (s.addressFault who a).shipsIn = s.shipsIn := by
  obtain ⟨_, h⟩ := s.addressFault_shape who a; rw [h]; rfl
@[simp] theorem State.addressFault_fenced (who : Agent) (a : Nat) : (s.addressFault who a).fenced = s.fenced := by
  obtain ⟨_, h⟩ := s.addressFault_shape who a; rw [h]; rfl
@[simp] theorem State.addressFault_fencedDma (who : Agent) (a : Nat) : (s.addressFault who a).fencedDma = s.fencedDma := by
  obtain ⟨_, h⟩ := s.addressFault_shape who a; rw [h]; rfl
@[simp] theorem State.addressFault_haltedDma (who : Agent) (a : Nat) : (s.addressFault who a).haltedDma = s.haltedDma := by
  obtain ⟨_, h⟩ := s.addressFault_shape who a; rw [h]; rfl
@[simp] theorem State.addressFault_contexts (who : Agent) (a : Nat) : (s.addressFault who a).contexts = s.contexts := by
  obtain ⟨_, h⟩ := s.addressFault_shape who a; rw [h]; rfl
@[simp] theorem State.addressFault_waitingReds (who : Agent) (a : Nat) : (s.addressFault who a).waitingReds = s.waitingReds := by
  obtain ⟨_, h⟩ := s.addressFault_shape who a; rw [h]; rfl
@[simp] theorem State.addressFault_moduleSums (who : Agent) (a : Nat) : (s.addressFault who a).moduleSums = s.moduleSums := by
  obtain ⟨_, h⟩ := s.addressFault_shape who a; rw [h]; rfl
@[simp] theorem State.addressFault_draws (who : Agent) (a : Nat) : (s.addressFault who a).draws = s.draws := by
  obtain ⟨_, h⟩ := s.addressFault_shape who a; rw [h]; rfl
@[simp] theorem State.addressFault_pending (who : Agent) (a : Nat) : (s.addressFault who a).pending = s.pending := by
  obtain ⟨_, h⟩ := s.addressFault_shape who a; rw [h]; rfl
@[simp] theorem State.addressFault_net_fab (who : Agent) (a : Nat) : (s.addressFault who a).net.fab = s.net.fab := by
  obtain ⟨_, h⟩ := s.addressFault_shape who a; rw [h]; rfl
@[simp] theorem State.addressFault_net_fabCounters (who : Agent) (a : Nat) : (s.addressFault who a).net.fabCounters = s.net.fabCounters := by
  obtain ⟨_, h⟩ := s.addressFault_shape who a; rw [h]; rfl
@[simp] theorem State.addressFault_net_viols (who : Agent) (a : Nat) : (s.addressFault who a).net.viols = s.net.viols := by
  obtain ⟨_, h⟩ := s.addressFault_shape who a; rw [h]; rfl
@[simp] theorem State.addressFault_net_quarantined (who : Agent) (a : Nat) : (s.addressFault who a).net.quarantined = s.net.quarantined := by
  obtain ⟨_, h⟩ := s.addressFault_shape who a; rw [h]; rfl

end

/-! ## Upsets of accumulator memory (R357) -/

theorem checkAcc_none : checkAcc (maskOf none) = some (0, false) := by decide
@[simp] theorem Group.flip_zero (e : Nat) (g : Group) : g.flip e 0 = g := rfl
@[simp] theorem Cell.flipAcc_zero (t : TileId) (e : Nat) (c : Cell) : c.flipAcc t e 0 = c := rfl

/-- A requantiser that a reduction feeds meets no upset of its own tile. -/
theorem Group.upset_tree {g : Group} (h : g.tag.tree = true) (x : AccRead) : g.upset x = none := by simp [Group.upset, h]

/-- A reduction reads only cells of its die (R107). -/
theorem State.leafUpset_otherDie {s : State} {st : Stage} {die : Nat} {k : GroupKey} {n : CellId} {x : AccRead}
    (h : cellDie n.val ≠ die) : s.leafUpset st die k n x = none := by simp [State.leafUpset, h]

end Sys2Proof.Machine
end

