-- ==== Sys2Proof/Laws/Memory.lean ====
section
/-! SUPPORT. Sparse memory: every operation keeps the canonical form, and what a read gives after a write. -/
namespace Sys2Proof.Machine

/-! ## The canonical form -/

/-- A memory whose cells all stand at `lo` or above is canonical. -/
def Mem.wfFrom : Nat → Mem → Prop
  | _, [] => True
  | lo, c :: m => lo ≤ c.1 ∧ c.2 ≠ 0 ∧ Mem.wfFrom (c.1 + 1) m

theorem Mem.wfFrom_mono {lo lo' : Nat} (h : lo' ≤ lo) : ∀ {m : Mem}, Mem.wfFrom lo m → Mem.wfFrom lo' m
  | [], _ => trivial
  | _ :: _, ⟨h1, h2, h3⟩ => ⟨Nat.le_trans h h1, h2, h3⟩

theorem Mem.wf_iff : ∀ m : Mem, Mem.wf m = true ↔ Mem.wfFrom 0 m
  | [] => by simp [Mem.wf, Mem.wfFrom]
  | [c] => by simp [Mem.wf, Mem.wfFrom]
  | a :: b :: m => by
    have ih := Mem.wf_iff (b :: m)
    simp only [Mem.wfFrom, Nat.zero_le, true_and] at ih
    simp only [Mem.wf, Bool.and_eq_true, bne_iff_ne, decide_eq_true_eq, ih, Mem.wfFrom, Nat.zero_le, true_and]
    constructor
    · rintro ⟨⟨h1, h2⟩, h3, h4⟩; exact ⟨h1, h2, h3, h4⟩
    · rintro ⟨h1, h2, h3, h4⟩; exact ⟨⟨h1, h2⟩, h3, h4⟩

theorem Mem.wfFrom_filter (p : Host.Cell → Bool) : ∀ {lo : Nat} {m : Mem}, Mem.wfFrom lo m → Mem.wfFrom lo (m.filter p)
  | _, [], _ => trivial
  | lo, c :: m, ⟨h1, h2, h3⟩ => by
    have ih := Mem.wfFrom_filter p h3
    by_cases hp : p c = true
    · simp only [List.filter_cons_of_pos hp]; exact ⟨h1, h2, ih⟩
    · simp only [List.filter_cons_of_neg hp]; exact Mem.wfFrom_mono (Nat.le_succ_of_le h1) ih

/-- A memory is canonical over a range when its cells stand there in order. -/
theorem Mem.wfFrom_append {hi : Nat} : ∀ {lo : Nat} {m m' : Mem}, Mem.wfFrom lo m → (∀ c ∈ m, c.1 < hi) → lo ≤ hi →
    Mem.wfFrom hi m' → Mem.wfFrom lo (m ++ m')
  | _, [], _, _, _, hl, h' => Mem.wfFrom_mono hl h'
  | _, c :: _, _, ⟨h1, h2, h3⟩, hb, _, h' =>
    ⟨h1, h2, Mem.wfFrom_append h3 (fun x hx => hb x (List.mem_cons_of_mem _ hx))
      (hb c List.mem_cons_self) h'⟩

theorem Mem.wfFrom_cells : ∀ (bs : Bytes) (a : Nat), Mem.wfFrom a (Mem.cells a bs)
  | [], _ => trivial
  | b :: bs, a => by
    have ih := Mem.wfFrom_cells bs (a + 1)
    unfold Mem.cells
    split
    · exact Mem.wfFrom_mono (Nat.le_succ a) ih
    · next h => exact ⟨Nat.le_refl a, h, ih⟩

theorem Mem.cells_lt : ∀ (bs : Bytes) (a : Nat), ∀ c ∈ Mem.cells a bs, a ≤ c.1 ∧ c.1 < a + bs.length
  | [], _, _, h => by simp [Mem.cells] at h
  | b :: bs, a, c, h => by
    unfold Mem.cells at h
    simp only [List.length_cons]
    split at h
    · have := Mem.cells_lt bs (a + 1) c h; omega
    · rcases List.mem_cons.mp h with rfl | h
      · simp
      · have := Mem.cells_lt bs (a + 1) c h; omega

theorem Mem.wfFrom_ge {e : Nat} : ∀ {lo : Nat} {m : Mem}, Mem.wfFrom lo m →
    Mem.wfFrom e (m.filter (fun c => decide (e ≤ c.1)))
  | _, [], _ => trivial
  | _, c :: m, ⟨_, h2, h3⟩ => by
    have ih := Mem.wfFrom_ge (e := e) h3
    by_cases he : e ≤ c.1
    · rw [List.filter_cons_of_pos (by simpa using he)]
      refine ⟨he, h2, ?_⟩
      exact Mem.wfFrom_filter _ h3
    · rw [List.filter_cons_of_neg (by simpa using he)]; exact ih

/-- A write keeps the canonical form. -/
theorem Mem.write_wf {m : Mem} (h : Mem.wf m = true) (a : Nat) (bs : Bytes) : Mem.wf (Mem.write m a bs) = true := by
  rw [Mem.wf_iff] at h ⊢
  unfold Mem.write
  refine Mem.wfFrom_append (hi := a + bs.length) ?_ ?_ (Nat.zero_le _) (Mem.wfFrom_ge h)
  · refine Mem.wfFrom_append (hi := a) (Mem.wfFrom_filter _ h) ?_ (Nat.zero_le _) (Mem.wfFrom_cells bs a)
    intro c hc
    simpa using (List.mem_filter.mp hc).2
  · intro c hc
    rcases List.mem_append.mp hc with hc | hc
    · have : c.1 < a := by simpa using (List.mem_filter.mp hc).2
      omega
    · exact (Mem.cells_lt bs a c hc).2

/-- Dropping cells keeps the canonical form. -/
theorem Mem.filter_wf {m : Mem} (h : Mem.wf m = true) (p : Host.Cell → Bool) : Mem.wf (m.filter p) = true := by
  rw [Mem.wf_iff] at h ⊢
  exact Mem.wfFrom_filter p h

/-! ## Reading -/

theorem Mem.get_cells : ∀ (bs : Bytes) (a x : Nat),
    Mem.get (Mem.cells a bs) x = if a ≤ x ∧ x < a + bs.length then bs.getD (x - a) 0 else 0
  | [], a, x => by simp [Mem.cells, Mem.get]
  | b :: bs, a, x => by
    have ih := Mem.get_cells bs (a + 1) x
    by_cases hx : x = a
    · subst hx
      have h0 : Mem.get (Mem.cells (x + 1) bs) x = 0 := by
        rw [ih, if_neg (by omega)]
      unfold Mem.cells
      split
      · next h => simp [h0, h]
      · simp [Mem.get]
    · have hr : Mem.get (Mem.cells a (b :: bs)) x = Mem.get (Mem.cells (a + 1) bs) x := by
        conv => lhs; unfold Mem.cells
        split
        · rfl
        · simp [Mem.get, Ne.symm hx]
      rw [hr, ih]
      by_cases hr2 : a + 1 ≤ x ∧ x < a + 1 + bs.length
      · have : a ≤ x ∧ x < a + (bs.length + 1) := by omega
        obtain ⟨k, rfl⟩ : ∃ k, x = a + 1 + k := ⟨x - (a + 1), by omega⟩
        simp [this, hr2, show a + 1 + k - a = k + 1 by omega]
      · rw [if_neg hr2, if_neg (by rw [List.length_cons]; omega)]

theorem Mem.get_nil (x : Nat) : Mem.get [] x = 0 := rfl

theorem Mem.get_cons (c : Host.Cell) (m : Mem) (x : Nat) :
    Mem.get (c :: m) x = if c.1 = x then c.2 else Mem.get m x := by
  unfold Mem.get
  by_cases h : c.1 = x
  · simp [h]
  · simp [beq_false_of_ne h, h]

/-- Where no cell of the first part stands, the second part is read. -/
theorem Mem.get_append_right {m : Mem} (m' : Mem) {x : Nat} (h : ∀ c ∈ m, c.1 ≠ x) : Mem.get (m ++ m') x = Mem.get m' x := by
  induction m with
  | nil => rfl
  | cons c m ih =>
    rw [List.cons_append, Mem.get_cons, if_neg (h c List.mem_cons_self), ih (fun d hd => h d (List.mem_cons_of_mem _ hd))]

/-- Where no cell of the second part stands, the first part is read. -/
theorem Mem.get_append_left (m : Mem) {m' : Mem} {x : Nat} (h : ∀ c ∈ m', c.1 ≠ x) : Mem.get (m ++ m') x = Mem.get m x := by
  induction m with
  | nil =>
    rw [List.nil_append, Mem.get_nil]
    have := Mem.get_append_right [] h
    rw [List.append_nil] at this
    exact this
  | cons c m ih => rw [List.cons_append, Mem.get_cons, Mem.get_cons, ih]

theorem Mem.get_filter (m : Mem) (p : Nat → Bool) (x : Nat) :
    Mem.get (m.filter (fun c => p c.1)) x = if p x then Mem.get m x else 0 := by
  induction m with
  | nil => simp [Mem.get_nil]
  | cons c m ih =>
    by_cases hp : p c.1 = true
    · rw [List.filter_cons_of_pos (by exact hp), Mem.get_cons, Mem.get_cons, ih]
      by_cases hc : c.1 = x
      · subst hc; simp [hp]
      · simp [hc]
    · rw [List.filter_cons_of_neg (by exact hp), ih, Mem.get_cons]
      by_cases hc : c.1 = x
      · subst hc; simp [hp]
      · simp [hc]

/-- The byte at an address after a write: the one written, else what stood there. -/
theorem Mem.get_write (m : Mem) (a : Nat) (bs : Bytes) (x : Nat) :
    Mem.get (Mem.write m a bs) x = if a ≤ x ∧ x < a + bs.length then bs.getD (x - a) 0 else Mem.get m x := by
  unfold Mem.write
  rw [List.append_assoc]
  by_cases h1 : x < a
  · rw [Mem.get_append_left, Mem.get_filter m (fun n => decide (n < a)) x]
    · rw [if_pos (by simpa using h1), if_neg (by omega)]
    · intro c hc
      rcases List.mem_append.mp hc with hc | hc
      · have := Mem.cells_lt bs a c hc; omega
      · have := (List.mem_filter.mp hc).2; simp at this; omega
  · rw [Mem.get_append_right]
    · by_cases h2 : x < a + bs.length
      · rw [Mem.get_append_left, Mem.get_cells]
        · rw [if_pos (by omega)]
          simp [Nat.le_of_not_lt h1, h2]
        · intro c hc; have := (List.mem_filter.mp hc).2; simp at this; omega
      · rw [Mem.get_append_right, Mem.get_filter m (fun n => decide (a + bs.length ≤ n)) x]
        · simp [h2, show a + bs.length ≤ x by omega]
        · intro c hc; have := Mem.cells_lt bs a c hc; omega
    · intro c hc; have := (List.mem_filter.mp hc).2; simp at this; omega

theorem Mem.expand_length : ∀ (n a : Nat) (m : Mem), (Mem.expand n a m).length = n
  | 0, _, _ => rfl
  | n + 1, a, [] => by simp [Mem.expand, Mem.expand_length n]
  | n + 1, a, c :: m => by
    unfold Mem.expand; split <;> simp [Mem.expand_length n]

@[simp] theorem Mem.read_length (m : Mem) (a n : Nat) : (Mem.read m a n).length = n := Mem.expand_length n a _

theorem Mem.expand_getD : ∀ (n a : Nat) (m : Mem), Mem.wfFrom a m → ∀ k, k < n →
    (Mem.expand n a m).getD k 0 = Mem.get m (a + k)
  | 0, _, _, _, k, h => by omega
  | n + 1, a, [], _, k, h => by
    cases k with
    | zero => simp [Mem.expand, Mem.get_nil]
    | succ k =>
      have := Mem.expand_getD n (a + 1) [] trivial k (by omega)
      simp only [Mem.expand, List.getD_cons_succ, this, Mem.get_nil]
  | n + 1, a, c :: m, ⟨h1, h2, h3⟩, k, h => by
    unfold Mem.expand
    split
    · next hc =>
      cases k with
      | zero => simp [Mem.get_cons, hc]
      | succ k =>
        have := Mem.expand_getD n (a + 1) m (hc ▸ h3) k (by omega)
        rw [List.getD_cons_succ, this, Mem.get_cons, if_neg (by omega), Nat.add_right_comm, Nat.add_assoc]
    · next hc =>
      cases k with
      | zero =>
        rw [List.getD_cons_zero, Nat.add_zero]
        have : ∀ d ∈ c :: m, d.1 ≠ a := by
          intro d hd
          rcases List.mem_cons.mp hd with rfl | hd
          · exact hc
          · have : ∀ {lo : Nat} {m : Mem}, Mem.wfFrom lo m → ∀ d ∈ m, lo ≤ d.1 := by
              intro lo m
              induction m generalizing lo with
              | nil => intro _ d hd; cases hd
              | cons c m ih =>
                rintro ⟨g1, _, g3⟩ d hd
                rcases List.mem_cons.mp hd with rfl | hd
                · exact g1
                · have := ih g3 d hd; omega
            have := this h3 d hd; omega
        have := Mem.get_append_right (m := c :: m) [] this
        rw [List.append_nil, Mem.get_nil] at this
        exact this.symm
      | succ k =>
        have := Mem.expand_getD n (a + 1) (c :: m) ⟨by omega, h2, h3⟩ k (by omega)
        rw [List.getD_cons_succ, this, Nat.add_right_comm, Nat.add_assoc]

theorem Mem.wfFrom_dropWhile (a : Nat) : ∀ {lo : Nat} {m : Mem}, Mem.wfFrom lo m →
    Mem.wfFrom a (m.dropWhile (fun c => decide (c.1 < a)))
  | _, [], _ => trivial
  | _, c :: m, ⟨_, h2, h3⟩ => by
    by_cases hc : c.1 < a
    · simp only [List.dropWhile_cons, hc, decide_true, if_true]; exact Mem.wfFrom_dropWhile a h3
    · simp only [List.dropWhile_cons, hc, decide_false]; exact ⟨by omega, h2, h3⟩

theorem Mem.get_dropWhile (a x : Nat) (hx : a ≤ x) : ∀ m : Mem,
    Mem.get (m.dropWhile (fun c => decide (c.1 < a))) x = Mem.get m x
  | [] => rfl
  | c :: m => by
    by_cases hc : c.1 < a
    · simp only [List.dropWhile_cons, hc, decide_true, if_true]
      rw [Mem.get_dropWhile a x hx m, Mem.get_cons, if_neg (by omega)]
    · simp only [List.dropWhile_cons, hc, decide_false]; rfl

/-- A read gives the bytes at its addresses. -/
theorem Mem.read_getD {m : Mem} (h : Mem.wf m = true) (a n k : Nat) (hk : k < n) :
    (Mem.read m a n).getD k 0 = Mem.get m (a + k) := by
  unfold Mem.read
  rw [Mem.expand_getD n a _ (Mem.wfFrom_dropWhile a ((Mem.wf_iff m).mp h)) k hk, Mem.get_dropWhile a _ (by omega)]

/-- Reads of equal bytes are equal. -/
theorem Mem.read_congr {m m' : Mem} (h : Mem.wf m = true) (h' : Mem.wf m' = true) (a n : Nat)
    (hg : ∀ x, a ≤ x → x < a + n → Mem.get m x = Mem.get m' x) : Mem.read m a n = Mem.read m' a n := by
  apply List.ext_getElem (by simp)
  intro k hk hk'
  rw [Mem.read_length] at hk
  have h1 := Mem.read_getD h a n k hk
  have h2 := Mem.read_getD h' a n k hk
  rw [hg (a + k) (by omega) (by omega), ← h2] at h1
  simpa [List.getD_eq_getElem?_getD, List.getElem?_eq_getElem, hk] using h1

/-- A read of what was just written gives it back. -/
theorem Mem.read_write {m : Mem} (h : Mem.wf m = true) (a : Nat) (bs : Bytes) :
    Mem.read (Mem.write m a bs) a bs.length = bs := by
  apply List.ext_getElem (by simp)
  intro k hk hk'
  have h1 := Mem.read_getD (Mem.write_wf h a bs) a bs.length k hk'
  rw [Mem.get_write, if_pos (by omega), Nat.add_sub_cancel_left] at h1
  simpa [List.getD_eq_getElem?_getD, List.getElem?_eq_getElem, hk'] using h1

/-! ## The machine's memory -/

theorem Hbm.sWrite_wf {h : Hbm} (hw : Mem.wf h.mem = true) (a : Nat) (bs : Bytes) : Mem.wf (h.sWrite a bs).mem = true :=
  Mem.write_wf hw _ _

theorem bulkPut_wf (addr : Nat → Nat) : ∀ (xs : List (Nat × Nat)) (bs : Bytes) {h : Hbm}, Mem.wf h.mem = true →
    Mem.wf (bulkPut addr xs bs h).mem = true
  | [], _, _, hw => hw
  | _ :: xs, _, _, hw => bulkPut_wf addr xs _ (Hbm.sWrite_wf hw _ _)

theorem State.bulkWrite_memoryWf {s : State} (hs : s.memoryWf) (p : PartId) (v : Nat) (bs : Bytes) :
    (s.bulkWrite p v bs).memoryWf := ⟨bulkPut_wf _ _ _ hs.1, hs.2⟩

theorem State.ctrlWrite_memoryWf {s : State} (hs : s.memoryWf) (p : PartId) (a : Nat) (bs : Bytes) :
    (s.ctrlWrite p a bs).memoryWf := by
  refine ⟨hs.1, fun q => ?_⟩
  have e : (s.ctrlWrite p a bs).parts[q.val]
      = if p.val = q.val then { s.parts[p.val] with ctrl := Mem.write s.parts[p.val].ctrl a bs } else s.parts[q.val] := by
    simp [State.ctrlWrite, State.updPart, Vector.getElem_set]
  rw [e]
  split
  · exact Mem.write_wf (hs.2 p) a bs
  · exact hs.2 q

theorem State.updBox_memoryWf {s : State} (hs : s.memoryWf) (p : PartId) (m : BoxId) (f : Box → Box) :
    (s.updBox p m f).memoryWf := by
  refine ⟨hs.1, fun q => ?_⟩
  have e : (s.updBox p m f).parts[q.val].ctrl = s.parts[q.val].ctrl := by
    simp only [State.updBox, State.updPart, Vector.getElem_set]
    split <;> simp_all
  rw [e]; exact hs.2 q

/-- A change that leaves HBM and every control window as they are. -/
theorem State.memoryWf_of_eq {s t : State} (hs : s.memoryWf) (hm : t.hbm.mem = s.hbm.mem) (hp : t.parts = s.parts) :
    t.memoryWf := by
  unfold State.memoryWf
  rw [hm, hp]
  exact hs

theorem State.withSent_memoryWf {s : State} (hs : s.memoryWf) (b) : (s.withSent b).memoryWf := hs

/-- A fold of operations that keep the canonical form keeps it. -/
theorem foldl_memoryWf {α : Type} (f : State → α → State) (hf : ∀ s x, s.memoryWf → (f s x).memoryWf) (xs : List α)
    {s : State} (hs : s.memoryWf) : (xs.foldl f s).memoryWf := by
  induction xs generalizing s with
  | nil => exact hs
  | cons x xs ih => exact ih (hf s x hs)

/-- A queue takes a record without touching its control window. -/
theorem Part.post_ctrl (q : Part) (p : Nat) (e : Event) : (q.post p e).ctrl = q.ctrl := by
  unfold Part.post
  split
  · rfl
  · split
    · rfl
    · simp only []; split <;> rfl

theorem State.postTo_memoryWf {s : State} (hs : s.memoryWf) (p : PartId) (e : Event) : (s.postTo p e).memoryWf := by
  unfold State.postTo
  split
  · have h1 : (s.updPart p (fun q => q.post p.val e)).memoryWf := by
      refine ⟨hs.1, fun q => ?_⟩
      have e : (s.updPart p (fun q => q.post p.val e)).parts[q.val].ctrl = s.parts[q.val].ctrl := by
        simp only [State.updPart, Vector.getElem_set]
        split
        · next h => rw [Part.post_ctrl]; simp only [h]
        · rfl
      rw [e]; exact hs.2 q
    simp only []
    split
    · obtain ⟨b, h⟩ := (s.updPart p (fun q => q.post p.val e)).noticePart_shape p (noticeWord 2 0 0)
      rw [h]; exact h1
    · exact h1
  · exact hs

theorem State.postPart_memoryWf {s : State} (hs : s.memoryWf) (p : PartId) (e : Event) : (s.postPart p e).memoryWf :=
  State.postTo_memoryWf hs _ _

theorem State.postParts_memoryWf {s : State} (hs : s.memoryWf) (ps : List PartId) (e : Event) :
    (s.postParts ps e).memoryWf := foldl_memoryWf _ (fun _ p h => State.postPart_memoryWf h p e) _ hs

theorem State.postModule_memoryWf {s : State} (hs : s.memoryWf) (e : Event) : (s.postModule e).memoryWf :=
  foldl_memoryWf _ (fun _ p h => State.postTo_memoryWf h p _) _ hs

theorem State.postPartBad_memoryWf {s : State} (hs : s.memoryWf) (p : PartId) (v n : Nat) :
    (s.postPartBad p v n).memoryWf := foldl_memoryWf _ (fun _ _ h => State.postModule_memoryWf h _) _ hs

theorem State.bulkStore_memoryWf {s : State} (hs : s.memoryWf) (p : PartId) (v : Nat) (bs : Bytes) :
    (s.bulkStore p v bs).memoryWf := State.bulkWrite_memoryWf (State.postPartBad_memoryWf hs p v _) p v bs

theorem State.returnSlot_memoryWf {s : State} (hs : s.memoryWf) (p : PartId) (k : Nat) :
    (State.returnSlot p s k).memoryWf := by
  unfold State.returnSlot
  split
  · obtain ⟨b, h⟩ := (s.bulkStore p k [0]).noticePart_shape p (noticeWord 1 0 k)
    rw [h]
    exact State.bulkStore_memoryWf hs p k [0]
  · exact hs

theorem State.returnSlots_memoryWf {s : State} (hs : s.memoryWf) (p : PartId) (ks : List Nat) :
    (s.returnSlots p ks).memoryWf := foldl_memoryWf _ (fun _ k h => State.returnSlot_memoryWf h p k) _ hs

theorem State.replyHeader_memoryWf {s : State} (hs : s.memoryWf) (p : PartId) (m : BoxId) (tag flip done : Nat) (r : Result) :
    (s.replyHeader p m tag flip done r).memoryWf :=
  State.ctrlWrite_memoryWf (State.ctrlWrite_memoryWf hs _ _ _) _ _ _

theorem State.replyBody_memoryWf {s : State} (hs : s.memoryWf) (p : PartId) (m : BoxId) (r : Result) :
    (s.replyBody p m r).memoryWf := by
  unfold State.replyBody
  split
  · exact State.ctrlWrite_memoryWf hs _ _ _
  · exact hs

theorem State.returnBox_memoryWf {s : State} (hs : s.memoryWf) (p : PartId) (m : BoxId) : (s.returnBox p m).memoryWf := by
  have h1 : ((s.ctrlWrite p (boxAt m) (zeros 8)).updBox p m
      (fun b => { b with owned := false, taken := false, flipQp := none })).memoryWf :=
    State.updBox_memoryWf (State.ctrlWrite_memoryWf hs _ _ _) _ _ _
  unfold State.returnBox
  simp only []
  split
  · exact h1
  · next k _ =>
    obtain ⟨b, h⟩ := State.notice_shape _ k (noticeWord 0 m.val 0)
    rw [h]; exact h1

theorem State.answer_memoryWf {s : State} (hs : s.memoryWf) (c : Cmd) (done : Nat) (r : Result) :
    (s.answer c done r).memoryWf :=
  State.returnBox_memoryWf (State.replyBody_memoryWf (State.replyHeader_memoryWf
    (State.returnSlots_memoryWf hs c.p c.slots) c.p c.m c.tag c.flip done r) c.p c.m r) c.p c.m

theorem State.send_memoryWf {s : State} (hs : s.memoryWf) (os : List Out) : (s.send os).memoryWf := by
  obtain ⟨b, h⟩ := s.send_shape os
  rw [h]; exact hs

theorem State.abandonStep_memoryWf {s : State} (hs : s.memoryWf) (j : Job) (x : Step) (cause : Nat) :
    (s.abandonStep j x cause).memoryWf := by
  unfold State.abandonStep
  simp only []
  split
  · split
    · exact hs
    · exact State.postPart_memoryWf (State.answer_memoryWf (s := (s.updJob j.handle Job.dropRound).tidyJob j.handle) hs _ _ _) _ _
  · exact State.postPart_memoryWf (s := (s.updJob j.handle Job.dropRound).tidyJob j.handle) hs _ _

theorem State.killStep_memoryWf {s : State} (hs : s.memoryWf) (h cause : Nat) (tell : Bool) :
    (s.killStep h cause tell).memoryWf := by
  unfold State.killStep
  split
  · exact hs
  · split
    · exact hs
    · split
      · exact hs
      · simp only []
        have h1 : ∀ (c : Prop) [Decidable c] (a b : State), a.memoryWf → b.memoryWf → (if c then a else b).memoryWf := by
          intro c _ a b ha hb; split <;> assumption
        refine h1 _ _ _ (State.abandonStep_memoryWf (h1 _ _ _ (State.send_memoryWf ?_ _) ?_) _ _ _)
          (h1 _ _ _ (State.send_memoryWf ?_ _) ?_) <;> exact hs

/-! ## HBM -/

/-- A fold of operations that keep HBM's canonical form keeps it. -/
theorem Hbm.foldl_wf {α : Type} (f : Hbm → α → Hbm) (hf : ∀ h x, Mem.wf h.mem = true → Mem.wf (f h x).mem = true) (xs : List α)
    {h : Hbm} (hw : Mem.wf h.mem = true) : Mem.wf (xs.foldl f h).mem = true := by
  induction xs generalizing h with
  | nil => exact hw
  | cons x xs ih => exact ih (hf h x hw)

theorem Hbm.rebuildLine_wf {h : Hbm} (hw : Mem.wf h.mem = true) (a : Nat) : Mem.wf (h.rebuildLine a).mem = true :=
  Mem.write_wf hw _ _

theorem Hbm.mend_wf {h : Hbm} (hw : Mem.wf h.mem = true) (l : Nat) : Mem.wf (h.mend l).mem = true := by
  unfold Hbm.mend
  split
  · exact Hbm.rebuildLine_wf hw _
  · exact hw

/-- Poisoning a line changes side bits alone. -/
theorem Hbm.poisonW_mem (h : Hbm) (l : Nat) : (h.poisonW l).mem = h.mem := rfl

/-- A write under parity keeps the canonical form. -/
theorem Hbm.wLine_wf {h : Hbm} (hw : Mem.wf h.mem = true) (a : Nat) (bs : Bytes) : Mem.wf (h.wLine a bs).mem = true := by
  have hm : Mem.wf ((h.mend (a / 256)).mend (parityAddr (256 * (a / 256)) / 256)).mem = true :=
    Hbm.mend_wf (Hbm.mend_wf hw _) _
  unfold Hbm.wLine
  simp only []
  split
  · exact hm
  · split
    · exact Hbm.mend_wf (Mem.write_wf (Mem.write_wf hm _ _) _ _) _
    · exact Mem.write_wf (Mem.write_wf hm _ _) _ _

theorem Hbm.wLines_wf : ∀ (fuel a : Nat) (bs : Bytes) {h : Hbm}, Mem.wf h.mem = true →
    Mem.wf (Hbm.wLines fuel a bs h).mem = true
  | 0, _, _, _, hw => hw
  | fuel + 1, a, bs, h, hw => by
    unfold Hbm.wLines
    split
    · exact hw
    · exact Hbm.wLines_wf fuel _ _ (Hbm.wLine_wf hw _ _)

theorem Hbm.wPut_wf {h : Hbm} (hw : Mem.wf h.mem = true) (a : Nat) (bs : Bytes) : Mem.wf (h.wPut a bs).mem = true :=
  Hbm.wLines_wf _ _ _ hw

theorem Hbm.wipeUnits_wf {h : Hbm} (hw : Mem.wf h.mem = true) (lo hi : Nat) : Mem.wf (h.wipeUnits lo hi).mem = true :=
  Mem.filter_wf hw _

theorem Hbm.clearRun_wf {h : Hbm} (hw : Mem.wf h.mem = true) (r : GenRun) (c : Nat) : Mem.wf (h.clearRun r c).mem = true := by
  unfold Hbm.clearRun
  split
  · exact hw
  · exact Mem.filter_wf hw _

theorem Hbm.fillGen_wf {h : Hbm} (hw : Mem.wf h.mem = true) (r : GenRun) (c : Nat) : Mem.wf (h.fillGen r c).mem = true := by
  unfold Hbm.fillGen
  split
  · exact hw
  · exact Hbm.foldl_wf _ (fun _ _ hx => Mem.write_wf hx _ _) _ hw

theorem Hbm.endGens_wf {h : Hbm} (hw : Mem.wf h.mem = true) : Mem.wf h.endGens.mem = true := by
  refine Hbm.foldl_wf _ (fun h g hx => ?_) h.gens hw
  split
  · split
    · exact Hbm.clearRun_wf hx _ _
    · exact hx
  · exact hx

theorem Hbm.refetch_wf {h : Hbm} (hw : Mem.wf h.mem = true) (old new : Block) : Mem.wf (h.refetch old new).mem = true := by
  unfold Hbm.refetch
  simp only []
  refine Hbm.foldl_wf _ (fun _ _ hx => Hbm.mend_wf hx _) _ ?_
  split
  · exact Hbm.foldl_wf _ (fun _ _ hx => Mem.write_wf hx _ _) _ hw
  · exact hw

theorem Hbm.store_wf {h : Hbm} (hw : Mem.wf h.mem = true) (w : UnitClass × Nat) (a : Nat) (bs : Bytes) :
    Mem.wf (h.store w a bs).mem = true := Mem.write_wf hw _ _

theorem Hbm.flip_wf {h : Hbm} (hw : Mem.wf h.mem = true) (xs : List (Nat × Byte)) : Mem.wf (h.flip xs).mem = true := by
  have hf : ∀ (ys : List (Nat × Byte)) (m : Mem), Mem.wf m = true →
      Mem.wf (ys.foldl (fun m x => Mem.write m x.1 [Mem.get m x.1 ^^^ x.2]) m) = true := by
    intro ys
    induction ys with
    | nil => exact fun _ hm => hm
    | cons y ys ih => exact fun m hm => ih _ (Mem.write_wf hm _ _)
  exact hf xs h.mem hw

theorem State.settle_memoryWf {s : State} (hs : s.memoryWf) : s.settle.memoryWf := ⟨Hbm.wipeUnits_wf hs.1 _ _, hs.2⟩

theorem State.fixW_memoryWf {s : State} (hs : s.memoryWf) : s.fixW.memoryWf := by
  unfold State.fixW
  split
  · exact State.settle_memoryWf hs
  · exact hs

theorem State.clearBlocks_memoryWf {s : State} (hs : s.memoryWf) (bs : List Block) : (s.clearBlocks bs).memoryWf :=
  ⟨Hbm.foldl_wf _ (fun _ _ hx => Hbm.wPut_wf hx _ _) _ hs.1, hs.2⟩

theorem State.storeBlocks_memoryWf {s : State} (hs : s.memoryWf) (bs : List (Block × Bytes)) : (s.storeBlocks bs).memoryWf :=
  ⟨Hbm.foldl_wf _ (fun _ _ hx => Hbm.wPut_wf hx _ _) _ hs.1, hs.2⟩

theorem State.commitBlocks_memoryWf {s : State} (hs : s.memoryWf) (bs : List Block) : (s.commitBlocks bs).memoryWf := by
  unfold State.commitBlocks
  refine State.fixW_memoryWf ?_
  exact State.clearBlocks_memoryWf hs _

theorem State.storeRoutes_memoryWf {s : State} (hs : s.memoryWf) (j : Job) (draft : Bool) (rs : List (Nat × Nat × Bytes)) :
    (s.storeRoutes j draft rs).memoryWf :=
  ⟨Hbm.foldl_wf _ (fun _ _ hx => Hbm.foldl_wf _ (fun _ _ hy => Hbm.sWrite_wf hy _ _) _ hx) _ hs.1, hs.2⟩

end Sys2Proof.Machine
end

