-- ==== Sys2Proof/WellFormed.lean ====
section
/-! DEFINITION. Which commands are well formed: the widths and ranges that the manual gives the operands of each row. A
command that is not well formed names no command of the block; its meaning is still total. -/
namespace Sys2Proof

/-- Does a number fit in `n` bits? -/
def fits (n x : Nat) : Bool := decide (x < 2 ^ n)

/-- A job handle of an open job: 1 to 2^32 - 1 (R344). -/
def jobOk (j : Nat) : Bool := decide (1 ≤ j) && fits 32 j

/-- A rank: 0-63 (R344). -/
def rankOk (r : Nat) : Bool := fits 6 r

/-- An instant: a 64-bit timebase value (R317). -/
def timeOk (t : Nat) : Bool := fits 64 t

/-- An address of the 48-bit space (R250). -/
def addrOk (a : Nat) : Bool := fits 48 a

/-- A REDUCE record as R314 lays it out; a value of -32,768 is kept, because it is a violation the receiver answers. -/
def ReduceRec.wf (r : ReduceRec) : Bool :=
  rankOk r.rank && fits 32 r.step && fits 16 r.desc && fits 16 r.token && fits 16 r.block
    && fits 6 r.shift && fits 2 r.dir && decide (r.vals.length = 256)
    && r.vals.all (fun v => decide (-32768 ≤ v ∧ v ≤ 32767))

/-- A GATHER or TERM record as R315 lays it out. -/
def GatherRec.wf (r : GatherRec) : Bool :=
  rankOk r.rank && fits 32 r.step && fits 16 r.desc && fits 16 r.token && fits 16 r.first && fits 24 r.scaleWord
    && fits 16 r.blocks.length && r.blocks.all (fun b => decide (b.length = if r.wisp3 then 24 else 40))

/-- The body of a STATS message (R316). -/
def StatsBody.wf (b : StatsBody) : Bool :=
  b.ms.all (fun xs => xs.all (fits 32)) && b.clamps.all (fits 32) && b.lnsSats.all (fits 32)
    && b.active.all (fits 32) && b.missed.all (fits 32)

/-- A received RoCE packet (R289, R300). -/
def RocePkt.wf (p : RocePkt) : Bool :=
  fits 24 p.qpn && fits 128 p.srcGid && fits 24 p.psn && fits 32 p.rkey && fits 64 p.va && fits 32 p.msgLen
    && fits 32 p.msgOff && decide (p.payload.length ≤ 4096)

/-- A stream key (R304). -/
def StreamKey.wf (k : StreamKey) : Bool := fits 32 k.job && fits 8 k.peer && fits 4 k.cls

/-- The position of a partial (R52): eight windows, sixteen slots. -/
def PartialPos.wf (p : PartialPos) : Bool := fits 4 p.slot && decide (p.plane < 16)

/-- An upset: bytes of a 64-byte line, words 0-7 (R260). -/
def Upset.wf (u : Upset) : Bool := u.data.all (fun x => decide (x.1 < 64)) && u.check.all (fun x => decide (x.1 < 8))

/-- One plane step of a lane group (R48). -/
def PlaneIn.wf (x : PlaneIn) : Bool :=
  x.pos.wf && fits 16 x.line && (x.weightUps ++ x.actUps).all (fun u => u.2.wf)

/-- An opening instruction (R78, R115): no promotion window is empty. -/
def OpenIn.wf (x : OpenIn) : Bool :=
  fits 16 x.desc && fits 10 x.expert && decide (x.matrix < 5) && fits 16 x.block && fits 9 x.tile
    && x.windows.all (fun w => !w.isEmpty)

/-- One step of the log engine: 64 rows and 64 columns at most (R58). -/
def LogIn.wf (x : LogIn) : Bool :=
  decide (x.rows.length ≤ 64) && decide (x.cols.length ≤ 64)
    && x.rows.all (fits 16) && x.cols.all (fits 16) && decide (x.q ≤ 47)

/-- An upset in a tile: one of its 4,096 elements (R86, R357). -/
def errOk (err : Option AccUpset) : Bool := err.all (fun u => decide (u.element < 4096))

/-- A power request: a 64-bit AT, a 3-bit PARTITION, an 8-bit CELL and a 16-bit KEY (R402). -/
def PowReq.wf (r : PowReq) : Bool := timeOk r.atTime && fits 3 r.partition && fits 8 r.cell && fits 16 r.key

/-- What a boot meets: channels 0-191, SELFTEST bits below 1,949 (R380). -/
def BootIn.wf (b : BootIn) : Bool :=
  b.spares.all (fun s => decide (s.1 < 192) && fits 8 s.2) && b.failedChannels.all (fun c => decide (c < 192))
    && b.selfTest.all (fun c => decide (c < 1949)) && timeOk b.readyTime

/-- Is the command well formed: does every operand lie in the width or range the manual gives it? -/
def Instr.wf : Instr → Bool
  | .queryModule _ _ => true
  | .applyConfigSet _ _ => true
  | .loadGraph _ _ => true
  | .loadWeights _ _ => true
  | .placePreview _ _ => true
  | .placeRequest _ _ => true
  | .queryPlacement _ _ => true
  | .openJob _ _ => true
  | .closeJob _ _ => true
  | .switchJob _ _ => true
  | .runStep _ _ => true
  | .admitSequence _ _ => true
  | .cancelSequence _ _ => true
  | .pauseSequence _ _ => true
  | .resumeSequence _ _ => true
  | .shipKv _ _ => true
  | .acceptKv _ _ => true
  | .scheduleAt _ _ => true
  | .readCounters _ _ => true
  | .readEvents _ _ => true
  | .fwStageDelta _ _ _ => true
  | .fwActivateAt _ _ => true
  | .fwForward _ _ => true
  | .attest _ _ => true
  | .debugArmSnapshot _ _ => true
  | .debugReadSnapshot _ _ => true
  | .debugClearSelection _ _ => true
  | .stepBoundary job t => jobOk job && timeOk t
  | .scheduledInstant t => timeOk t
  | .fwMigrationTimeout t => timeOk t
  | .stepComplete job => jobOk job
  | .controlStepDone job rank step boundary => jobOk job && rankOk rank && fits 32 step && timeOk boundary
  | .controlKill job rank step reason => jobOk job && rankOk rank && fits 32 step && fits 16 reason
  | .controlAbort job rank => jobOk job && rankOk rank
  | .statsMessage job rank step _ body => jobOk job && rankOk rank && fits 32 step && body.wf
  | .reduceRecord job rec => jobOk job && rec.wf
  | .gatherRecord job rec => jobOk job && rec.wf
  | .termRecord job rec => jobOk job && rec.wf
  | .shipStream shipId _ => fits 32 shipId
  | .fwDeltaMessage _ hdr _ _ => decide (hdr.length = 64)
  | .fwStagedReply _ kind status => fits 8 kind && fits 16 status
  | .fabricDataFrame _ _ frame => decide (32 ≤ frame.length ∧ frame.length ≤ 8224)
  | .fabricAckFrame _ _ frame => decide (32 ≤ frame.length ∧ frame.length ≤ 8224)
  | .fabricNakFrame _ _ frame => decide (32 ≤ frame.length ∧ frame.length ≤ 8224)
  | .fabGapExpiry key seq t => key.wf && fits 32 seq && timeOk t
  | .fabRtoExpiry key t => key.wf && timeOk t
  | .fabricAckDelay key t => key.wf && timeOk t
  | .lldpTransmit _ t => timeOk t
  | .lldpFrame _ _ => true
  | .lldpMiswireTimeout _ t => timeOk t
  | .linkUp _ t => timeOk t
  | .linkDown _ => true
  | .roceRdmaWrite pkt => pkt.wf
  | .roceRdmaRead pkt => pkt.wf
  | .roceRefusedPacket pkt => pkt.wf
  | .roceCnp qp t => fits 10 qp && timeOk t
  | .roceRateIncrease qp t => fits 10 qp && timeOk t
  | .noticeAcknowledge x => fits 10 x.qp
  | .noticeAckTimeout qp t => fits 10 qp && timeOk t
  | .qpRestart qp t => fits 10 qp && timeOk t
  | .pfcFrame _ prio _ t => decide (prio ≤ 8) && timeOk t
  | .pfcPauseExpiry _ t => timeOk t
  | .pfcXon _ => true
  | .arpRequest _ _ => true
  | .neighborSolicitation _ _ => true
  | .updraftListStart _ _ => true
  | .updraftEntryIssue _ _ => true
  | .regionLineWrite _ _ _ _ line => decide (line.length = 64)
  | .heldWriteRelease _ _ t => timeOk t
  | .regionLineConsume _ _ u => u.wf
  | .arrivalWaitDone _ _ n t => fits 32 n && timeOk t
  | .flowStall _ _ t => timeOk t
  | .planeStep _ _ x => x.wf
  | .partialRetire _ _ _ side err =>
    side.lists.all (fun x => fits 16 x.2) && errOk err
  | .groupOpen _ _ tb tc x => decide (1 ≤ tc ∧ tb + tc ≤ 64) && x.wf
  | .groupRequantise _ x => errOk x.err
  | .reductionContextStart _ stage _ _ x => fits 7 stage && errOk x.err
  | .microcodeTrap _ offset syndrome t => fits 16 offset && fits 64 syndrome && timeOk t
  | .microcodeReloadDone _ => true
  | .channelHalt chan _ _ => decide (chan ≤ 1 ∨ (16 ≤ chan ∧ chan ≤ 31))
  | .channelPatternDone chan _ _ => decide (chan ≤ 1 ∨ (16 ≤ chan ∧ chan ≤ 31))
  | .hbmRead _ addr len _ => addrOk addr && addrOk len
  | .hbmWrite _ addr data _ => addrOk addr && addrOk data.length
  | .hbmNarrowAccess _ addr write _ =>
      addrOk addr && decide (addr % 32 = 0)
        && (match write with | some d => decide (d.length ≤ 32) | none => true)
  | .hbmAddRequest addr _ mask operands _ => addrOk addr && decide (addr % 32 = 0) && fits 16 mask && decide (operands.length = 32)
  | .lineRebuild stripe _ line => decide (stripe < 589824) && fits 8 line
  | .blockRepairDone _ _ _ => true
  | .scrubVisit _ t _ => timeOk t
  | .generatorStart _ => true
  | .generatorStop _ => true
  | .generatorRunDone _ bursts errors firstFail _ _ => fits 32 bursts && fits 32 errors && fits 48 firstFail
  | .replWindowEnd job _ _ => jobOk job
  | .replacementCopiesDone job => jobOk job
  | .acceptKvOpenWaitExpiry _ _ t => timeOk t
  | .marker t => timeOk t
  | .markerMissing t => timeOk t
  | .refclkCheck t _ _ => timeOk t
  | .seedCommit _ => true
  | .timeLatchRead => true
  | .coordinateCommit _ => true
  | .powerRequestActive r t => r.wf && timeOk t
  | .powerRequestLull r t => r.wf && timeOk t
  | .powerRequestCalm r t => r.wf && timeOk t
  | .calmEntered => true
  | .warmReset r t _ => r.wf && timeOk t
  | .partitionReset r t => r.wf && timeOk t
  | .cellReset r t => r.wf && timeOk t
  | .streamingComplete t => timeOk t
  | .powerSample watts tj t => fits 16 watts && decide (-32768 ≤ tj ∧ tj ≤ 32767) && timeOk t
  | .sensorRefresh _ t => timeOk t
  | .vinRise => true
  | .vinFall => true
  | .auxPowerApplied => true
  | .modResetNAssert => true
  | .modResetNRelease _ _ b => b.wf
  | .bootWatchdogExpiry b => b.wf
  | .trip _ => true
  | .tapReset => true
  | .tapBypass _ => true
  | .tapIdcode => true
  | .tapSamplePreload _ _ => true
  | .tapExtest => true
  | .tapClamp => true
  | .tapHighz => true
  | .i3cSetdasa _ staticAddr dynAddr => fits 7 staticAddr && fits 7 dynAddr
  | .i3cEntdaa _ dynAddr => fits 7 dynAddr
  | .statusTargetWrite offset data => fits 16 offset && decide (data.length ≤ 64)
  | .mctpMessage _ => true
  | .recoveryBeacon t => timeOk t
  | .recoveryImage serial _ _ _ => fits 64 serial
  | .recoveryConfig serial _ _ _ => fits 64 serial
  | .recoveryOwner serial _ _ _ => fits 64 serial
  | .recoveryFirst serial _ _ _ => fits 64 serial
  | .recoveryRestart serial _ _ b => fits 64 serial && b.wf
  | .logEngineStep _ x => x.wf
  | .vectorUnitStep _ _ a b => decide (a.length ≤ 256 ∧ b.length ≤ 256)
  | .auxPowerRemoved => true
  | .mailboxProtocolViolation _ _ => true
  | .hbmRecalibrationDone => true
  | .shipCommitAcknowledged shipId => fits 32 shipId

end Sys2Proof
end

