-- ==== Sys2Proof/Tests/Slice0.lean ====
section
/-! SUPPORT. Tests on small states: a term that each check of well-formedness refuses, values the manual gives, and for each
clause of each statement a state and operands that meet its hypotheses. -/
open Sys2Proof Sys2Proof.Machine
namespace Sys2Proof.Tests

set_option maxRecDepth 100000
set_option linter.unusedVariables false
set_option Elab.async false

/-! ## Small states -/

/-- The module of State.reset after a boot: READY in Active, the plan in force, TIME running at 1,000,000. -/
def up : State :=
  { State.reset with
    plan := ConfigBlock.manufactured.parts, planLocked := true,
    board := { Board.reset with bootStage := 4, resetLow := false },
    tb := { Timebase.reset with time := 1000000, running := true },
    hbm := { Hbm.reset with trained := true },
    fw := { Fw.reset with running := some (Image.manufactured false) } }

/-- A command in a mailbox of partition 0, flipped at 999,000, laid out as R337 gives it. -/
def mailed (s : State) (m : BoxId) (code job : Nat) (body : Bytes) : State :=
  let hdr := leBytes 8 1 ++ leBytes 2 code ++ zeros 2 ++ leBytes 4 7 ++ leBytes 4 job ++ leBytes 2 body.length
    ++ leBytes 2 1 ++ zeros 40
  (s.ctrlWrite 0 (boxAt m) (hdr ++ body)).updBox 0 m (fun _ => ⟨true, 999000, none, false⟩)

/-- Data in a slot of partition 0's bulk window, its flag handed over (R294). -/
def slotIn (s : State) (k : Nat) (bs : Bytes) : State :=
  (s.bulkWrite 0 ((s.planRec 0).slotAt k) bs).bulkWrite 0 k [1]

/-- Slots of partition 0 handed over. -/
def slotsOwned (s : State) (k n : Nat) : State := s.bulkWrite 0 k (List.replicate n 1)

/-- A graph of the three smallest descriptors: EMBED, PROJECT and SELECT over a vocabulary of 16 and a width of 64. -/
def tinyDescs : List Desc :=
  let d : Desc := ⟨1, 0, false, false, 0, 8, 0, 4, 0, 16, 64, 1, 255, 255, 0, none, none, .none⟩
  [d, { d with opcode := 2, inW := 8, outW := 16, inDim := 64, outDim := 16, srcA := 0, dst := 1 },
   { d with opcode := 9, outW := 0, inDim := 16, outDim := 0, initMax := 0, srcA := 1, dst := 255, par := .select 0 0 }]

def tinyGraph : Graph := ⟨5, 0, false, 9, 0, 64, 16, 64, 0, tinyDescs⟩

/-- The image of the same graph, from the tables of R116 and R124. -/
def tinyImage : Bytes :=
  let desc (op inW outW inDim outDim initMax a dst : Nat) : Bytes :=
    leBytes 1 op ++ zeros 1 ++ leBytes 1 inW ++ leBytes 1 outW ++ zeros 4 ++ leBytes 4 inDim ++ leBytes 4 outDim
      ++ leBytes 4 initMax ++ leBytes 4 0xFFFFFFFF ++ leBytes 4 0xFFFFFFFF ++ leBytes 1 a ++ leBytes 1 0xFF ++ leBytes 1 dst
      ++ zeros 97
  let hdr (crc : Nat) : Bytes :=
    leBytes 4 0x54594752 ++ leBytes 2 3 ++ zeros 2 ++ leBytes 4 9 ++ leBytes 4 448 ++ leBytes 2 3 ++ zeros 2 ++ leBytes 4 64
      ++ leBytes 4 16 ++ leBytes 4 64 ++ leBytes 4 64 ++ leBytes 4 448 ++ leBytes 4 crc ++ zeros 20
  let rest := desc 1 0 8 16 64 1 0xFF 0 ++ desc 2 8 16 64 16 1 0 1 ++ desc 9 0 0 16 0 0 1 0xFF
  hdr (crc32 (hdr 0 ++ rest)) ++ rest

/-- A job of one rank over that graph, opened by partition 0 and suspended, with a period of 18,750 ticks. -/
def job1 : Job :=
  { handle := 7, part := 0, gref := 5, dref := none, nRanks := 1, rank := 0, period := 18750, phase := 0, openTime := 900000,
    members := [], kvTokens := 0, planVersion := 1, planCrc := 0, cfg := JobCfg.default, seqs := [], direct := [], pools := [],
    frames := [], descs := freshDescs false tinyDescs, nextStep := 4, lastCommitted := some 2, step := none,
    serving := ⟨none, [], [], none, [], 0, (0, 0)⟩, layout := ⟨[], 0, 0, 0, none, [], 2, false, ⟨0, 0, 0⟩, ⟨0, 0, 0⟩, []⟩, prog := .installed,
    credit := false, lost := false, seqLost := [], lastBoundary := none }

/-- The two weight blocks of that graph, sparse and empty: nine lines each. -/
def tinyBlocks : List Block := [⟨5, 0, 0, .sparse, 9, 0, .clean⟩, ⟨5, 1, 0, .sparse, 9, 0x10000, .clean⟩]

/-- A module with that graph, its weights and that job. -/
def held (j : Job) : State := { up with graphs := [tinyGraph], nextGref := 6, blocks := tinyBlocks, jobs := [j] }

/-- The same with the job active. -/
def serving (j : Job) : State := { held j with active := some j.handle }

/-- A sequence of that job. -/
def seq1 (st : SeqState) : SeqEntry :=
  { slot := 0, req := ⟨33, false, false, 0, 1, 2, 4, 0x4000, 0, 0, noField, noField, noField, 0, 60, 1⟩, state := st,
    resume := if st = .paused then some .decode else none, cancel := false, emitted := 0, nextToken := 0, outNext := 0,
    directory := 0, promptRow := 0, prompt := [1, 2], p0 := 2, times := ⟨950000, 0, 0, 0, 0, 0, 0x8000, 0, 0, 0⟩,
    main := KvState.empty, draft := KvState.empty }

/-- A result that is `.ok a`, by evaluation. -/
theorem isOk {ε α : Type} [DecidableEq α] {x : Except ε α} {a : α}
    (h : (match x with | .ok b => decide (b = a) | .error _ => false) = true) : x = .ok a := by
  cases x with
  | error e => cases h
  | ok b => exact congrArg Except.ok (of_decide_eq_true h)

/-! ## Mailbox commands that report -/

def askModule : State := mailed (slotsOwned up 3 1) 0 0x01 0 (leBytes 4 3)

theorem meets_ReportsAnswered_1 :
    ∃ (s : State) (p : PartId) (m : BoxId),
      Due s p m 0x01 ∧
      (s.asked p m).job = 0 ∧
      4 ≤ (s.asked p m).body.length ∧
      AreasGood s (s.asked p m) :=
  ⟨askModule, 0, 0,
    ⟨by decide +kernel, by decide +kernel, by decide +kernel⟩,
    by decide +kernel,
    by decide +kernel,
    ⟨by decide +kernel, by decide +kernel⟩⟩

/-- KIND 0 in the last slot of the window. -/
def askCounters : State := mailed (slotsOwned up 255 1) 7 0x50 0 (zeros 8 ++ leBytes 4 255)

theorem meets_ReportsAnswered_2 :
    ∃ (s : State) (p : PartId) (m : BoxId) (bs : Bytes),
      Due s p m 0x50 ∧
      s.kindScope (s.asked p m) = none ∧
      bodyFault (s.asked p m).body (bodyFields 0x50) (counterChecks (s.asked p m).body) = none ∧
      s.countersAsked (s.asked p m) = .ok bs ∧
      AreasGood s (s.asked p m) :=
  ⟨askCounters, 0, 7, _,
    ⟨by decide +kernel, by decide +kernel, by decide +kernel⟩,
    by decide +kernel,
    by decide +kernel,
    rfl,
    ⟨by decide +kernel, by decide +kernel⟩⟩

def askPlacement : State := mailed (slotsOwned (held job1) 4 1) 0 0x13 7 (leBytes 4 4 ++ leBytes 4 1)

theorem meets_ReportsAnswered_3 :
    ∃ (s : State) (p : PartId) (m : BoxId) (j : Job),
      Due s p m 0x13 ∧
      s.scoped (s.asked p m) = .ok j ∧
      s.job (s.asked p m).job = some j ∧
      8 ≤ (s.asked p m).body.length ∧
      1 ≤ u32 (s.asked p m).body 4 ∧
      u32 (s.asked p m).body 4 ≤ 65536 ∧
      j.layout.report.length ≤ u32 (s.asked p m).body 4 * (s.planRec p).slotSize ∧
      AreasGood s (s.asked p m) :=
  ⟨askPlacement, 0, 0, job1,
    ⟨by decide +kernel, by decide +kernel, by decide +kernel⟩,
    isOk (by decide +kernel),
    by decide +kernel,
    by decide +kernel,
    by decide +kernel,
    by decide +kernel,
    by decide +kernel,
    ⟨by decide +kernel, by decide +kernel⟩⟩

def askReport : State := mailed (slotsOwned up 8 5) 0 0x70 0 (List.replicate 32 0x5A ++ leBytes 4 8)

theorem meets_ReportsAnswered_4 :
    ∃ (s : State) (p : PartId) (m : BoxId),
      Due s p m 0x70 ∧
      (s.asked p m).job = 0 ∧
      36 ≤ (s.asked p m).body.length ∧
      AreasGood s (s.asked p m) :=
  ⟨askReport, 0, 0,
    ⟨by decide +kernel, by decide +kernel, by decide +kernel⟩,
    by decide +kernel,
    by decide +kernel,
    ⟨by decide +kernel, by decide +kernel⟩⟩

def askEvents (n : Nat) : State := mailed (slotsOwned (up.postModule (event 0x0006 999000)) 9 ((64 * n + 4095) / 4096)) 1 0x51 0 (leBytes 4 9 ++ leBytes 4 n)

theorem meets_ReadsTake_1 :
    ∃ (s : State) (p : PartId) (m : BoxId) (q : List Event) (n : Nat),
      Due s p m 0x51 ∧
      (s.asked p m).job = 0 ∧
      8 ≤ (s.asked p m).body.length ∧
      q = s.parts[p.val].events ∧
      n = u32 (s.asked p m).body 4 ∧
      1 ≤ n ∧
      n ≤ 65536 ∧
      AreasGood s (s.asked p m) :=
  ⟨askEvents 1, 0, 1, _, _,
    ⟨by decide +kernel, by decide +kernel, by decide +kernel⟩,
    by decide +kernel,
    by decide +kernel,
    rfl,
    rfl,
    by decide +kernel,
    by decide +kernel,
    ⟨by decide +kernel, by decide +kernel⟩⟩

def debugBody (mode slot : Nat) : Bytes := leBytes 4 mode ++ leBytes 4 4 ++ [0, 15, 127, 0, 0xFF, 0, 0xFF, 0] ++ zeros 8 ++ leBytes 4 slot

def snapHeld : State := (held job1).updPart 0 (fun q => { q with snap := some ⟨7, List.replicate 128 1, []⟩, snapSel := some ⟨7, 5, [(0, 1)]⟩ })

theorem meets_ReadsTake_2 :
    ∃ (s : State) (p : PartId) (m : BoxId) (x : Snap),
      Due s p m 0x80 ∧
      debugMode (s.asked p m).body = 1 ∧
      s.debugCheck (s.asked p m) = none ∧
      s.parts[p.val].snap = some x ∧
      x.job = (s.asked p m).job ∧
      AreasGood s (s.asked p m) :=
  ⟨mailed (slotsOwned snapHeld 5 1) 0 0x80 7 (debugBody 1 5), 0, 0, ⟨7, List.replicate 128 1, []⟩,
    ⟨by decide +kernel, by decide +kernel, by decide +kernel⟩,
    by decide +kernel,
    by decide +kernel,
    by decide +kernel,
    by decide +kernel,
    ⟨by decide +kernel, by decide +kernel⟩⟩

theorem meets_ReadsTake_3 :
    ∃ (s : State) (p : PartId) (m : BoxId),
      Due s p m 0x80 ∧
      debugMode (s.asked p m).body = 2 ∧
      s.debugCheck (s.asked p m) = none ∧
      AreasGood s (s.asked p m) :=
  ⟨mailed snapHeld 0 0x80 7 (debugBody 2 0), 0, 0,
    ⟨by decide +kernel, by decide +kernel, by decide +kernel⟩,
    by decide +kernel,
    by decide +kernel,
    ⟨by decide +kernel, by decide +kernel⟩⟩

theorem meets_ReadsTake_4 :
    ∃ (s : State) (p : PartId) (m : BoxId) (j : Job),
      Due s p m 0x80 ∧
      Suspended s (s.asked p m) j ∧
      debugMode (s.asked p m).body = 0 ∧
      s.debugCheck (s.asked p m) = none ∧
      AreasGood s (s.asked p m) :=
  ⟨mailed snapHeld 0 0x80 7 (debugBody 0 0), 0, 0, job1,
    ⟨by decide +kernel, by decide +kernel, by decide +kernel⟩,
    ⟨isOk (by decide +kernel), by decide +kernel, by decide +kernel⟩,
    by decide +kernel,
    by decide +kernel,
    ⟨by decide +kernel, by decide +kernel⟩⟩

theorem meets_AnswersReadBack_1 :
    ∃ (s : State) (c : Cmd) (done : Nat) (r : Result),
      s.memoryWf ∧
      r.reply.length ≤ 16320 :=
  ⟨askModule, askModule.asked 0 0, 999100, ok (zeros 16320),
    ⟨by decide +kernel, by decide +kernel⟩,
    by decide +kernel⟩

def badHeader : State := mailed up 0 0x99 0 []

theorem meets_AnswersReadBack_2 :
    ∃ (s : State) (p : PartId) (m : BoxId) (st : Nat),
      s.memoryWf ∧
      s.waits p m = true ∧
      headerFault (s.header p m) = some st :=
  ⟨badHeader, 0, 0, 0x8002,
    ⟨by decide +kernel, by decide +kernel⟩,
    by decide +kernel⟩

theorem meets_ReportsFrame_1 :
    ∃ (s t : State) (p : PartId) (m : BoxId) (i : Instr),
      i ∈ [Instr.queryModule p m, .readCounters p m, .readEvents p m, .queryPlacement p m, .attest p m, .debugReadSnapshot p m, .debugClearSelection p m, .placePreview p m, .mailboxProtocolViolation p m] ∧
      exec i s = .next t :=
  ⟨askModule, _, 0, 0, .queryModule 0 0,
    .head _,
    rfl⟩

def closeActive : State := mailed (serving job1) 0 0x21 7 []

theorem meets_CommandsWait_1 :
    ∃ (s : State) (p : PartId) (m : BoxId) (x : Instr × Nat × Option Result),
      x ∈ boundaryRows p m s ∧
      Due s p m x.2.1 ∧
      x.2.2 = none ∧
      s.active = some (s.asked p m).job ∧
      AreasGood s (s.asked p m) :=
  ⟨closeActive, 0, 0, (.closeJob 0 0, 0x21, none),
    by decide +kernel,
    ⟨by decide +kernel, by decide +kernel, by decide +kernel⟩,
    by decide +kernel,
    by decide +kernel,
    ⟨by decide +kernel, by decide +kernel⟩⟩

def runBody : Bytes := leBytes 4 7 ++ leBytes 2 1 ++ leBytes 2 1 ++ zeros 4 ++ leBytes 4 41 ++ leBytes 4 40 ++ zeros 44

/-- One token of sequence 5 at POS 0, EMIT and FINAL, TOPK 1. -/
def oneToken : Bytes := leBytes 4 5 ++ leBytes 4 0 ++ leBytes 4 3 ++ [1, 1] ++ leBytes 2 0x4000

def runAsked : State := mailed (slotsOwned (slotIn (serving job1) 40 oneToken) 41 1) 0 0x30 7 runBody

theorem meets_CommandsWait_2 :
    ∃ (s : State) (p : PartId) (m : BoxId) (j : Job) (g : Graph) (bs : Bytes),
      Due s p m 0x30 ∧
      s.scoped (s.asked p m) = .ok j ∧
      AreasGood s (s.asked p m) ∧
      bodyFault (s.asked p m).body (bodyFields 0x30) (stepHdrChecks (s.asked p m) j.dref.isSome) = none ∧
      s.fabricOk j = none ∧
      s.stepGraph j (s.asked p m).body = some g ∧
      s.weightsWhole g = true ∧
      bs = s.slotRead p (u32 (s.asked p m).body 0x10) (16 * u16 (s.asked p m).body 4) ∧
      entriesFault g (s.asked p m).body bs = none :=
  ⟨runAsked, 0, 0, job1, tinyGraph, _,
    ⟨by decide +kernel, by decide +kernel, by decide +kernel⟩,
    isOk (by decide +kernel),
    ⟨by decide +kernel, by decide +kernel⟩,
    by decide +kernel,
    by decide +kernel,
    by decide +kernel,
    by decide +kernel,
    rfl,
    by decide +kernel⟩

/-! ## Serving commands -/

def seqAsked (code : Nat) (st : SeqState) : State := mailed (held { job1 with seqs := [seq1 st] }) 0 code 7 (leBytes 4 33)

theorem meets_SequencesServed_1 :
    ∃ (s : State) (p : PartId) (m : BoxId) (j : Job) (e : SeqEntry),
      Due s p m 0x32 ∧
      Suspended s (s.asked p m) j ∧
      4 ≤ (s.asked p m).body.length ∧
      AreasGood s (s.asked p m) ∧
      j.seqs.find? (fun e => e.req.id == u32 (s.asked p m).body 0) = some e ∧
      (e.state = .prefill ∨ e.state = .decode ∨ e.state = .paused) :=
  ⟨seqAsked 0x32 .paused, 0, 0, { job1 with seqs := [seq1 .paused] }, seq1 .paused,
    ⟨by decide +kernel, by decide +kernel, by decide +kernel⟩,
    ⟨isOk (by decide +kernel), by decide +kernel, by decide +kernel⟩,
    by decide +kernel,
    ⟨by decide +kernel, by decide +kernel⟩,
    by decide +kernel⟩

theorem meets_SequencesServed_2 :
    ∃ (s : State) (p : PartId) (m : BoxId) (j : Job) (e : SeqEntry),
      Due s p m 0x33 ∧
      Suspended s (s.asked p m) j ∧
      4 ≤ (s.asked p m).body.length ∧
      AreasGood s (s.asked p m) ∧
      j.seqs.find? (fun e => e.req.id == u32 (s.asked p m).body 0) = some e ∧
      (e.state = .waiting ∨ e.state = .prefill ∨ e.state = .decode) :=
  ⟨seqAsked 0x33 .waiting, 0, 0, { job1 with seqs := [seq1 .waiting] }, seq1 .waiting,
    ⟨by decide +kernel, by decide +kernel, by decide +kernel⟩,
    ⟨isOk (by decide +kernel), by decide +kernel, by decide +kernel⟩,
    by decide +kernel,
    ⟨by decide +kernel, by decide +kernel⟩,
    by decide +kernel⟩

theorem meets_SequencesServed_3 :
    ∃ (s : State) (p : PartId) (m : BoxId) (j : Job) (e : SeqEntry),
      Due s p m 0x34 ∧
      Suspended s (s.asked p m) j ∧
      4 ≤ (s.asked p m).body.length ∧
      AreasGood s (s.asked p m) ∧
      j.seqs.find? (fun e => e.req.id == u32 (s.asked p m).body 0) = some e ∧
      e.state = .paused :=
  ⟨seqAsked 0x34 .paused, 0, 0, { job1 with seqs := [seq1 .paused] }, seq1 .paused,
    ⟨by decide +kernel, by decide +kernel, by decide +kernel⟩,
    ⟨isOk (by decide +kernel), by decide +kernel, by decide +kernel⟩,
    by decide +kernel,
    ⟨by decide +kernel, by decide +kernel⟩,
    by decide +kernel⟩

/-- An admission of sequence 34 with a prompt of two tokens, MAX_NEW 4 and one output slot, the window's last. -/
def admitBody : Bytes :=
  leBytes 4 34 ++ zeros 4 ++ leBytes 4 2 ++ leBytes 4 4 ++ leBytes 2 0x4000 ++ zeros 10 ++ List.replicate 12 0xFF ++ zeros 4
    ++ leBytes 4 255 ++ leBytes 2 1 ++ zeros 2 ++ leBytes 4 50 ++ zeros 8

def admitAsked : State := mailed (slotIn (held job1) 50 (leBytes 4 3 ++ leBytes 4 15)) 0 0x31 7 admitBody

theorem meets_SequencesServed_4 :
    ∃ (s : State) (p : PartId) (m : BoxId) (j : Job),
      Due s p m 0x31 ∧
      Suspended s (s.asked p m) j ∧
      bodyFault (s.asked p m).body (bodyFields 0x31) (admitChecks (s.asked p m).body) = none ∧
      AreasGood s (s.asked p m) ∧
      s.admitFault j (admitReq (s.asked p m).body) (s.promptOf (s.asked p m)) = none :=
  ⟨admitAsked, 0, 0, job1,
    ⟨by decide +kernel, by decide +kernel, by decide +kernel⟩,
    ⟨isOk (by decide +kernel), by decide +kernel, by decide +kernel⟩,
    by decide +kernel,
    ⟨by decide +kernel, by decide +kernel⟩,
    by decide +kernel⟩

/-- OPEN_JOB of job 8 over graph 9: one rank, this module, at the uncommitted coordinates; PERIOD the least, 15,625. -/
def openBody : Bytes :=
  leBytes 4 8 ++ leBytes 4 9 ++ zeros 4 ++ leBytes 1 1 ++ zeros 3 ++ leBytes 4 15625 ++ zeros 44 ++ leBytes 8 0xFF0FFF

def openAsked : State := mailed { held job1 with jobs := [] } 0 0x20 0 openBody

theorem meets_JobsServed_1 :
    ∃ (s : State) (p : PartId) (m : BoxId),
      Due s p m 0x20 ∧
      (s.asked p m).job = 0 ∧
      bodyFault (s.asked p m).body (openFields (s.asked p m).body) (openChecks (s.asked p m).body) = none ∧
      s.openFault p (s.asked p m).body = none ∧
      s.active = none :=
  ⟨openAsked, 0, 0,
    ⟨by decide +kernel, by decide +kernel, by decide +kernel⟩,
    by decide +kernel⟩

theorem meets_JobsServed_2 :
    ∃ (s : State) (p : PartId) (m : BoxId) (j : Job),
      Due s p m 0x22 ∧
      Suspended s (s.asked p m) j ∧
      s.active = none ∧
      AreasGood s (s.asked p m) ∧
      s.cmds.any (fun d => d.code == 0x22 && !d.sched && !(d.p == p && d.m == m)) = false :=
  ⟨mailed (held job1) 0 0x22 7 [], 0, 0, job1,
    ⟨by decide +kernel, by decide +kernel, by decide +kernel⟩,
    ⟨isOk (by decide +kernel), by decide +kernel, by decide +kernel⟩,
    by decide +kernel,
    ⟨by decide +kernel, by decide +kernel⟩,
    by decide +kernel⟩

theorem meets_JobsServed_3 :
    ∃ (s : State) (p : PartId) (m : BoxId) (j : Job),
      Due s p m 0x21 ∧
      s.job (s.asked p m).job = some j ∧
      j.part = p ∧
      (s.asked p m).job ≠ 0 ∧
      s.active ≠ some j.handle ∧
      AreasGood s (s.asked p m) :=
  ⟨mailed (held job1) 0 0x21 7 [], 0, 0, job1,
    ⟨by decide +kernel, by decide +kernel, by decide +kernel⟩,
    by decide +kernel,
    by decide +kernel,
    by decide +kernel,
    by decide +kernel,
    ⟨by decide +kernel, by decide +kernel⟩⟩

theorem meets_LoadsCommit_1 :
    ∃ (s : State) (p : PartId) (m : BoxId) (h : GraphHdr) (ds : List Desc) (g : Graph) (bs : List (Block × Bytes)),
      Due s p m 0x10 ∧
      (s.asked p m).job = 0 ∧
      bodyFault (s.asked p m).body (bodyFields 0x10) (loadGraphChecks (s.asked p m).body) = none ∧
      bit (u8 (s.asked p m).body 4) 0 = false ∧
      s.hbm.degraded = false ∧
      AreasGood s (s.asked p m) ∧
      parseGraph (s.imageAt (s.asked p m)) = .ok (h, ds) ∧
      s.idFault p h.id false = none ∧
      s.replaced p h.id false = none ∧
      g = ⟨s.nextGref, p.val, false, h.id, h.role, h.hidden, h.vocab, h.maxCtx, h.draftOf, ds⟩ ∧
      bs = s.placedData g (s.imageAt (s.asked p m)) ∧
      s.blocksFit p (bs.map (·.1)) = true ∧
      s.memoryWf :=
  ⟨mailed (slotIn up 60 tinyImage) 0 0x10 0 (leBytes 4 60 ++ zeros 4), 0, 0, graphHdr tinyImage, tinyDescs, _, _,
    ⟨by decide +kernel, by decide +kernel, by decide +kernel⟩,
    by decide +kernel,
    by decide +kernel,
    by decide +kernel,
    by decide +kernel,
    ⟨by decide +kernel, by decide +kernel⟩,
    isOk (by decide +kernel),
    by decide +kernel,
    by decide +kernel,
    rfl,
    rfl,
    by decide +kernel,
    ⟨by decide +kernel, by decide +kernel⟩⟩

/-- A sparse block of one pass without an entry (R20). -/
def emptySparse : Bytes := [1, 1] ++ zeros 574

/-- A weight packet with that block for the EMBED descriptor of graph 9 (R137). -/
def tinyPacket : Bytes :=
  leBytes 4 9 ++ leBytes 2 0 ++ zeros 2 ++ leBytes 4 0 ++ leBytes 4 1 ++ leBytes 4 2 ++ zeros 44
    ++ leBytes 1 1 ++ leBytes 3 9 ++ leBytes 4 2 ++ zeros 56 ++ emptySparse

def weightsAsked : State := mailed (slotIn { held job1 with blocks := [] } 61 tinyPacket) 0 0x11 0 (leBytes 4 61 ++ leBytes 4 704)

theorem meets_LoadsCommit_2 :
    ∃ (s : State) (p : PartId) (m : BoxId) (g : Graph) (pk : Bytes),
      Due s p m 0x11 ∧
      (s.asked p m).job = 0 ∧
      bodyFault (s.asked p m).body (bodyFields 0x11) (loadWeightsChecks (s.asked p m).body) = none ∧
      s.hbm.degraded = false ∧
      s.generating = false ∧
      AreasGood s (s.asked p m) ∧
      pk = s.slotRead p (u32 (s.asked p m).body 0) (u32 (s.asked p m).body 4) ∧
      s.packetFault p pk = none ∧
      s.graphOf p (u32 pk 0) = some g ∧
      s.graph g.gref = some g ∧
      packetBlocks g pk ≠ [] ∧
      s.blocksFit p (placeBlocks g s.allBlocks ((packetBlocks g pk).map (·.1))) = true ∧
      s.activeUses g.gref = false ∧
      s.rebuildsFor (placeBlocks g s.allBlocks ((packetBlocks g pk).map (·.1))) = false :=
  ⟨weightsAsked, 0, 0, tinyGraph, _,
    ⟨by decide +kernel, by decide +kernel, by decide +kernel⟩,
    by decide +kernel,
    by decide +kernel,
    by decide +kernel,
    by decide +kernel,
    ⟨by decide +kernel, by decide +kernel⟩,
    rfl,
    by decide +kernel⟩

theorem meets_PlacementServed_1 :
    ∃ (s : State) (p : PartId) (m : BoxId) (gs : List Graph),
      Due s p m 0x12 ∧
      placeMode (s.asked p m).body = false ∧
      (s.asked p m).job = 0 ∧
      bodyFault (s.asked p m).body (bodyFields 0x12) (previewChecks (s.asked p m).body) = none ∧
      s.previewGraphs (s.asked p m) = .ok gs ∧
      AreasGood s (s.asked p m) :=
  ⟨mailed (slotsOwned (held job1) 62 1) 0 0x12 0 (leBytes 4 0 ++ leBytes 4 9 ++ [64, 63] ++ zeros 2 ++ leBytes 4 62 ++ zeros 4), 0, 0, [tinyGraph],
    ⟨by decide +kernel, by decide +kernel, by decide +kernel⟩,
    by decide +kernel,
    by decide +kernel,
    by decide +kernel,
    isOk (by decide +kernel),
    ⟨by decide +kernel, by decide +kernel⟩⟩

theorem meets_PlacementServed_2 :
    ∃ (s : State) (p : PartId) (m : BoxId) (j : Job),
      Due s p m 0x12 ∧
      placeMode (s.asked p m).body = true ∧
      s.scoped (s.asked p m) = .ok j ∧
      s.job j.handle = some j ∧
      bodyFault (s.asked p m).body (bodyFields 0x12) (requestChecks (s.asked p m).body) = none :=
  ⟨mailed (held job1) 0 0x12 7 (leBytes 4 1 ++ zeros 16), 0, 0, job1,
    ⟨by decide +kernel, by decide +kernel, by decide +kernel⟩,
    by decide +kernel,
    isOk (by decide +kernel),
    by decide +kernel⟩

/-- The job with a re-placement pending. -/
def job1R : Job := { job1 with layout := { job1.layout with pending := some ⟨[], false, false, [], [], []⟩ } }

theorem meets_PlacementServed_3 :
    ∃ (s : State) (h : Nat) (tops totals : List (Nat × Nat)) (j : Job),
      s.job h = some j ∧
      j.layout.window.steps < j.cfg.replWindow :=
  ⟨held job1, 7, [(0, 5)], [(0, 9)], job1,
    by decide +kernel⟩

/-- The job with its window full, the re-placement window ends counted since the install, and PLACEs waiting. -/
def job1F (n : Nat) (ps : List (PartId × BoxId)) : Job :=
  { job1 with layout := { job1.layout with window := ⟨256, 0, 0⟩, sinceInstall := n, placeWaiting := ps } }

/-- A re-placement that copies a poisoned block. -/
def badCopy : Repl := ⟨[], false, false, [], [(⟨5, 0, 0, .sparse, 9, 0, .rebuilding⟩, ⟨5, 0, 0, .sparse, 9, 0x20000, .clean⟩)], []⟩

def job1C : Job := { job1 with layout := { job1.layout with pending := some badCopy } }

theorem meets_PlacementServed_4 :
    ∃ (s : State) (h : Nat) (tops totals : List (Nat × Nat)) (j : Job),
      s.job h = some j ∧
      j.cfg.replWindow ≤ j.layout.window.steps ∧
      j.layout.placeWaiting = [] ∧
      (j.cfg.replMode = 1 ∨ j.layout.sinceInstall = 0) :=
  ⟨held (job1F 0 []), 7, [(0, 5)], [(0, 9)], job1F 0 [],
    by decide +kernel⟩

theorem meets_PlacementServed_5 :
    ∃ (s : State) (h : Nat) (tops totals : List (Nat × Nat)) (j : Job),
      s.job h = some j ∧
      j.cfg.replWindow ≤ j.layout.window.steps ∧
      j.layout.pending = none ∧
      j.layout.placeWaiting ≠ [] ∧
      1 ≤ j.layout.sinceInstall :=
  ⟨held (job1F 1 [(0, 2)]), 7, [(0, 5)], [(0, 9)], job1F 1 [(0, 2)],
    by decide +kernel⟩

theorem meets_PlacementServed_6 :
    ∃ (s : State) (h : Nat) (j : Job) (r : Repl),
      s.job h = some j ∧
      j.layout.pending = some r ∧
      r.copied = false ∧
      s.copyFails j r = false :=
  ⟨held job1R, 7, job1R, ⟨[], false, false, [], [], []⟩,
    by decide +kernel⟩

theorem meets_PlacementServed_7 :
    ∃ (s : State) (h : Nat) (j : Job) (r : Repl),
      s.job h = some j ∧
      j.layout.pending = some r ∧
      r.copied = false ∧
      s.copyFails j r = true :=
  ⟨held job1C, 7, job1C, badCopy,
    by decide +kernel⟩

/-- A configuration set of one entry (R348). -/
def oneField (isModule : Bool) (field value : Nat) : Bytes :=
  [if isModule then 1 else 0, 0] ++ leBytes 2 1 ++ zeros 12 ++ leBytes 2 field ++ zeros 6 ++ leBytes 8 value

def setAsked (isModule : Bool) (job field value : Nat) : State :=
  mailed (slotIn (held job1) 63 (oneField isModule field value)) 0 0x02 job (leBytes 4 63 ++ leBytes 4 32)

def setCmd (s : State) (b : Bytes) : Cmd := s.named { s.flipped 0 0 with data := b }

theorem meets_ConfigSetApplies_1 :
    ∃ (s : State) (p : PartId) (m : BoxId) (b : Bytes) (c : Cmd),
      Due s p m 0x02 ∧
      c = s.named { s.flipped p m with data := b } ∧
      c.job = 0 ∧
      8 ≤ c.body.length ∧
      AreasGood s c ∧
      b = s.slotRead p (u32 c.body 0) (Nat.min 73744 (u32 c.body 4)) ∧
      bit (u8 b 0) 0 = true ∧
      s.setFault p b = none ∧
      s.active = none ∧
      s.job 0 = none :=
  ⟨setAsked true 0 0x0105 7, 0, 0, oneField true 0x0105 7, setCmd (setAsked true 0 0x0105 7) (oneField true 0x0105 7),
    ⟨by decide +kernel, by decide +kernel, by decide +kernel⟩,
    rfl,
    by decide +kernel,
    by decide +kernel,
    ⟨by decide +kernel, by decide +kernel⟩,
    by decide +kernel⟩

theorem meets_ConfigSetApplies_2 :
    ∃ (s : State) (p : PartId) (m : BoxId) (b : Bytes) (c : Cmd) (j : Job),
      Due s p m 0x02 ∧
      c = s.named { s.flipped p m with data := b } ∧
      Suspended s c j ∧
      8 ≤ c.body.length ∧
      AreasGood s c ∧
      b = s.slotRead p (u32 c.body 0) (Nat.min 73744 (u32 c.body 4)) ∧
      bit (u8 b 0) 0 = false ∧
      s.setFault p b = none ∧
      j.layout.pending = none :=
  ⟨setAsked false 7 0x05 16, 0, 0, oneField false 0x05 16, setCmd (setAsked false 7 0x05 16) (oneField false 0x05 16), job1,
    ⟨by decide +kernel, by decide +kernel, by decide +kernel⟩,
    rfl,
    ⟨isOk (by decide +kernel), by decide +kernel, by decide +kernel⟩,
    by decide +kernel,
    ⟨by decide +kernel, by decide +kernel⟩,
    by decide +kernel⟩

/-! ## Ships -/

def job1D : Job := { job1 with direct := [⟨44, false, ⟨3, [], ⟨[], [], []⟩⟩, KvState.empty⟩] }

def acceptBody : Bytes := leBytes 4 70 ++ leBytes 4 45 ++ leBytes 4 7 ++ leBytes 4 1 ++ leBytes 8 0x0101

def recv1 : ShipRecv := ⟨70, 0, 0, 7, 45, 7, 900000, 65536, false, 0, [], [], []⟩

theorem meets_ShipsReceived_1 :
    ∃ (s : State) (p : PartId) (m : BoxId) (j : Job) (g : Graph) (r : Job × List (Nat × Nat × Nat × Nat)),
      Due s p m 0x36 ∧
      s.acceptKvCheck (s.asked p m) = none ∧
      s.job (s.asked p m).job = some j ∧
      s.mainOf j = some g ∧
      reservePages g j (j.openPages g) = some r :=
  ⟨mailed (held job1) 0 0x36 7 acceptBody, 0, 0, job1, tinyGraph, (job1, []),
    ⟨by decide +kernel, by decide +kernel, by decide +kernel⟩,
    by decide +kernel⟩

/-- The same graph with an ATTEND of one KV head, whose pages have no frames here. -/
def kvGraph : Graph := { tinyGraph with descs := tinyDescs ++
  [⟨6, 0, false, false, 8, 8, 0, 4, 0, 64, 64, 1, 0, 255, 2, none, none, .attend 1 1 64 8 8 1 0 0⟩] }

theorem meets_ShipsReceived_2 :
    ∃ (s : State) (p : PartId) (m : BoxId),
      Due s p m 0x36 ∧
      s.acceptKvCheck (s.asked p m) = none ∧
      s.acceptReserve (s.asked p m) = none :=
  ⟨mailed { held job1 with graphs := [kvGraph] } 0 0x36 7 acceptBody, 0, 0,
    ⟨by decide +kernel, by decide +kernel, by decide +kernel⟩,
    by decide +kernel⟩

/-- The manifest of a ship of 3 positions of a job of one rank without an ATTEND (R221, R222). -/
def manifest1 : Bytes :=
  leBytes 4 70 ++ leBytes 4 44 ++ leBytes 4 3 ++ [0, 1] ++ zeros 2 ++ leBytes 4 (crc32 (leBytes 2 1)) ++ zeros 4 ++ leBytes 4 1
    ++ leBytes 4 1 ++ zeros 8 ++ zeros 24

theorem meets_ShipsReceived_3 :
    ∃ (s : State) (p : PartId) (m : BoxId) (t : Nat) (x : ShipRecv),
      s.shipsIn.find? (fun x => x.p == p && x.m == m && !x.arrived) = some x ∧
      s.tb.running = true ∧
      s.tb.time < t ∧
      t < 2 ^ 64 ∧
      x.openTime + x.wait ≤ t :=
  ⟨{ held job1 with shipsIn := [{ recv1 with openTime := 950000 }] }, 0, 0, 1015536, { recv1 with openTime := 950000 },
    by decide +kernel⟩

theorem meets_ShipsReceived_4 :
    ∃ (s : State) (id : Nat) (ship : ShipIn) (x : ShipRecv) (j : Job) (g : Graph),
      s.openReceive id = some x ∧
      s.job x.job = some j ∧
      s.mainOf j = some g ∧
      ship.cutShort = false ∧
      u32 ship.manifest 0 = x.shipId ∧
      manifestOk j g ship = true ∧
      s.active ≠ some x.job :=
  ⟨{ held job1 with shipsIn := [recv1] }, 70, ⟨manifest1, [0], [], false⟩, recv1, job1, tinyGraph,
    by decide +kernel⟩

theorem meets_ShipsSent_1 :
    ∃ (s : State) (p : PartId) (m : BoxId) (j : Job) (g : Graph) (k : KvState),
      Due s p m 0x35 ∧
      Suspended s (s.asked p m) j ∧
      s.shipKvCheck (s.asked p m) = none ∧
      s.mainOf j = some g ∧
      j.kvOf (u32 (s.asked p m).body 4) = some k ∧
      s.shipsOut.find? (fun x => x.p == p && x.m == m) = none ∧
      memberAt (s.asked p m).body 0x10 ≠ s.coord.member ∧
      (k.pt.filter (fun e => e.valid && decide (e.page < ceilDiv k.len 16))).any (fun e => s.badPage j (j.kvB (some g) e.desc) e) = false :=
  ⟨mailed (held job1D) 0 0x35 7 (leBytes 4 71 ++ leBytes 4 44 ++ leBytes 4 9 ++ zeros 4 ++ leBytes 8 0x0101), 0, 0, job1D, tinyGraph, ⟨3, [], ⟨[], [], []⟩⟩,
    ⟨by decide +kernel, by decide +kernel, by decide +kernel⟩,
    ⟨isOk (by decide +kernel), by decide +kernel, by decide +kernel⟩,
    by decide +kernel⟩

def sent1 : ShipOut := ⟨71, 0, 0, 7, 44, 9, ⟨1, 1, 0⟩, 3, false, [], false⟩

def shipCmd : Cmd := ⟨0, 0, 0x35, 7, 9, 950000, [], false, [], [], [], []⟩

theorem meets_ShipsSent_2 :
    ∃ (s : State) (x : ShipOut) (c : Cmd),
      x ∈ s.shipsOut ∧
      s.active ≠ some x.job ∧
      (∀ y ∈ s.shipsOut, y.shipId = x.shipId → y = x) ∧
      s.cmdAt x.p x.m = some c ∧
      s.memoryWf :=
  ⟨{ held job1D with shipsOut := [sent1], cmds := [shipCmd] }, sent1, shipCmd,
    .head _,
    by decide +kernel,
    by decide +kernel,
    by decide +kernel,
    ⟨by decide +kernel, by decide +kernel⟩⟩

/-! ## Steps -/

/-- A step of the job in flight: one token of sequence 5, at position 0. -/
def step1 : Step :=
  Step.fresh 3 (.direct 0 0 41) false [⟨5, 0, 3, true, true, 1, 0x4000⟩] [⟨5, 0, 1, 0, 0, true⟩] [] []
    ⟨tinyGraph, [], [], [], []⟩ 981250

/-- The same step, its own cells done. -/
def readyStep : Step := { step1 with ready := true }

def job1S (x : Step) : Job := { job1 with step := some x }

def noResults : Results := ⟨[], [], [], [], [], [], []⟩

def doneStep : Step := { step1 with phase := .complete 999999, results := some noResults }

/-- Job 1 with a grid of 20,000 ticks, so that 1,000,000 is a boundary. -/
def jobB : Job := { job1S doneStep with period := 20000 }

theorem meets_BoundaryCommitsStep_1 :
    ∃ (s : State) (h t tc : Nat) (j : Job) (x : Step) (r : Results),
      s.ready = true ∧
      s.tb.time = t ∧
      s.job h = some j ∧
      j.nRanks = 1 ∧
      j.lost = false ∧
      j.seqLost = [] ∧
      s.active = some h ∧
      s.power.state = .active ∧
      s.power.pending = none ∧
      j.layout.pending = none ∧
      j.onGrid t = true ∧
      j.step = some x ∧
      x.results = some r ∧
      x.phase = .complete tc ∧
      tc < t ∧
      s.cmds.all (fun c => c.code == 0x30 && !c.sched) = true :=
  ⟨serving jobB, 7, 1000000, 999999, jobB, doneStep, noResults,
    by decide +kernel⟩

theorem meets_StepCompletes_1 :
    ∃ (s : State) (h : Nat) (j : Job) (x : Step) (r : Results),
      s.job h = some j ∧
      j.step = some x ∧
      x.phase = .running ∧
      s.holdsGroups h = false ∧
      s.walkPublished j x.env.graph x = [] ∧
      s.walkStaged j x.env.graph x = [] ∧
      (evalStep (stepCtx j x s.draws) x.lens x.isDraft x.toks).1 = some r :=
  ⟨serving (job1S step1), 7, job1S step1, step1, (evalStep (stepCtx (job1S step1) step1 0) step1.lens step1.isDraft step1.toks).1.get (by decide +kernel),
    by decide +kernel,
    by decide +kernel,
    by decide +kernel,
    by decide +kernel,
    by decide +kernel,
    by decide +kernel,
    (Option.some_get _).symm⟩

/-- The same job as rank `r` of three. -/
def jobOf3 (r : Nat) : Job := { job1S step1 with nRanks := 3, rank := r }

theorem meets_StepCompletes_2 :
    ∃ (s : State) (h : Nat) (j : Job) (x : Step),
      s.job h = some j ∧
      j.step = some x ∧
      x.phase = .running ∧
      s.holdsGroups h = false ∧
      s.walkPublished j x.env.graph x = [] ∧
      s.walkStaged j x.env.graph x = [] ∧
      (evalStep (stepCtx j x s.draws) x.lens x.isDraft x.toks).1 = none :=
  ⟨serving (jobOf3 2), 7, jobOf3 2, step1,
    by decide +kernel⟩

def red1 : ReduceRec := ⟨1, 3, 1, 0, 0, 0, 0, List.replicate 256 0⟩

def gat1 : GatherRec := ⟨1, 3, 1, 0, 0, tokOne, false, [List.replicate 40 0]⟩

theorem meets_StepRecordsHeld_1 :
    ∃ (s : State) (h : Nat) (i : Instr) (j : Job) (x y : Step),
      s.job h = some j ∧
      j.step = some x ∧
      j.lost = false ∧
      x.phase ≠ .killed ∧
      RecordHeld h j.nRanks x i y ∧
      (x.phase ≠ .running ∨ (x.ready = false ∧ s.moduleSums = [])) :=
  ⟨serving (jobOf3 0), 7, .reduceRecord 7 red1, jobOf3 0, step1, { step1 with reduces := [red1] },
    by decide +kernel,
    by decide +kernel,
    by decide +kernel,
    by decide +kernel,
    .reduce _ rfl (by decide +kernel),
    by decide +kernel⟩

theorem meets_StepRecordsHeld_2 :
    ∃ (s : State) (h : Nat) (i : Instr) (j : Job) (x y : Step) (r : Results),
      s.job h = some j ∧
      j.step = some x ∧
      j.lost = false ∧
      x.phase = .running ∧
      x.ready = true ∧
      RecordHeld h j.nRanks x i y ∧
      (evalStep (stepCtx j y s.draws) y.lens y.isDraft y.toks).1 = some r :=
  ⟨serving (job1S readyStep), 7, .gatherRecord 7 { gat1 with rank := 0 }, job1S readyStep, readyStep, { readyStep with gathers := [{ gat1 with rank := 0 }] }, (evalStep (stepCtx (job1S readyStep) { readyStep with gathers := [{ gat1 with rank := 0 }] } 0) step1.lens step1.isDraft step1.toks).1.get (by decide +kernel),
    by decide +kernel,
    by decide +kernel,
    by decide +kernel,
    by decide +kernel,
    by decide +kernel,
    .gather _ rfl (by decide +kernel),
    (Option.some_get _).symm⟩

theorem meets_StepRecordsHeld_3 :
    ∃ (s : State) (h : Nat) (red : ReduceRec) (gat : GatherRec) (j : Job) (x : Step),
      s.job h = some j ∧
      j.step = some x :=
  ⟨serving (jobOf3 0), 7, { red1 with step := 2 }, { gat1 with step := 4 }, jobOf3 0, step1,
    by decide +kernel⟩

theorem meets_StepDoneAgrees_1 :
    ∃ (s : State) (h b : Nat) (j : Job) (x : Step),
      s.job h = some j ∧
      j.step = some x ∧
      j.lost = false ∧
      x.phase ≠ .killed ∧
      j.rank ≠ 0 ∧
      s.now < b + j.period :=
  ⟨serving (jobOf3 2), 7, 981251, jobOf3 2, step1,
    by decide +kernel⟩

theorem meets_StepDoneAgrees_2 :
    ∃ (s : State) (h b rank : Nat) (j : Job) (x : Step),
      s.job h = some j ∧
      j.step = some x ∧
      j.lost = false ∧
      x.phase ≠ .killed ∧
      j.rank = 0 ∧
      rank ≠ 0 ∧
      rank < j.nRanks ∧
      rank ∉ x.doneFrom :=
  ⟨serving (jobOf3 0), 7, 981251, 2, jobOf3 0, step1,
    by decide +kernel⟩

theorem meets_StepDoneAgrees_3 :
    ∃ (s : State) (h b : Nat) (j : Job) (x : Step),
      s.job h = some j ∧
      j.step = some x ∧
      j.lost = false ∧
      x.phase ≠ .killed ∧
      j.rank ≠ 0 ∧
      b + j.period ≤ s.now :=
  ⟨serving (jobOf3 2), 7, 981250, jobOf3 2, step1,
    by decide +kernel⟩

theorem meets_KillsAndAborts_1 :
    ∃ (s : State) (h rank reason : Nat) (j : Job) (x : Step),
      s.job h = some j ∧
      j.step = some x ∧
      j.lost = false ∧
      x.phase ≠ .killed ∧
      rank ≠ j.rank ∧
      rank < j.nRanks ∧
      j.committedStep x.number.toNat = false ∧
      x.kills < 2 :=
  ⟨serving (jobOf3 0), 7, 2, 8, jobOf3 0, step1,
    by decide +kernel⟩

theorem meets_KillsAndAborts_2 :
    ∃ (s : State) (h rank : Nat) (j : Job),
      s.job h = some j ∧
      rank < j.nRanks ∧
      rank ≠ j.rank ∧
      (h, rank) ∉ s.net.quarantined :=
  ⟨serving (jobOf3 0), 7, 2, jobOf3 0,
    by decide +kernel⟩

/-- The STATS body of that step: no statistic, and 0 for each count. -/
def statsBody1 : StatsBody := ⟨[[]], [[false]], [0, 0, 0], [0, 0, 0], [], []⟩

theorem meets_StatsHeld_1 :
    ∃ (s : State) (h rank : Nat) (b : StatsBody) (j : Job) (x : Step),
      s.job h = some j ∧
      j.step = some x ∧
      x.phase ≠ .killed ∧
      j.lost = false ∧
      statsOk x b = true ∧
      rank ∈ j.kids ∧
      x.statsIn.any (fun y => y.1 == rank) = false :=
  ⟨serving (jobOf3 0), 7, 1, statsBody1, jobOf3 0, step1,
    by decide +kernel⟩

theorem meets_StatsHeld_2 :
    ∃ (s : State) (h : Nat) (b : StatsBody) (j : Job) (x : Step) (r : Results),
      s.job h = some j ∧
      j.step = some x ∧
      x.phase ≠ .killed ∧
      j.lost = false ∧
      statsOk x b = true ∧
      j.rank ≠ 0 ∧
      x.results = some r ∧
      x.merged = none :=
  ⟨serving { jobOf3 2 with step := some doneStep }, 7, statsBody1, { jobOf3 2 with step := some doneStep }, doneStep, noResults,
    by decide +kernel⟩

/-! ## Instants and firmware -/

/-- The same module with its timebase synchronised. -/
def synced (s : State) : State := { s with tb := { s.tb with state := .synced } }

/-- SCHEDULE_AT of a QUERY_MODULE into slot 3 at an instant T (R346). -/
def scheduleBody (t : Nat) : Bytes :=
  leBytes 8 t ++ leBytes 2 0 ++ leBytes 2 1 ++ leBytes 4 77 ++ leBytes 4 0 ++ leBytes 2 4 ++ zeros 10 ++ leBytes 4 3

theorem meets_InstantsRun_1 :
    ∃ (s : State) (p : PartId) (m : BoxId),
      Due s p m 0x40 ∧
      s.scheduleCheck (s.asked p m) = none ∧
      AreasGood s (s.asked p m) ∧
      (s.asked p m).flip < u64 (s.asked p m).body 0 :=
  ⟨mailed (slotsOwned (synced up) 3 1) 0 0x40 0 (scheduleBody 999001), 0, 0,
    ⟨by decide +kernel, by decide +kernel, by decide +kernel⟩,
    by decide +kernel,
    ⟨by decide +kernel, by decide +kernel⟩,
    by decide +kernel⟩

theorem meets_InstantsRun_2 :
    ∃ (s : State) (p : PartId) (m : BoxId),
      Due s p m 0x61 ∧
      (s.asked p m).job = 0 ∧
      bodyFault (s.asked p m).body activateFields (activateChecks (s.asked p m).body) = none ∧
      (s.planRec p).moduleCfg = true ∧
      s.instantCheck (s.asked p m) = none ∧
      s.active.isSome = true :=
  ⟨mailed (synced (serving job1)) 0 0x61 0 (leBytes 8 (999000 + 2 ^ 37) ++ zeros 4 ++ leBytes 4 2), 0, 0,
    ⟨by decide +kernel, by decide +kernel, by decide +kernel⟩,
    by decide +kernel⟩

def atInstant : Cmd := ⟨0, 0, 0x40, 0, 7, 999000, scheduleBody 1000000, true, [3], [], [], []⟩

theorem meets_InstantsRun_3 :
    ∃ (s : State) (t : Nat) (c : Cmd),
      s.memoryWf ∧
      s.tb.time = t ∧
      s.serves = true ∧
      s.active.isSome = true ∧
      s.power.pending = none ∧
      s.dueInner t = [c] ∧
      s.stillWaits c = true ∧
      u16 c.body 0x0A = 0x01 ∧
      u32 c.body 0x10 = 0 ∧
      4 ≤ (innerBody c.body).length ∧
      AreasGood s c.inner :=
  ⟨{ slotsOwned (serving job1) 3 1 with cmds := [atInstant] }, 1000000, atInstant,
    ⟨by decide +kernel, by decide +kernel⟩,
    rfl,
    by decide +kernel,
    by decide +kernel,
    by decide +kernel,
    by decide +kernel,
    by decide +kernel,
    by decide +kernel,
    by decide +kernel,
    by decide +kernel,
    ⟨by decide +kernel, by decide +kernel⟩⟩

/-- A staged image of version 2, to be sent on to slot 2 of rack 1. -/
def image2 : Image := { Image.manufactured false with manifest :=
  { (Image.manufactured false).manifest with version := 2, chain := [⟨0xFFF, 0xFF, 0⟩, ⟨1, 2, 0⟩] } }

def withStaged (s : State) : State :=
  { s with flash := { s.flash with imageB := some image2 }, fw := { s.fw with staged := true, stagedObj := [1] } }

theorem meets_DeltasStage_2 :
    ∃ (s : State) (p : PartId) (m : BoxId) (x : Image) (n : Member),
      Due s p m 0x62 ∧
      (s.asked p m).job = 0 ∧
      (s.planRec p).moduleCfg = true ∧
      s.fw.staged = true ∧
      s.fw.stagedObj ≠ [] ∧
      s.flash.other = some x ∧
      successor s.coord.member x.manifest.chain = some n ∧
      s.memberLost n = false :=
  ⟨mailed (withStaged up) 0 0x62 0 [], 0, 0, image2, ⟨1, 2, 0⟩,
    ⟨by decide +kernel, by decide +kernel, by decide +kernel⟩,
    by decide +kernel⟩

def forwardCmd : Cmd := ⟨0, 0, 0x62, 0, 7, 999000, [], false, [], [], [], []⟩

theorem meets_DeltasStage_4 :
    ∃ (s : State) (p : PartId) (m : BoxId) (n : Member) (st : Nat) (c : Cmd),
      s.memoryWf ∧
      s.fw.forward = some (p, m, n) ∧
      s.cmdAt p m = some c :=
  ⟨{ withStaged up with fw := { (withStaged up).fw with forward := some (0, 0, ⟨1, 2, 0⟩) }, cmds := [forwardCmd] }, 0, 0, ⟨1, 2, 0⟩, 0, forwardCmd,
    ⟨by decide +kernel, by decide +kernel⟩,
    by decide +kernel⟩

def activateBody (t : Nat) : Bytes := leBytes 8 t ++ [1, 0, 0, 0] ++ leBytes 4 2

def activateCmd : Cmd := ⟨0, 0, 0x61, 0, 7, 999000, activateBody 1000000, false, [], [], [], []⟩

theorem meets_ActivationRules_1 :
    ∃ (s : State) (t : Nat) (c : Cmd),
      s.tb.time = t ∧
      s.activationDue t = some c ∧
      s.stagedVersion = some (u32 c.body 0x0C) ∧
      s.active = none :=
  ⟨{ withStaged up with cmds := [activateCmd] }, 1000000, activateCmd,
    by decide +kernel⟩

theorem meets_ActivationRules_2 :
    ∃ (s : State) (p : PartId) (m : BoxId) (x : Image),
      Due s p m 0x61 ∧
      (s.asked p m).job = 0 ∧
      bodyFault (s.asked p m).body activateFields (activateChecks (s.asked p m).body) = none ∧
      (s.planRec p).moduleCfg = true ∧
      s.instantCheck (s.asked p m) = none ∧
      s.active = none ∧
      u64 (s.asked p m).body 0 ≤ s.now ∧
      s.cmds.all (fun c => c.code != 0x61) = true ∧
      s.flash.other = some x ∧
      s.stagedVersion = some (u32 (s.asked p m).body 0x0C) :=
  ⟨mailed (synced (withStaged up)) 0 0x61 0 (activateBody 999000), 0, 0, image2,
    ⟨by decide +kernel, by decide +kernel, by decide +kernel⟩,
    by decide +kernel⟩

/-! ## Ports and the fabric transport -/

/-- Coordinates of rack 1, slot 1, site 0, with SWITCH 300 and PORT 7 for port X0 alone, committed (R283). -/
def placed (s : State) : State :=
  { s with coord := { s.coord with live := BitVec.ofNat 256 (1 + 2 ^ 16 + 300 * 2 ^ 64 + 7 * 2 ^ 80), committed := true } }

/-- Host and fabric ports up since time 0. -/
def linked (s : State) : State :=
  let s := placed s
  { s with net := { s.net with host := s.net.host.map (fun q => { q with up := true }),
                               fab := s.net.fab.map (fun q => { q with up := true }) } }

def later (t : Nat) (s : State) : State := { s with tb := { s.tb with time := t } }

theorem meets_PortRules_1 :
    ∃ (s : State) (p : HostPort) (t : Nat),
      s.portHeld (.host p) = false ∧
      s.portsRun (.host p) = true :=
  ⟨up, 3, 1000001,
    by decide +kernel⟩

theorem meets_PortRules_2 :
    ∃ (s : State) (p : FabPort) (t : Nat),
      s.portHeld (.fabric p) = false ∧
      s.portsRun (.fabric p) = true ∧
      s.net.fab[p.val].up = false :=
  ⟨up, 5, 1000001,
    by decide +kernel⟩

theorem meets_PortRules_3 :
    ∃ (s : State) (p : HostPort),
      s.net.host[p.val].up = true :=
  ⟨linked up, 0,
    by decide +kernel⟩

theorem meets_PortRules_5 :
    ∃ (s : State) (p : FabPort) (t : Nat),
      s.tb.time = t ∧
      s.lldpRuns p = true ∧
      s.net.fab[p.val].lldpAt + second ≤ t :=
  ⟨later 156250000 (linked up), 0, 156250000,
    by decide +kernel⟩

theorem meets_PortRules_6 :
    ∃ (s : State) (p : FabPort) (f : LldpIn),
      s.lldpRuns p = true ∧
      s.net.fab[p.val].miswired = false ∧
      f.chassisSub = 7 ∧
      f.chassis = decimal (s.coord.switch p.val) ∧
      f.portSub = 7 ∧
      f.portId = decimal (s.coord.portNo p.val) :=
  ⟨linked up, 0, ⟨7, [51, 48, 48], 7, [55]⟩,
    by decide +kernel⟩

theorem meets_PortRules_7 :
    ∃ (s : State) (p : FabPort) (t : Nat),
      s.tb.time = t ∧
      s.lldpRuns p = true ∧
      s.net.fab[p.val].matched = false ∧
      s.net.fab[p.val].miswired = false ∧
      s.net.fab[p.val].upAt + 5 * second ≤ t :=
  ⟨later 781250000 (linked up), 0, 781250000,
    by decide +kernel⟩

/-- Job 7 as rank 0 of three, with its members. -/
def job3 : Job := { jobOf3 0 with members := [⟨1, 1, 0⟩, ⟨1, 2, 0⟩, ⟨1, 3, 0⟩] }

/-- The stream of rank 1's CONTROL records. -/
def key1 : StreamKey := ⟨7, 1, 0⟩

def peerMac : BitVec 48 := (⟨1, 2, 0⟩ : Member).fabMac 0

/-- A frame of that stream as R303 lays it out: type, reason, SEQ, flags (FIRST and LAST, PORTS_UP of X0), ACK and CRC. -/
def frameOf (typ reason seq flags ack crc : Nat) (payload : Bytes) : Bytes :=
  [0, 0, 0, 7, 1, 0, BitVec.ofNat 8 typ, BitVec.ofNat 8 reason] ++ zeros 4 ++ beBytes 4 seq ++ zeros 4
    ++ beBytes 2 payload.length ++ beBytes 2 flags ++ beBytes 4 ack ++ beBytes 4 crc ++ payload

/-- A KILL of step 3. -/
def killRecord : Bytes := [1, 1, 4, 0] ++ leBytes 4 3 ++ zeros 8

def goodData : Bytes := frameOf 0 0 9 0x0103 0 (crc32 killRecord) killRecord

def rx1 : RxStream := ⟨key1, 9, [], [], none, 30, 0, 0, 1, none⟩

def fab3 : State := linked { serving job3 with net := { Net.reset with rx := [rx1] } }

theorem meets_DataFrameRules_1 :
    ∃ (s : State) (port : FabPort) (src : BitVec 48) (frame : Bytes) (k : StreamKey) (r : RxStream),
      FrameGood s port src frame k ∧
      (fabFrameOf frame).typ = 0 ∧
      (fabFrameOf frame).ackv = false ∧
      (fabFrameOf frame).sync = false ∧
      wholeRecords (fabFrameOf frame) = true ∧
      ((fabFrameOf frame).length = 0 ∨ crc32 (fabFrameOf frame).payload = (fabFrameOf frame).crc) ∧
      s.net.rx.find? (fun y => y.key == k) = some r ∧
      r.held = [] ∧
      r.unackedCount < 31 ∧
      (fabFrameOf frame).seq = r.expected ∧
      (fabFrameOf frame).offset = r.nextOffset :=
  ⟨fab3, 0, peerMac, goodData, key1, rx1,
    ⟨by decide +kernel, by decide +kernel, by rfl, by decide +kernel, by decide +kernel, by decide +kernel, by decide +kernel, by decide +kernel, by decide +kernel, by decide +kernel⟩,
    by decide +kernel⟩

theorem meets_DataFrameRules_2 :
    ∃ (s : State) (port : FabPort) (src : BitVec 48) (frame : Bytes) (k : StreamKey),
      FrameGood s port src frame k ∧
      (fabFrameOf frame).typ = 0 ∧
      (fabFrameOf frame).length ≠ 0 ∧
      crc32 (fabFrameOf frame).payload ≠ (fabFrameOf frame).crc :=
  ⟨fab3, 0, peerMac, frameOf 0 0 9 0x0103 0 1 killRecord, key1,
    ⟨by decide +kernel, by decide +kernel, by rfl, by decide +kernel, by decide +kernel, by decide +kernel, by decide +kernel, by decide +kernel, by decide +kernel, by decide +kernel⟩,
    by decide +kernel⟩

def txf (seq : BitVec 32) : TxFrame := ⟨seq, 0, true, true, false, (0, 1), killRecord, 0, some 0⟩

def tx1 : TxStream := ⟨key1, 11, [txf 9, txf 10], 990000, 0⟩

def fab4 : State := linked { serving job3 with net := { Net.reset with tx := [tx1], rx := [rx1] } }

theorem meets_AcksAndNaks_1 :
    ∃ (s : State) (port : FabPort) (src : BitVec 48) (frame : Bytes) (k : StreamKey) (x : TxStream),
      FrameGood s port src frame k ∧
      (fabFrameOf frame).typ = 1 ∧
      (fabFrameOf frame).ackv = true ∧
      s.net.tx.find? (fun y => y.key == k) = some x ∧
      x.unacked ≠ [] ∧
      (∀ f ∈ x.unacked, serialCmp 32 f.seq.toNat (fabFrameOf frame).ack.toNat = .earlier ∧ f.sentOn.isSome = true) :=
  ⟨fab4, 0, peerMac, frameOf 1 0 0 0x0104 11 0 [], key1, tx1,
    ⟨by decide +kernel, by decide +kernel, by rfl, by decide +kernel, by decide +kernel, by decide +kernel, by decide +kernel, by decide +kernel, by decide +kernel, by decide +kernel⟩,
    by decide +kernel⟩

theorem meets_AcksAndNaks_2 :
    ∃ (s : State) (port : FabPort) (src : BitVec 48) (frame : Bytes) (k : StreamKey) (x : TxStream) (f : TxFrame) (sentOn p : FabPort) (n : Nat),
      FrameGood s port src frame k ∧
      (fabFrameOf frame).typ = 2 ∧
      (fabFrameOf frame).ackv = false ∧
      ((fabFrameOf frame).reason = 1 ∨ (fabFrameOf frame).reason = 2) ∧
      s.net.tx.find? (fun y => y.key == k) = some x ∧
      x.unacked.find? (fun g => g.seq == (fabFrameOf frame).seq && g.sentOn.isSome) = some f ∧
      f.sentOn = some sentOn ∧
      nextPort s.portsUp (fabFrameOf frame).ports (rotation.findIdx (· == sentOn)) = some (p, n) ∧
      f.resends + 1 ≠ s.cfg.fabRetries :=
  ⟨fab4, 0, peerMac, frameOf 2 2 10 0x0100 0 0 [], key1, tx1, txf 10, 0, 0, 0,
    ⟨by decide +kernel, by decide +kernel, by rfl, by decide +kernel, by decide +kernel, by decide +kernel, by decide +kernel, by decide +kernel, by decide +kernel, by decide +kernel⟩,
    by decide +kernel⟩

def fab5 : State := later 2000000 { fab4 with net := { fab4.net with
  rx := [{ rx1 with missing := [(9, 2000000 - 1250)], ackDue := some (2000000 - 625) }] } }

theorem meets_TransportTimers_1 :
    ∃ (s : State) (k : StreamKey) (seq t : Nat) (x : RxStream) (m : BitVec 32 × Nat),
      s.tb.time = t ∧
      s.net.rx.find? (fun y => y.key == k) = some x ∧
      x.missing.find? (fun m => m.1 == BitVec.ofNat 32 seq) = some m ∧
      m.2 + s.cfg.fabGap ≤ t ∧
      s.streamLost k = false :=
  ⟨fab5, key1, 9, 2000000, { rx1 with missing := [(9, 2000000 - 1250)], ackDue := some (2000000 - 625) }, (9, 2000000 - 1250),
    by decide +kernel⟩

theorem meets_TransportTimers_2 :
    ∃ (s : State) (k : StreamKey) (t : Nat) (x : TxStream) (f : TxFrame) (fs : List TxFrame) (sentOn p : FabPort) (n : Nat),
      s.tb.time = t ∧
      s.net.tx.find? (fun y => y.key == k) = some x ∧
      x.unacked = f :: fs ∧
      f.sentOn = some sentOn ∧
      x.progressAt + s.cfg.fabRto ≤ t ∧
      s.streamLost k = false ∧
      nextPort (s.wire k).up (s.wire k).peerUp (rotation.findIdx (· == sentOn)) = some (p, n) ∧
      f.resends + 1 ≠ s.cfg.fabRetries :=
  ⟨fab4, key1, 1000000, tx1, txf 9, [txf 10], 0, 0, 0,
    by decide +kernel⟩

theorem meets_TransportTimers_3 :
    ∃ (s : State) (k : StreamKey) (t d : Nat) (x : RxStream),
      s.tb.time = t ∧
      s.net.rx.find? (fun y => y.key == k) = some x ∧
      x.ackDue = some d ∧
      d + 625 ≤ t ∧
      s.streamLost k = false :=
  ⟨fab5, key1, 2000000, 2000000 - 625, { rx1 with missing := [(9, 2000000 - 1250)], ackDue := some (2000000 - 625) },
    by decide +kernel⟩

/-! ## Host ports -/

/-- A queue pair of partition 0 on port H0, PMTU 1,024, PSN 100 next. -/
def qp1 : Qp :=
  { index := 4, part := 0, port := 0, notice := 1, pmtu := 3, sgid := 0, remoteQpn := 0, initSend := 0, initRecv := 0,
    remoteGid := 0xFE80 * 2 ^ 112 + 1, remoteMac := 0, timeout := 14, retryCnt := 7, maxRd := 16, noticeRkey := 0,
    noticeVa := 0, sendPsn := 0, recvPsn := 100, inError := none, nakSent := false, rate := ⟨399, 0⟩, cnpSentAt := none,
    cnpRecvAt := none, rateAt := 990000, notices := [], flips := [], lastEvents := [] }

def hosted (q : Qp) : State := linked { up with net := { Net.reset with qps := [q] } }

/-- A packet to that queue pair. -/
def pkt (op : RoceOp) (rkey va len : Nat) (payload : Bytes) : RocePkt :=
  ⟨0, true, .rc, false, 0x104, 0xFE80 * 2 ^ 112 + 1, 100, op, rkey, va, len, 0, true, true, payload, false⟩

theorem meets_RdmaWritePlaces_1 :
    ∃ (s : State) (x : RocePkt) (q : Qp) (n : Nat),
      s.memoryWf ∧
      PacketGood s x q ∧
      x.op = .write ∧
      s.windowOf q x.rkey = some (false, n) ∧
      s.power.wakeOnFlip = false :=
  ⟨hosted qp1, pkt .write 0x1000 0x1FFFE 2 [0xAA, 0xBB], qp1, 0x20000,
    ⟨by decide +kernel, by decide +kernel⟩,
    ⟨by decide +kernel, by decide +kernel, by decide +kernel⟩,
    by decide +kernel⟩

theorem meets_FlipHandsOver_1 :
    ∃ (s : State) (x : RocePkt) (q : Qp) (n : Nat) (m : BoxId) (b : Byte) (bs : Bytes),
      s.memoryWf ∧
      PacketGood s x q ∧
      x.op = .write ∧
      s.windowOf q x.rkey = some (false, n) ∧
      x.va = boxAt m ∧
      x.payload = b :: bs ∧
      b.getLsbD 0 = true ∧
      x.last = true ∧
      q.flips = [] ∧
      s.power.wakeOnFlip = false :=
  ⟨hosted qp1, pkt .write 0x1000 0x1C000 8 (leBytes 8 1), qp1, 0x20000, 7, 1, zeros 7,
    ⟨by decide +kernel, by decide +kernel⟩,
    ⟨by decide +kernel, by decide +kernel, by decide +kernel⟩,
    by decide +kernel⟩

theorem meets_RdmaReadReturns_1 :
    ∃ (s : State) (x : RocePkt) (q : Qp),
      PacketGood s x q ∧
      x.op = .read :=
  ⟨hosted qp1, pkt .read 0x2000 0 4096 [], qp1,
    ⟨by decide +kernel, by decide +kernel, by decide +kernel⟩,
    by decide +kernel⟩

theorem meets_RefusedPacketsPlaceNothing_1 :
    ∃ (s : State) (x : RocePkt) (f : RoceFault),
      s.hostCarries x.port = true ∧
      s.verdict x = .drop f none :=
  ⟨hosted qp1, { pkt .write 0x1000 0 0 [] with icrcOk := false }, .icrc,
    by decide +kernel⟩

theorem meets_RefusedPacketsPlaceNothing_2 :
    ∃ (s : State) (x : RocePkt) (f : RoceFault) (q : Qp),
      s.hostCarries x.port = true ∧
      s.verdict x = .drop f (some q) :=
  ⟨hosted qp1, { pkt .write 0x1000 0 0 [] with port := 1 }, .wrongPath, qp1,
    by decide +kernel⟩

theorem meets_RefusedPacketsPlaceNothing_3 :
    ∃ (s : State) (x : RocePkt) (q : Qp),
      s.hostCarries x.port = true ∧
      s.verdict x = .ahead q ∧
      q.nakSent = false :=
  ⟨hosted qp1, { pkt .write 0x1000 0 0 [] with psn := 101 }, qp1,
    by decide +kernel⟩

theorem meets_RefusedPacketsPlaceNothing_4 :
    ∃ (s : State) (x : RocePkt) (q : Qp),
      s.hostCarries x.port = true ∧
      s.verdict x = .again q :=
  ⟨hosted qp1, { pkt .write 0x1000 0 0 [] with psn := 99 }, qp1,
    by decide +kernel⟩

theorem meets_RefusedPacketsPlaceNothing_5 :
    ∃ (s : State) (x : RocePkt) (f : RoceFault) (q : Qp),
      s.hostCarries x.port = true ∧
      s.verdict x = .nak f q :=
  ⟨hosted qp1, pkt .write 0x1000 0x1FFFF 2 [1, 2], .access, qp1,
    by decide +kernel⟩

theorem meets_QueuePairsMove_1 :
    ∃ (s : State) (k t : Nat) (q : Qp),
      s.qp k = some q ∧
      s.hostCarries q.port = true ∧
      q.inError = none ∧
      s.tb.time = t :=
  ⟨hosted qp1, 4, 1000000, qp1,
    by decide +kernel⟩

theorem meets_QueuePairsMove_2 :
    ∃ (s : State) (k t : Nat) (q : Qp),
      s.qp k = some q ∧
      s.tb.time = t ∧
      q.rateAt + 10000 ≤ t ∧
      q.rate ≠ ⟨400, 0⟩ :=
  ⟨hosted qp1, 4, 1000000, qp1,
    by decide +kernel⟩

theorem meets_QueuePairsMove_3 :
    ∃ (s : State) (k : Nat) (q : Qp),
      s.qp k = some q :=
  ⟨hosted qp1, 4, qp1,
    by decide +kernel⟩

def qpN (r : Nat) : Qp := { qp1 with timeout := 1, notices := [⟨5, 7, r, 998720⟩] }

theorem meets_QueuePairsMove_4 :
    ∃ (s : State) (k : Nat) (n : Notice) (rest : List Notice) (q : Qp),
      s.qp k = some q ∧
      q.notices = n :: rest ∧
      s.hostCarries q.port = true :=
  ⟨hosted (qpN 1), 4, ⟨5, 7, 1, 998720⟩, [], qpN 1,
    by decide +kernel⟩

theorem meets_QueuePairsMove_5 :
    ∃ (s : State) (k : Nat) (n : Notice) (rest : List Notice) (q : Qp),
      s.qp k = some q ∧
      q.notices = n :: rest :=
  ⟨hosted (qpN 1), 4, ⟨5, 7, 1, 998720⟩, [], qpN 1,
    by decide +kernel⟩

theorem meets_QueuePairsMove_6 :
    ∃ (s : State) (k t : Nat) (n : Notice) (rest : List Notice) (q : Qp),
      s.qp k = some q ∧
      s.tb.time = t ∧
      q.notices = n :: rest ∧
      n.sent + q.ackTicks ≤ t ∧
      n.retries ≠ 0 ∧
      s.hostCarries q.port = true :=
  ⟨hosted (qpN 1), 4, 1000000, ⟨5, 7, 1, 998720⟩, [], qpN 1,
    by decide +kernel⟩

theorem meets_QueuePairsMove_7 :
    ∃ (s : State) (k t : Nat) (n : Notice) (rest : List Notice) (q : Qp),
      s.qp k = some q ∧
      s.tb.time = t ∧
      q.notices = n :: rest ∧
      n.sent + q.ackTicks ≤ t ∧
      n.retries = 0 ∧
      s.hostCarries q.port = true :=
  ⟨hosted (qpN 0), 4, 1000000, ⟨5, 7, 0, 998720⟩, [], qpN 0,
    by decide +kernel⟩

theorem meets_QueuePairsMove_8 :
    ∃ (s : State) (k t e : Nat) (q : Qp),
      s.qp k = some q ∧
      s.tb.time = t ∧
      q.inError = some e ∧
      e + s.cfg.qpRestart ≤ t :=
  ⟨later 2562500 (hosted { qp1 with inError := some 1000000 }), 4, 2562500, 1000000, { qp1 with inError := some 1000000 },
    by decide +kernel⟩

theorem meets_HostPortRules_1 :
    ∃ (s : State) (p : HostPort) (n t : Nat),
      s.tb.time = t ∧
      s.net.host[p.val].up = true ∧
      n ≠ 0 :=
  ⟨hosted qp1, 0, 1, 1000000,
    by decide +kernel⟩

theorem meets_HostPortRules_2 :
    ∃ (s : State) (p : HostPort) (t : Nat),
      s.tb.time = t ∧
      s.net.host[p.val].up = true :=
  ⟨hosted qp1, 0, 1000000,
    by decide +kernel⟩

def pausedPort : State := (hosted qp1).updHost 1 (fun q => { q with pausedUntil := some 1000000, paused := [.beacon []] })

theorem meets_HostPortRules_3 :
    ∃ (s : State) (p : HostPort) (prio n t : Nat),
      s.tb.time = t ∧
      s.net.host[p.val].up = true ∧
      prio ≠ s.cfg.pfcPrio :=
  ⟨hosted qp1, 0, 8, 1, 1000000,
    by decide +kernel⟩

theorem meets_HostPortRules_4 :
    ∃ (s : State) (p : HostPort) (u t : Nat),
      s.tb.time = t ∧
      s.net.host[p.val].pausedUntil = some u ∧
      u ≤ t :=
  ⟨pausedPort, 1, 1000000, 1000000,
    by decide +kernel⟩

theorem meets_HostPortRules_5 :
    ∃ (s : State) (p : HostPort),
      s.net.host[p.val].up = true ∧
      s.net.host[p.val].xoff = true :=
  ⟨(hosted qp1).updHost 2 (fun q => { q with xoff := true }), 2,
    by decide +kernel⟩

theorem meets_HostPortRules_6 :
    ∃ (s : State) (p : HostPort) (a : BitVec 32),
      s.hostCarries p = true :=
  ⟨hosted qp1, 3, 0x0A000001,
    by decide +kernel⟩

theorem meets_HostPortRules_7 :
    ∃ (s : State) (p : HostPort) (a : BitVec 128),
      s.hostCarries p = true ∧
      gidIsV4 a.toNat = false :=
  ⟨hosted qp1, 3, 0xFE800000000000000000000000000001,
    by decide +kernel⟩

/-! ## Cells -/

/-- Stage 0 on cell 5 alone. -/
def stage5 : Stage := ⟨0, 0, [5], 0, false⟩

def jobW : Job := { job1S step1 with layout := { job1.layout with stages := [stage5] } }

/-- Cell 5 of that job in the step, as `f` leaves it. -/
def cellUp (f : Cell → Cell) : State :=
  (serving jobW).onCell 5 (fun c => f { c with base := .running, job := some 7, stage := some 0, step := 3 })

def work1 : Work := ⟨jobW, step1, stage5, stepCtx jobW step1 0⟩

/-- The opening of PROJECT's one output block over its one input block. -/
def open1 : OpenIn := ⟨1, 0, 0, 0, 0, [[0]]⟩

def opened1 : List Nat × GroupTag := ((cellUp id).groupTag work1 5 open1).get (by decide +kernel)

def group1 : Group := Group.fresh 3 0 opened1.2

def closed1 : Group := { group1 with next := Vector.replicate 8 none }

def pos1 : PartialPos := ⟨0, 0, 0, 0, 0⟩

def lineOf (b : Byte) : Bytes := List.replicate 64 b

/-- A cell with `f` done to region 2. -/
def setRegion (f : Region → Region) (c : Cell) : Cell := { c with regions := c.regions.set 2 (f c.regions[2]) }

/-- Region 2 of that cell, as `f` leaves it. -/
def regionUp (f : Region → Region) : State := cellUp (setRegion f)

/-- A line of a region, for the step of the cell. -/
def lineAt (b : Byte) : RLine := ⟨lineOf b, none, 3⟩

/-- The first plane step of that group, over activations in region 2. -/
def plane1 : PlaneIn := ⟨3, pos1, 2, 0, [], []⟩

/-- Activations of 1 at input 0, at width 8, in region 2; the block's bytes in region 0, a WEIGHT region. -/
def loaded1 (block : Bytes) (c : Cell) : Cell :=
  let lines : List RLine := (List.range 9).map (fun i => ⟨sub block (64 * i) 64, some (0x10000 + 64 * i), 3⟩)
  let acts : List RLine := (List.range 16).map (fun i => ⟨if i = 0 then 1 :: zeros 63 else zeros 64, none, 3⟩)
  setRegion (fun r => { r with kind := 3, arrived := 16, waited := some 16, lines := acts })
    { c with regions := c.regions.set 0 { c.regions[0] with kind := 1, arrived := 9, waited := some 9, lines := lines } }

def planeUp (block : Bytes) : State :=
  let s := cellUp (fun c => loaded1 block { c with groups := [group1] })
  { s with hbm := { s.hbm with mem := Mem.write [] 0x10000 [1, 1] } }

def partial1 : Partial := ⟨pos1, List.replicate 32 1, List.range 32⟩

def waiting1 : Group := { group1 with reorder := group1.reorder.set 2 [partial1] }

theorem meets_PlanesSumToDot_1 :
    ∃ (w : Nat) (codes : List Nat) (es : List (Nat × Int)),
      1 ≤ w ∧
      w ≤ 8 ∧
      (∀ c ∈ codes, c < 2 ^ w) ∧
      (∀ e ∈ es, e.1 < codes.length) :=
  ⟨3, [5, 7], [(1, -2), (0, 3)],
    by decide +kernel⟩

theorem meets_DigitRecordsMultiply_1 :
    ∃ (acc : Int) (m : Nat),
      m < 2 ^ 32 :=
  ⟨-5, 2 ^ 32 - 1,
    by decide +kernel⟩

def chunk1 : ChunkTag := (tagChunk opened1.2 pos1).get (by decide +kernel)

/-- PROJECT's block of that graph. -/
def block1 : Block := ⟨5, 1, 0, .sparse, 9, 0x10000, .clean⟩

theorem meets_GroupRules_1 :
    ∃ (s : State) (n : CellId) (pass tb tc : Nat) (x : OpenIn) (w : Work) (run : List Nat) (tag : GroupTag),
      s.cells[n.val].works = true ∧
      s.cells[n.val].waitOpen = none ∧
      s.work n = some w ∧
      s.groupTag w n x = some (run, tag) ∧
      s.cells[n.val].tileHeld (s.cells[n.val].nextTile pass tb tc) = false :=
  ⟨cellUp id, 5, 0, 3, 2, open1, work1, opened1.1, opened1.2,
    by decide +kernel⟩

theorem meets_GroupRules_2 :
    ∃ (s : State) (n : CellId) (pass tb tc : Nat) (x : OpenIn) (w : Work) (run : List Nat) (tag : GroupTag),
      s.cells[n.val].works = true ∧
      s.cells[n.val].waitOpen = none ∧
      s.work n = some w ∧
      s.groupTag w n x = some (run, tag) ∧
      s.cells[n.val].tileHeld (s.cells[n.val].nextTile pass tb tc) = true :=
  ⟨cellUp (fun c => { c with groups := [group1] }), 5, 0, 3, 1, open1, work1, opened1.1, opened1.2,
    by decide +kernel⟩

theorem meets_GroupRules_3 :
    ∃ (s : State) (n : CellId) (w : Work) (g : Group) (gs : List Group) (x : GroupIn) (base : Option (List (List Int))) (err : Option AccUpset) (b : Bool),
      s.cells[n.val].works = true ∧
      s.work n = some w ∧
      s.cells[n.val].groups = g :: gs ∧
      g.closed = true ∧
      s.groupIn w g = some x ∧
      s.outBase w g = some base ∧
      checkAcc (maskOf (g.upset ⟨g.tile, err⟩)) = some (0, b) :=
  ⟨cellUp (fun c => { c with groups := [closed1] }), 5, work1, closed1, [], ⟨[closed1.slotAccs 0], [0], []⟩, none, some ⟨255, 4⟩, true,
    by decide +kernel⟩

theorem meets_PartialsRetireInOrder_1 :
    ∃ (s : State) (n : CellId) (l : LaneGroup) (x : PlaneIn) (w : Work) (g : Group) (k : ChunkTag) (b : Block) (q : Cell × Nat × Option Nat) (r : Bool × Partial) (cs : List Nat),
      s.cells[n.val].works = true ∧
      s.work n = some w ∧
      s.cells[n.val].group x.tile = some g ∧
      g.takes l x.pos = some k ∧
      s.chunkBlock w g k = some b ∧
      q = s.cells[n.val].checkAll (s.cells[n.val].upsetLines b x) ∧
      q.2.2 = none ∧
      q.1.planeOut w g k b l x = some (.done r cs) :=
  ⟨planeUp emptySparse, 5, 2, plane1, work1, group1, chunk1, block1, ((planeUp emptySparse).cells[5], 0, none), (true, ⟨pos1, List.replicate 32 0, List.replicate 32 0⟩), [0, 0, 0, 0],
    by decide +kernel⟩

theorem meets_PartialsRetireInOrder_2 :
    ∃ (s : State) (n : CellId) (l : LaneGroup) (tile : TileId) (side : SideIn) (err : Option AccUpset) (w : Work) (g : Group) (k : ChunkTag) (y : Partial) (b : Block) (a : Nat × Bool) (c : Cell),
      s.cells[n.val].works = true ∧
      s.work n = some w ∧
      s.cells[n.val].group tile = some g ∧
      g.due l = some (k, y) ∧
      s.chunkBlock w g k = some b ∧
      checkAcc (maskOf err) = some a ∧
      c = s.cells[n.val].flipAcc tile (elementOf err) a.1 ∧
      (endsChunk k y.pos = false ∨ (∃ xs, c.sideOf g k b l y.pos.slot side = some (.recs xs))) :=
  ⟨cellUp (fun c => { c with groups := [waiting1] }), 5, 2, 3, ⟨none⟩, none, work1, waiting1, chunk1, partial1, block1, (0, false), _,
    by decide +kernel,
    by decide +kernel,
    by decide +kernel,
    by decide +kernel,
    by decide +kernel,
    by decide +kernel,
    rfl,
    .inl (by decide +kernel)⟩

/-- The same step over a graph whose PROJECT reads 17,408 elements: two leaves, which cell 5 holds both. -/
def leafGraph : Graph := { tinyGraph with descs := tinyDescs.map (fun d => if d.opcode = 2 then { d with inDim := 17408 } else d) }

def leafStep : Step := { step1 with env := { step1.env with graph := leafGraph } }

def leafJob : Job := { jobW with step := some leafStep }

def work2 : Work := ⟨leafJob, leafStep, stage5, stepCtx leafJob leafStep 0⟩

def leafKey : GroupKey := ⟨1, 0, 0, 0, 0⟩

/-- The closed group of leaf `i` of `n`, on tile 3 + i, output 255 holding i + 1. -/
def leafGroup (n i : Nat) : Group :=
  { closed1 with tile := Fin.ofNat 64 (3 + i), tag := { closed1.tag with leaf := i, leaves := n, tree := true }, wide := [(255, i + 1)] }

def reduceUp (n : Nat) : State :=
  ({ cellUp id with jobs := [leafJob] }).onCell 5 (fun c => { c with groups := [leafGroup n 0, leafGroup n 1] })

/-- A reduction of the same work that die 1 holds. -/
def otherDie : Reduction := ⟨0, 3, leafKey, [2], List.replicate 256 1, [0], []⟩

def joinUp : State := { reduceUp 3 with contexts := Vector.ofFn (fun d => if d = 1 then [otherDie] else []) }

theorem meets_ReductionSums_1 :
    ∃ (s : State) (die : Fin 2) (stage : Nat) (tile : TileId) (w : Work) (k : GroupKey) (r : Reduction) (g : Group) (n : CellId) (e : AccRead) (b : Bool),
      s.stageWork stage = some w ∧
      s.closedOn w.stage die.val tile = some k ∧
      s.dieReduction w die tile k = some r ∧
      s.contexts = Vector.replicate 2 [] ∧
      s.waitingReds = Vector.replicate 2 [] ∧
      (∀ x ∈ s.moduleSums, x.key ≠ k) ∧
      s.groupOf k = some g ∧
      checkAcc (maskOf (s.leafUpset w.stage die.val k n e)) = some (0, b) :=
  ⟨reduceUp 2, 0, 0, 3, work2, leafKey, ((reduceUp 2).dieReduction work2 0 3 leafKey).get (by decide +kernel), leafGroup 2 0, 5, ⟨3, some ⟨0, 1⟩⟩, true,
    by decide +kernel,
    by decide +kernel,
    (Option.some_get _).symm,
    by decide +kernel⟩

theorem meets_ReductionSums_2 :
    ∃ (s : State) (die : Fin 2) (stage : Nat) (tile : TileId) (w : Work) (k : GroupKey) (r x : Reduction) (g : Group) (n : CellId) (e : AccRead) (b : Bool),
      s.stageWork stage = some w ∧
      s.closedOn w.stage die.val tile = some k ∧
      s.dieReduction w die tile k = some r ∧
      s.contexts[die.val] = [] ∧
      s.contexts[1 - die.val] = [x] ∧
      s.waitingReds = Vector.replicate 2 [] ∧
      (∀ y ∈ s.moduleSums, y.key ≠ k) ∧
      s.groupOf k = some g ∧
      x.key = k ∧
      x.sums.length = r.sums.length ∧
      x.leaves.length + r.leaves.length = g.tag.leaves ∧
      checkAcc (maskOf (s.leafUpset w.stage die.val k n e)) = some (0, b) :=
  ⟨joinUp, 0, 0, 3, work2, leafKey, (joinUp.dieReduction work2 0 3 leafKey).get (by decide +kernel), otherDie, leafGroup 3 0, 5, ⟨3, none⟩, false,
    by decide +kernel,
    by decide +kernel,
    (Option.some_get _).symm,
    by decide +kernel⟩

theorem meets_ReductionSums_3 :
    ∃ (s : State) (die : Fin 2) (tile : TileId) (w : Work) (k : GroupKey) (r : Reduction) (i : Nat),
      s.dieReduction w die tile k = some r :=
  ⟨reduceUp 2, 0, 3, work2, leafKey, ((reduceUp 2).dieReduction work2 0 3 leafKey).get (by decide +kernel), 255,
    (Option.some_get _).symm⟩

theorem meets_RegionRules_1 :
    ∃ (s : State) (n : CellId) (r : RegionId) (p : Producer) (src : Option CellId) (line : Bytes) (c : Cell) (x : Region),
      s.cells[n.val] = c ∧
      c.regions[r.val] = x ∧
      x.producer = p ∧
      x.held = none ∧
      line.length = 64 ∧
      x.full = false ∧
      (p = .ownCell ∨ ((p = .mesh ∨ p = .seam) ∧ (∀ l ∈ linksTo src n, l ∉ s.heldLinks) ∧ (x.credit = true → x.credits ≠ 0))) :=
  ⟨regionUp (fun r => { r with producer := .seam, sizeM1 := 1, lines := [lineAt 1] }), 5, 2, .seam, none, lineOf 2, _, _,
    rfl,
    rfl,
    by decide +kernel,
    by decide +kernel,
    by decide +kernel,
    by decide +kernel,
    .inr (by decide +kernel)⟩

theorem meets_RegionRules_2 :
    ∃ (s : State) (n : CellId) (r : RegionId) (p : Producer) (src : Option CellId) (line : Bytes) (c : Cell) (x : Region),
      s.cells[n.val] = c ∧
      c.regions[r.val] = x ∧
      (p = .mesh ∨ p = .seam) ∧
      x.producer = p ∧
      x.held = none ∧
      line.length = 64 ∧
      x.full = true ∧
      x.credit = false ∧
      (∀ l ∈ linksTo src n, l ∉ s.heldLinks) :=
  ⟨regionUp (fun r => { r with producer := .mesh, sizeM1 := 0, lines := [lineAt 1] }), 5, 2, .mesh, some 4, lineOf 2, _, _,
    rfl,
    rfl,
    by decide +kernel⟩

/-- Engine 1 of that cell, as `f` leaves it, over a region of eight lines that it produces. -/
def engineUp (f : Updraft → Updraft) : State :=
  cellUp (fun c => setRegion (fun r => { r with producer := .updraft1, sizeM1 := 7 })
    { c with upd := c.upd.set 1 (f c.upd[1]) })

theorem meets_RegionRules_3 :
    ∃ (s : State) (n : CellId) (r : RegionId) (e : EngineId) (src : Option CellId) (line : Bytes) (x : Flight) (xs : List Flight),
      s.hbmUp = true ∧
      s.hbm.side = [] ∧
      (s.cells[n.val].upd[e.val]).flight = x :: xs ∧
      x.region = r :=
  ⟨engineUp (fun u => { u with flight := [⟨0x10000, 2, 2, .plain, 3⟩] }), 5, 2, 1, none, [], ⟨0x10000, 2, 2, .plain, 3⟩, [],
    by decide +kernel⟩

theorem meets_RegionRules_4 :
    ∃ (s : State) (n : CellId) (r : RegionId) (u : Upset) (line : RLine) (rest : List RLine) (c : Cell),
      s.cells[n.val] = c ∧
      (c.regions[r.val]).lines = line :: rest ∧
      (c.regions[r.val]).usable c.step 0 = true ∧
      s.linePassed n line = true ∧
      (c.checkAt (r, 0) u).2.2 = none :=
  ⟨regionUp (fun r => { r with arrived := 1, waited := some 1, lines := [lineAt 1] }), 5, 2, ⟨[], []⟩, lineAt 1, [], _,
    rfl,
    by decide +kernel⟩

theorem meets_RegionRules_5 :
    ∃ (s : State) (n : CellId) (r : RegionId) (t : Nat) (h : HeldLine) (c : Cell),
      s.tb.time = t ∧
      s.cells[n.val] = c ∧
      (c.regions[r.val]).held = some h ∧
      (c.regions[r.val]).full = false :=
  ⟨regionUp (fun r => { r with producer := .mesh, held := some ⟨lineOf 2, 999000, some 4⟩ }), 5, 2, 1000000, ⟨lineOf 2, 999000, some 4⟩, _,
    by decide +kernel,
    rfl,
    by decide +kernel⟩

theorem meets_RegionRules_6 :
    ∃ (s : State) (n : CellId) (r : RegionId) (k t : Nat) (c : Cell),
      s.tb.time = t ∧
      s.cells[n.val] = c ∧
      (c.waitRegion = none ∨ c.waitRegion = some r) :=
  ⟨cellUp (fun c => setRegion (fun r => { r with arrived := 9 }) { c with waitRegion := some 2 }), 5, 2, 9, 1000000, _,
    by decide +kernel,
    rfl,
    by decide +kernel⟩

theorem meets_UpdraftRules_1 :
    ∃ (s : State) (n : CellId) (e : EngineId) (x : FetchEntry) (runs : List (Nat × Nat)) (c : Cell),
      s.cells[n.val] = c ∧
      (c.upd[e.val]).list[(c.upd[e.val]).pos]? = some x ∧
      (c.upd[e.val]).halted = none ∧
      c.trapped = false ∧
      (c.regions[x.region.val]).producer = engineOf e ∧
      s.fetchRuns (s.work n) x = some runs :=
  ⟨engineUp (fun u => { u with cur := [⟨0, 8, 2, .plain, none⟩] }), 5, 1, ⟨0, 8, 2, .plain, none⟩, [(0, 8)], _,
    rfl,
    by decide +kernel⟩

theorem meets_UpdraftRules_2 :
    ∃ (s : State) (n : CellId) (e : EngineId),
      (s.cells[n.val].upd[e.val]).ahead = false ∧
      (s.cells[n.val].upd[e.val]).halted = none ∧
      (s.cells[n.val].upd[e.val]).done = true ∧
      (s.cells[n.val].upd[e.val]).next.isSome = true :=
  ⟨engineUp (fun u => { u with next := some [⟨0, 8, 2, .plain, none⟩] }), 5, 1,
    by decide +kernel⟩

/-- Job 7 with its step running, and a write held in region 2 of its cell for one tick more than STALL_LIMIT. -/
def stalled : State :=
  later 2048577 (regionUp (fun r => { r with held := some ⟨lineOf 2, 1000000, none⟩ }))

theorem meets_CellFaults_1 :
    ∃ (s : State) (n : CellId) (r : RegionId) (t h : Nat) (w : HeldLine) (j : Job) (x : Step),
      s.tb.time = t ∧
      s.cells[n.val].regions[r.val].held = some w ∧
      s.cfg.stallLimit < t - w.since ∧
      s.cells[n.val].job = some h ∧
      s.job h = some j ∧
      j.step = some x ∧
      x.phase ≠ .killed ∧
      x.kills < 2 :=
  ⟨stalled, 5, 2, 2048577, 7, ⟨lineOf 2, 1000000, none⟩, jobW, step1,
    by decide +kernel⟩

theorem meets_CellFaults_2 :
    ∃ (s : State) (n : CellId) (off syn t : Nat),
      s.tb.time = t ∧
      s.cells[n.val].job.isSome = true ∧
      s.cells[n.val].base ≠ .off ∧
      s.cells[n.val].trapped = false ∧
      n.val ∉ s.fenced :=
  ⟨cellUp id, 5, 12, 3, 1000000,
    by decide +kernel⟩

theorem meets_CellFaults_3 :
    ∃ (s : State) (n : CellId) (h st : Nat) (j : Job),
      s.cells[n.val].trapped = true ∧
      s.cells[n.val].job = some h ∧
      s.cells[n.val].stage = some st ∧
      s.job h = some j ∧
      j.prog = .installed ∧
      j.layout.pending = none ∧
      s.generating = false :=
  ⟨cellUp (fun c => { c with trapped := true }), 5, 7, 0, jobW,
    by decide +kernel⟩

theorem meets_CellFaults_4 :
    ∃ (s : State) (c entry : Nat) (n : CellId),
      16 ≤ c ∧
      c < 32 ∧
      s.haltedDma.any (fun x => x.1 == c) = false ∧
      c ∉ s.fencedDma :=
  ⟨up, 16, 7, 5,
    by decide +kernel⟩

theorem meets_CellFaults_5 :
    ∃ (s : State) (e : EngineId) (entry : Nat) (n : CellId),
      (s.cells[n.val].upd[e.val]).halted = none ∧
      n.val ∉ s.fenced :=
  ⟨cellUp id, 1, 3, 5,
    by decide +kernel⟩

theorem meets_CellFaults_6 :
    ∃ (s : State) (c : Nat) (n : CellId) (pass : Bool),
      16 ≤ c ∧
      c < 32 ∧
      s.haltedDma.any (fun x => x.1 == c) = true :=
  ⟨{ up with haltedDma := [(31, 4)] }, 31, 0, false,
    by decide +kernel⟩

theorem meets_CellFaults_7 :
    ∃ (s : State) (e : EngineId) (n : CellId) (entry : Nat) (pass : Bool),
      (s.cells[n.val].upd[e.val]).halted = some entry ∧
      n.val ∉ s.fenced :=
  ⟨engineUp (fun u => { u with halted := some 3 }), 1, 5, 3, false,
    by decide +kernel⟩

theorem meets_CellFaults_8 :
    ∃ (s : State) (n : CellId) (r : RegionId) (u : Upset) (line : RLine) (rest : List RLine) (c : Cell) (h a : Nat) (j : Job) (x : Step),
      s.cells[n.val] = c ∧
      (c.regions[r.val]).lines = line :: rest ∧
      (c.regions[r.val]).usable c.step 0 = true ∧
      s.linePassed n line = true ∧
      (c.checkAt (r, 0) u).2.2 = some a ∧
      c.job = some h ∧
      s.job h = some j ∧
      j.step = some x ∧
      x.phase ≠ .killed ∧
      x.kills < 2 :=
  ⟨regionUp (fun r => { r with arrived := 1, waited := some 1, lines := [lineAt 1] }), 5, 2, ⟨[(0, 1)], []⟩, lineAt 1, [], _, 7, 0, jobW, step1,
    rfl,
    by decide +kernel⟩

theorem meets_CellFaults_9 :
    ∃ (s : State) (n : CellId) (l : LaneGroup) (tile : TileId) (side : SideIn) (err : AccUpset) (w : Work) (g : Group) (k : ChunkTag) (y : Partial) (b : Block),
      s.cells[n.val].works = true ∧
      s.work n = some w ∧
      s.cells[n.val].group tile = some g ∧
      g.due l = some (k, y) ∧
      s.chunkBlock w g k = some b ∧
      checkAcc err.mask = none ∧
      w.step.kills < 2 :=
  ⟨cellUp (fun c => { c with groups := [waiting1] }), 5, 2, 3, ⟨none⟩, ⟨0, 3⟩, work1, waiting1, chunk1, partial1, block1,
    by decide +kernel⟩

theorem meets_CellFaults_10 :
    ∃ (s : State) (n : CellId) (w : Work) (g : Group) (gs : List Group) (err : AccUpset),
      s.cells[n.val].works = true ∧
      s.work n = some w ∧
      s.cells[n.val].groups = g :: gs ∧
      g.closed = true ∧
      g.tag.tree = false ∧
      s.outBase w g ≠ none ∧
      checkAcc err.mask = none ∧
      w.step.kills < 2 :=
  ⟨cellUp (fun c => { c with groups := [closed1] }), 5, work1, closed1, [], ⟨255, 3⟩,
    by decide +kernel⟩

theorem meets_CellFaults_11 :
    ∃ (s : State) (die : Fin 2) (stage : Nat) (tile : TileId) (n : CellId) (x : AccRead) (w : Work) (k : GroupKey) (r : Reduction) (err : AccUpset),
      s.stageWork stage = some w ∧
      s.closedOn w.stage die.val tile = some k ∧
      s.dieReduction w die tile k = some r ∧
      hasRed r (s.contexts[die.val] ++ s.waitingReds[die.val]) = false ∧
      (∀ y ∈ s.moduleSums, y.key ≠ k) ∧
      s.leafUpset w.stage die.val k n x = some err ∧
      checkAcc err.mask = none ∧
      w.step.kills < 2 :=
  ⟨reduceUp 2, 0, 0, 3, 5, ⟨4, some ⟨255, 3⟩⟩, work2, leafKey, ((reduceUp 2).dieReduction work2 0 3 leafKey).get (by decide +kernel), ⟨255, 3⟩,
    by decide +kernel,
    by decide +kernel,
    (Option.some_get _).symm,
    by decide +kernel⟩

theorem meets_CellFaults_12 :
    ∃ (s : State) (n : CellId) (l : LaneGroup) (x : PlaneIn) (w : Work) (g : Group) (k : ChunkTag) (b : Block) (q : Cell × Nat × Option Nat) (off : Nat),
      s.cells[n.val].works = true ∧
      s.work n = some w ∧
      s.cells[n.val].group x.tile = some g ∧
      g.takes l x.pos = some k ∧
      s.chunkBlock w g k = some b ∧
      q = s.cells[n.val].checkAll (s.cells[n.val].upsetLines b x) ∧
      q.2.2 = none ∧
      q.1.planeOut w g k b l x = some (.fault off) ∧
      w.step.kills < 2 ∧
      blockOk b.fmt (s.blockBytes b) = true :=
  ⟨planeUp (zeros 576), 5, 2, plane1, work1, group1, chunk1, block1, ((planeUp (zeros 576)).cells[5], 0, none), 0,
    by decide +kernel⟩

theorem meets_UnitsCompute_1 :
    ∃ (s : State) (n : CellId) (x : LogIn) (a b : Nat),
      s.cells[n.val].works = true ∧
      x.first = true ∧
      x.rows = [a] ∧
      x.cols = [b] :=
  ⟨cellUp id, 5, ⟨[0], [0x4000], 20, true⟩, 0, 0x4000,
    by decide +kernel⟩

theorem meets_UnitsCompute_2 :
    ∃ (s : State) (n : CellId) (op : VectorOp) (a b : List Int),
      s.cells[n.val].works = true :=
  ⟨cellUp id, 5, .product, [0x4000], [0x4000],
    by decide +kernel⟩

theorem meets_UnitsDivideEvenly_1 :
    ∃ (U n : Nat),
      1 ≤ n :=
  ⟨2, 3,
    by decide +kernel⟩

/-- Each part of UnitsDivideEvenly at a boundary: a unit of the last rank, two ranks, and fewer units than ranks. -/
theorem meets_UnitsDivideEvenly_parts :
    ∃ U n u r r' : Nat, 1 ≤ n ∧ u < U ∧ r < n ∧ r' < n ∧ U < n ∧ r = u * n / U :=
  ⟨2, 3, 1, 1, 2, by decide, by decide, by decide, by decide, by decide, by decide⟩

/-! ## Memory -/

/-- The last word of stack 0, in partition 0's bulk window: class S. -/
abbrev lastWord : Nat := stackBytes - 32

theorem meets_HbmReads_1 :
    ∃ (s : State) (who : Agent) (a n : Nat),
      s.hbmUp = true ∧
      s.hbm.side = [] ∧
      a + n ≤ memEnd :=
  ⟨up, .hubDma, memEnd - 512, 512,
    by decide +kernel⟩

theorem meets_HbmReads_2 :
    ∃ (s : State) (who : Agent) (a : Nat),
      s.hbmUp = true ∧
      s.hbm.side = [] ∧
      s.takesNarrow who a none = true ∧
      a % 32 = 0 ∧
      a + 32 ≤ memEnd ∧
      s.narrowUnit a = true :=
  ⟨up, .pageManager, lastWord,
    by decide +kernel,
    by decide +kernel,
    by decide +kernel,
    by decide +kernel,
    by decide +kernel,
    by decide +kernel⟩

theorem meets_HbmReads_3 :
    ∃ (s : State) (who : Agent) (a n : Nat) (d : Disturb),
      s.hbmUp = true ∧
      s.active = none ∧
      memEnd < a + n :=
  ⟨up, .cell, memEnd - 31, 32, ⟨[], []⟩,
    by decide +kernel⟩

theorem meets_HbmReads_4 :
    ∃ (s : State) (who : Agent) (a : Nat) (write : Option Bytes) (d : Disturb),
      s.hbmUp = true ∧
      s.active = none ∧
      s.takesNarrow who a write = true ∧
      a % 32 = 0 ∧
      a < memEnd ∧
      s.narrowUnit a = false :=
  ⟨up, .updraft 1, 0, none, ⟨[], []⟩,
    by decide +kernel⟩

theorem meets_HbmReads_5 :
    ∃ (s : State) (a : Nat) (ty : AddType) (mask : Nat) (ops : Bytes) (d : Disturb),
      s.hbmUp = true ∧
      s.active = none ∧
      a % 32 = 0 ∧
      a < memEnd ∧
      s.narrowUnit a = false :=
  ⟨up, 0, .int48, 3, zeros 32, ⟨[], []⟩,
    by decide +kernel⟩

theorem meets_HbmWrites_1 :
    ∃ (s : State) (who : Agent) (b : Nat) (bs : Bytes) (d : Disturb),
      s.memoryWf ∧
      s.hbmUp = true ∧
      bs.length = 32 ∧
      32 * b + 32 ≤ memEnd ∧
      s.classAt (32 * b) = .s :=
  ⟨up, .controlCore, 0x47FFFFFF, List.replicate 32 0xFF, ⟨[(stackBytes - 1, 1)], []⟩,
    ⟨by decide +kernel, by decide +kernel⟩,
    by decide +kernel⟩

/-- A module with one W unit on every stack. -/
def withW : State := { held job1 with hbm := { (held job1).hbm with wStripes := 1 } }

theorem meets_HbmWrites_2 :
    ∃ (s : State) (who : Agent) (a : Nat) (bs : Bytes),
      s.memoryWf ∧
      s.hbmUp = true ∧
      s.hbm.side = [] ∧
      (who = .hubDma ∨ who = .controlCore) ∧
      1 ≤ bs.length ∧
      a / 256 = (a + bs.length - 1) / 256 ∧
      a + bs.length ≤ memEnd ∧
      s.classAt a = .w ∧
      isParityUnit (a / stackBytes) (a % stackBytes / 65536) = false :=
  ⟨withW, .hubDma, stackBytes + 768, List.replicate 256 0xFF,
    ⟨by decide +kernel, by decide +kernel⟩,
    by decide +kernel⟩

theorem meets_AddsWrap_1 :
    ∃ (s : State) (a : Nat) (ty : AddType) (mask w : Nat) (ops : Bytes),
      s.memoryWf ∧
      s.hbmUp = true ∧
      s.hbm.side = [] ∧
      (ty = .int32 ∧ w = 32 ∨ ty = .int48 ∧ w = 48) ∧
      (∀ x ∈ s.hbm.mixed, x.2 = false) ∧
      a % 32 = 0 ∧
      a < memEnd ∧
      s.narrowUnit a = true ∧
      ops.length = 32 :=
  ⟨up, lastWord, .int48, 0x0F, 48, List.replicate 32 0xFF,
    ⟨by decide +kernel, by decide +kernel⟩,
    by decide +kernel⟩

theorem meets_AddsWrap_2 :
    ∃ (s : State) (a : Nat) (ty : AddType) (xs ys : List (Nat × Bytes)),
      s.memoryWf ∧
      s.hbm.side = [] ∧
      (ty = .int32 ∨ ty = .int48) ∧
      (∀ x ∈ s.hbm.mixed, x.2 = false) ∧
      a % 32 = 0 ∧
      a < memEnd ∧
      s.narrowUnit a = true ∧
      (∀ x ∈ xs, x.2.length = 32) ∧
      xs.Perm ys :=
  ⟨up, lastWord, .int32, [(1, zeros 32), (0x80, List.replicate 32 0xFF)], [(0x80, List.replicate 32 0xFF), (1, zeros 32)],
    ⟨by decide +kernel, by decide +kernel⟩,
    by decide +kernel⟩

theorem meets_RebuildsRestore_1 :
    ∃ (s : State) (stripe : Nat) (stack : StackId) (line a : Nat),
      s.memoryWf ∧
      s.hbmUp = true ∧
      stripe < s.hbm.wStripes ∧
      stripe < stackUnits ∧
      line < 256 ∧
      a = stack.val * stackBytes + stripe * 65536 + line * 256 ∧
      s.hbm.rebuildable a = true :=
  ⟨withW, 0, 1, 255, stackBytes + 65280,
    ⟨by decide +kernel, by decide +kernel⟩,
    by decide +kernel⟩

def block0 : Block := ⟨5, 0, 0, .sparse, 9, 0, .rebuilding⟩

def rebuilding (s : State) : State := { s with blocks := [block0] }

def replaceCmd : Cmd := ⟨0, 0, 0x11, 0, 7, 999000, [], false, [], [⟨5, 0, 0, .sparse, 9, 0x20000, .clean⟩], [], []⟩

theorem meets_RebuildsRestore_2 :
    ∃ (s : State) (g : Graph) (b : Block) (desc entry : Nat),
      s.hbmUp = true ∧
      s.blocks.find? (fun b => b.gref == g.gref && b.desc == desc && b.entry == entry) = some b ∧
      s.graph g.gref = some g ∧
      b.poison ≠ .clean ∧
      s.hbm.badLines b.addr b.bytes = [] ∧
      s.replacing b = false :=
  ⟨rebuilding (held job1), tinyGraph, block0, 0, 0,
    by decide +kernel,
    by decide +kernel,
    by decide +kernel,
    by decide +kernel,
    by decide +kernel,
    by decide +kernel⟩

theorem meets_RebuildsRestore_3 :
    ∃ (s : State) (g : Graph) (b : Block) (desc entry : Nat),
      s.hbmUp = true ∧
      s.blocks.find? (fun b => b.gref == g.gref && b.desc == desc && b.entry == entry) = some b ∧
      s.graph g.gref = some g ∧
      b.poison = .rebuilding ∧
      s.hbm.badLines b.addr b.bytes = [] ∧
      s.replacing b = true ∧
      s.activeUses b.gref = true :=
  ⟨{ rebuilding (serving job1) with cmds := [replaceCmd] }, tinyGraph, block0, 0, 0,
    by decide +kernel⟩

theorem meets_RebuildsRestore_4 :
    ∃ (s : State) (pc : PseudoChannel) (t n : Nat),
      s.tb.time = t ∧
      s.scrubDue pc.val = true ∧
      s.hbm.side = [] ∧
      nextLine (s.scrubRuns (pc.val / 32)) (lookupD 0 pc.val s.hbm.scrub) = some n :=
  ⟨later 2800000 up, 383, 2800000, 8 * up.bulkFloor,
    by decide +kernel⟩

/-- The generator of channel 17 over free units of stack 1. -/
def gen1 : Gen := { Gen.reset with pattern := 3, pcMask := 3, loops := 1, first := 10, last := 11, seed := 5 }

def genUp (g : Gen) : State := { up with hbm := { up.hbm with gens := [(17, g)] } }

theorem meets_GeneratorsRun_1 :
    ∃ (s : State) (c : ChannelId) (g : Gen),
      s.memoryWf ∧
      s.hbm.gen c.val = g ∧
      g.status ≠ 1 ∧
      s.ready = true ∧
      s.hbm.selfRefresh = false ∧
      g.valid = true ∧
      s.unitsFree (c.val / 16) g.first.toNat g.last.toNat = true :=
  ⟨genUp gen1, 17, gen1,
    ⟨by decide +kernel, by decide +kernel⟩,
    by decide +kernel⟩

theorem meets_GeneratorsRun_2 :
    ∃ (s : State) (c : ChannelId),
      (s.hbm.gen c.val).status ≠ 1 ∧
      s.ready = true ∧
      s.hbm.selfRefresh = false ∧
      (s.hbm.gen c.val).valid = false :=
  ⟨genUp { gen1 with last := 9 }, 17,
    by decide +kernel⟩

theorem meets_GeneratorsRun_3 :
    ∃ (s : State) (c : ChannelId),
      (s.hbm.gen c.val).status = 1 :=
  ⟨genUp { gen1 with status := 1, loops := 0 }, 17,
    by decide +kernel⟩

theorem meets_GeneratorsRun_4 :
    ∃ (s : State) (c : ChannelId) (g : Gen) (r : GenRun) (bursts errors firstFail : Nat) (dqFail : BitVec 64) (sideFail : BitVec 8) (y : GenFound),
      s.hbm.gen c.val = g ∧
      g.status = 1 ∧
      g.run = some r ∧
      (r.loops ≠ 0 ∨ g.stopping = true) ∧
      y = s.hbm.found r c.val g.stopping ⟨bursts, errors, firstFail, dqFail, sideFail⟩ :=
  ⟨genUp { gen1 with status := 1, run := some gen1.toRun }, 17, { gen1 with status := 1, run := some gen1.toRun }, gen1.toRun, 704, 1, 10, 4, 0, _,
    by decide +kernel,
    by decide +kernel,
    by decide +kernel,
    by decide +kernel,
    rfl⟩

/-! ## Time, power and boot -/

/-- The timebase as `f` leaves it. -/
def clock (f : Timebase → Timebase) : State := { up with tb := f { up.tb with refPresent := true } }

theorem meets_TimeAndPlace_1 :
    ∃ (s : State) (t : Nat),
      s.tb.time = t ∧
      s.tb.running = true ∧
      s.tb.refPresent = true ∧
      s.tb.state = .armed ∧
      t ≤ s.tb.seed.toNat :=
  ⟨clock (fun b => { b with state := .armed, seed := 1000000 }), 1000000,
    by decide +kernel⟩

theorem meets_TimeAndPlace_2 :
    ∃ (s : State) (t : Nat) (d : Int),
      s.tb.time = t ∧
      s.tb.running = true ∧
      s.tb.refPresent = true ∧
      s.tb.state = .synced ∧
      d = markerOffset t :=
  ⟨clock (fun b => { b with state := .synced }), 1000000, markerOffset 1000000,
    by decide +kernel⟩

theorem meets_TimeAndPlace_3 :
    ∃ (s : State) (t : Nat),
      s.tb.time = t ∧
      s.tb.running = true :=
  ⟨clock id, 1000000,
    by decide +kernel⟩

theorem meets_TimeAndPlace_4 :
    ∃ (s : State) (t : Nat) (swingMv ppm : Int),
      s.tb.time = t ∧
      s.tb.running = true ∧
      s.tb.state = .synced :=
  ⟨clock (fun b => { b with state := .synced }), 1000000, 800, 101,
    by decide +kernel⟩

theorem meets_TimeAndPlace_5 :
    ∃ (s : State),
      s.powerAnswers = true :=
  ⟨up,
    by decide +kernel⟩

theorem meets_TimeAndPlace_6 :
    ∃ (s : State) (v : Byte),
      v ≠ 0x5A :=
  ⟨up, 0xA5,
    by decide +kernel⟩

theorem meets_TimeAndPlace_7 :
    ∃ (s : State),
      s.powerAnswers = true :=
  ⟨up,
    by decide +kernel⟩

theorem meets_TimeAndPlace_8 :
    ∃ (s : State),
      s.powerAnswers = true :=
  ⟨up,
    by decide +kernel⟩

theorem meets_TimeAndPlace_9 :
    ∃ (s : State) (v : Byte),
      v ≠ 0xA5 :=
  ⟨up, 0x5A,
    by decide +kernel⟩

def noReq : PowReq := ⟨0, 0, 0, false, 0, false⟩

/-- The power controller as `f` leaves it. -/
def powered (f : Power → Power) : State := { held job1 with power := f (held job1).power }

theorem meets_PowerRules_1 :
    ∃ (s : State) (r : PowReq) (t : Nat),
      s.tb.time = t ∧
      s.powerAnswers = true ∧
      s.power.go = false ∧
      r.reservedNonzero = false ∧
      r.atTime ≤ t ∧
      s.active = none ∧
      s.power.entering = false ∧
      s.power.state = .active ∧
      s.generating = false :=
  ⟨powered id, { noReq with atTime := 1000000 }, 1000000,
    by decide +kernel⟩

theorem meets_PowerRules_2 :
    ∃ (s : State) (r : PowReq) (t : Nat),
      s.tb.time = t ∧
      s.powerAnswers = true ∧
      s.power.go = false ∧
      r.reservedNonzero = false ∧
      r.atTime ≤ t ∧
      s.active = none ∧
      s.power.entering = false ∧
      s.power.state = .lull :=
  ⟨powered (fun q => { q with state := .lull }), noReq, 1000000,
    by decide +kernel⟩

theorem meets_PowerRules_3 :
    ∃ (s : State) (r : PowReq) (t : Nat),
      s.tb.time = t ∧
      s.powerAnswers = true ∧
      s.power.go = false ∧
      r.reservedNonzero = false ∧
      r.atTime ≤ t ∧
      s.active = none ∧
      s.power.entering = false ∧
      (s.power.state = .active ∨ s.power.state = .lull) ∧
      s.generating = false :=
  ⟨powered (fun q => { q with state := .lull }), noReq, 1000000,
    by decide +kernel⟩

theorem meets_PowerRules_4 :
    ∃ (s : State),
      s.power.state = .calm ∧
      s.power.entering = true ∧
      s.power.wakeAsked = false :=
  ⟨powered (fun q => { q with state := .calm, entering := true }),
    by decide +kernel⟩

theorem meets_PowerRules_5 :
    ∃ (s : State),
      s.power.waking = true ∧
      s.hbm.selfRefresh = true ∧
      s.active = none :=
  ⟨{ powered (fun q => { q with state := .calm, waking := true }) with hbm := { up.hbm with selfRefresh := true } },
    by decide +kernel⟩

theorem meets_PowerRules_6 :
    ∃ (s : State) (t h : Nat) (j : Job),
      s.active = some h ∧
      s.job h = some j ∧
      j.prog = .streaming :=
  ⟨serving { job1 with prog := .streaming }, 1000000, 7, { job1 with prog := .streaming },
    by decide +kernel⟩

theorem meets_PowerRules_7 :
    ∃ (s : State) (watts t : Nat) (tj : Int),
      s.tb.time = t ∧
      s.ready = true ∧
      s.power.state = .active ∧
      550 ≤ s.power.coreMv.toNat ∧
      s.power.coreMv.toNat ≤ 700 :=
  ⟨powered (fun q => { q with coreMv := 550 }), 2001, 1000000, 801,
    by decide +kernel⟩

theorem meets_PowerRules_8 :
    ∃ (s : State) (v : Sensors) (t : Nat),
      s.tb.time = t ∧
      s.board.statusOn = true :=
  ⟨up, ⟨1200, 1500, 550, 500, 300, 400⟩, 1000000,
    by decide +kernel⟩

def resetReq : PowReq := { noReq with key := 0x5254, cell := 5 }

theorem meets_ResetsClear_1 :
    ∃ (s : State) (r : PowReq) (t : Nat) (p : PartId),
      s.memoryWf ∧
      s.hbm.side = [] ∧
      s.tb.time = t ∧
      s.ready = true ∧
      s.power.go = false ∧
      r.reservedNonzero = false ∧
      r.key = 0x5254 ∧
      r.partition = p.val ∧
      s.enabled p = true ∧
      r.atTime ≤ t :=
  ⟨held job1, resetReq, 1000000, 0,
    ⟨by decide +kernel, by decide +kernel⟩,
    by decide +kernel⟩

theorem meets_ResetsClear_2 :
    ∃ (s : State) (r : PowReq) (t : Nat) (n : CellId),
      s.tb.time = t ∧
      s.ready = true ∧
      s.power.go = false ∧
      r.reservedNonzero = false ∧
      r.key = 0x5254 ∧
      r.cell = n.val ∧
      r.atTime ≤ t ∧
      n.val ∉ s.fenced ∧
      s.power.state ≠ .calm ∧
      s.cells[n.val].job = none ∧
      s.generating = false :=
  ⟨cellUp (fun c => { c with job := none }), resetReq, 1000000, 5,
    by decide +kernel⟩

theorem meets_ResetsClear_3 :
    ∃ (s : State) (r : PowReq) (t h : Nat) (n : CellId) (j : Job) (x : Step),
      s.tb.time = t ∧
      s.ready = true ∧
      s.power.go = false ∧
      r.reservedNonzero = false ∧
      r.key = 0x5254 ∧
      r.cell = n.val ∧
      r.atTime ≤ t ∧
      n.val ∉ s.fenced ∧
      s.power.state ≠ .calm ∧
      s.cells[n.val].job = some h ∧
      s.job h = some j ∧
      j.step = some x ∧
      x.phase ≠ .killed ∧
      x.kills < 2 ∧
      j.layout.pending = none ∧
      s.generating = false :=
  ⟨stalled, resetReq, 2048577, 7, 5, jobW, step1,
    by decide +kernel⟩

theorem meets_ResetsClear_4 :
    ∃ (s : State) (r : PowReq) (t : Nat) (sigs : Sigs) (x : Image),
      s.tb.time = t ∧
      s.ready = true ∧
      s.power.go = false ∧
      s.power.pending = none ∧
      r.reservedNonzero = false ∧
      r.key = 0x5254 ∧
      r.atTime ≤ t ∧
      s.flash.current = some x ∧
      x.stands false = true ∧
      sigsOk sigs = true :=
  ⟨held job1, resetReq, 1000000, ⟨true, true⟩, Image.manufactured false,
    by decide +kernel⟩

def onBoard (f : Board → Board) (s : State) : State := { s with board := f s.board }

def goodBoot : BootIn := ⟨true, [], [], [], true, 0x100⟩

theorem meets_SuppliesAndBoot_1 :
    ∃ (s : State),
      s.board.vin = false :=
  ⟨onBoard (fun b => { b with vin := false, pgood := false, bootStage := 0 }) State.reset,
    by decide +kernel⟩

theorem meets_SuppliesAndBoot_2 :
    ∃ (s : State),
      s.board.vin = true :=
  ⟨held job1,
    by decide +kernel⟩

theorem meets_SuppliesAndBoot_3 :
    ∃ (s : State),
      s.board.aux = false :=
  ⟨onBoard (fun b => { b with aux := false }) up,
    by decide +kernel⟩

theorem meets_SuppliesAndBoot_5 :
    ∃ (s : State),
      s.board.resetLow = false ∧
      s.board.vin = true :=
  ⟨held job1,
    by decide +kernel⟩

theorem meets_SuppliesAndBoot_6 :
    ∃ (s : State) (sa : Fin 8) (b : BootIn) (first x : Image),
      s.board.resetLow = true ∧
      s.board.vin = true ∧
      s.flash.failedBoots < 3 ∧
      b.pufOk = true ∧
      s.flash.firstStage = some first ∧
      hubMemoryBad b.selfTest = false ∧
      sigsOk s.flash.owner.sigs = true ∧
      s.flash.configStands s.flash.config = true ∧
      s.flash.inSlot s.flash.chosen = some x ∧
      x.stands false = true ∧
      s.flash.config.minFw ≤ x.manifest.version ∧
      b.reachesReady = true :=
  ⟨State.reset, 7, goodBoot, Image.manufactured true, Image.manufactured false,
    by decide +kernel⟩

theorem meets_SuppliesAndBoot_7 :
    ∃ (s : State) (sa : Fin 8) (b : BootIn),
      s.board.resetLow = true ∧
      s.board.vin = true :=
  ⟨State.reset, 0, goodBoot,
    by decide +kernel⟩

theorem meets_SuppliesAndBoot_8 :
    ∃ (s : State) (b : BootIn),
      s.board.bootStage = 3 ∧
      2 ≤ s.flash.failedBoots :=
  ⟨onBoard (fun b => { b with bootStage := 3 }) { up with flash := { up.flash with failedBoots := 2 } }, goodBoot,
    by decide +kernel⟩

theorem meets_SuppliesAndBoot_9 :
    ∃ (s : State) (cause : TripCause),
      s.board.vin = true ∧
      s.board.pgood = true :=
  ⟨held job1, .coolant,
    by decide +kernel⟩

theorem meets_TapRules_5 :
    ∃ (s : State) (x : Instr × TapIr),
      x ∈ [(Instr.tapExtest, TapIr.extest), (.tapClamp, .clamp), (.tapHighz, .highz)] :=
  ⟨up, (.tapClamp, .clamp),
    by decide⟩

theorem meets_SidebandRules_1 :
    ∃ (s : State) (static dyn : Nat),
      s.board.statusOn = true ∧
      s.board.i3cStatus = none :=
  ⟨up, 0x30, 8,
    by decide +kernel⟩

theorem meets_SidebandRules_2 :
    ∃ (s : State) (dyn : Nat),
      s.board.mctpOn = true ∧
      s.board.i3cMctp = none :=
  ⟨up, 9,
    by decide +kernel⟩

theorem meets_SidebandRules_3 :
    ∃ (s : State),
      s.board.statusOn = true ∧
      s.powerAnswers = true ∧
      coordValid s.coord.staged = true ∧
      s.coord.staged &&& BitVec.ofNat 256 coordMask = s.coord.staged ∧
      s.jobs = [] :=
  ⟨{ up with coord := { up.coord with staged := (placed up).coord.live } },
    by decide +kernel⟩

theorem meets_SidebandRules_4 :
    ∃ (s : State) (data : Bytes),
      s.board.statusOn = true ∧
      s.powerAnswers = true ∧
      data.length = 8 :=
  ⟨up, leBytes 8 2000000,
    by decide +kernel⟩

theorem meets_SidebandRules_5 :
    ∃ (s : State) (off : Nat) (data : Bytes),
      s.board.statusOn = false :=
  ⟨onBoard (fun b => { b with aux := false, vin := false }) up, 0x120, [0xA5],
    by decide +kernel⟩

theorem meets_SidebandRules_6 :
    ∃ (s : State) (e : Nat),
      s.board.mctpOn = true ∧
      e < 256 :=
  ⟨up, 255,
    by decide +kernel⟩

/-- A module in recovery mode, its host ports up. -/
def recovering : State := onBoard (fun b => { b with bootStage := 5 }) (linked { State.reset with tb := up.tb })

/-- A configuration block of one partition, laid out as R381 and R334 give it. -/
def blockBytes1 : Bytes :=
  leBytes 4 0x4B4C4243 ++ leBytes 2 1 ++ zeros 2 ++ leBytes 4 2 ++ zeros 52
    ++ ([0x0F, 16, 0, 0] ++ leBytes 4 0x1000 ++ leBytes 4 0x2000 ++ [12, 0] ++ leBytes 2 255 ++ leBytes 4 73728 ++ zeros 12)
    ++ zeros 224 ++ zeros 16608

theorem meets_RecoveryRules_1 :
    ∃ (s : State) (t : Nat),
      s.tb.time = t ∧
      s.recovers = true ∧
      s.net.host[0].up = true :=
  ⟨recovering, 1000000,
    by decide +kernel⟩

theorem meets_RecoveryRules_2 :
    ∃ (s : State) (serial : Nat) (man im : Bytes) (sigs : Sigs) (m : Manifest),
      s.recovers = true ∧
      s.forMe serial = true ∧
      m = manifestOf man sigs :=
  ⟨recovering, 1, [], [], ⟨true, true⟩, manifestOf [] ⟨true, true⟩,
    by decide +kernel,
    by decide +kernel,
    rfl⟩

theorem meets_RecoveryRules_3 :
    ∃ (s : State) (serial n : Nat) (block : Bytes) (sigs : Sigs),
      s.recovers = true ∧
      s.forMe serial = true ∧
      sigsOk s.flash.owner.sigs = true ∧
      s.flash.configStands (configOf block n sigs) = true :=
  ⟨recovering, 0, 0, blockBytes1, ⟨true, true⟩,
    by decide +kernel⟩

theorem meets_RecoveryRules_4 :
    ∃ (s : State) (serial n : Nat) (digest : BitVec 384) (sigs : Sigs),
      s.recovers = true ∧
      s.forMe serial = true ∧
      sigsOk sigs = true ∧
      s.flash.rootOk = true :=
  ⟨recovering, 1, 5, 0, ⟨true, true⟩,
    by decide +kernel⟩

theorem meets_RecoveryRules_6 :
    ∃ (s : State) (serial : Nat) (sa : Fin 8) (b : BootIn),
      s.recovers = true ∧
      s.forMe serial = true :=
  ⟨recovering, 1, 3, goodBoot,
    by decide +kernel⟩

/-! ## Steps of the block -/

def tapNext : State := { up with pending := [.tapReset] }

theorem meets_MemoryStaysCanonical_1 :
    ∃ (s t : State),
      s.memoryWf ∧
      step s = .next t :=
  ⟨tapNext, up,
    ⟨by decide +kernel, by decide +kernel⟩,
    rfl⟩

theorem meets_PlanStaysLocked_1 :
    ∃ (i : Instr) (s t : State),
      bootRow i = false ∧
      exec i s = .next t :=
  ⟨.tapReset, up, up,
    by decide +kernel,
    rfl⟩

theorem meets_QueueMovesOn_1 :
    ∃ (s t : State),
      step s = .next t :=
  ⟨tapNext, up,
    rfl⟩

theorem meets_TimeNeverGoesBack_1 :
    ∃ (i : Instr) (s t : State),
      bootRow i = false ∧
      s.tb.time < 2 ^ 63 ∧
      (∀ n, i = .marker n → n < 2 ^ 63) ∧
      exec i s = .next t :=
  ⟨.marker 4194304, synced up, _,
    by decide +kernel,
    by decide +kernel,
    fun n h => by cases h; decide,
    rfl⟩

theorem meets_TimeNeverGoesBack_2 :
    ∃ (s t : State),
      s.pending = [] ∧
      s.tb.time < 2 ^ 63 ∧
      step s = .next t :=
  ⟨up, later 1000001 up,
    by decide +kernel,
    by decide +kernel,
    rfl⟩

/-! ## Objects with digests -/

/-- A number below 2^(8 n) comes back from its n bytes. -/
theorem leNat_leBytes : ∀ (n x : Nat), x < 256 ^ n → leNat (leBytes n x) = x
  | 0, x, h => by simp at h; simp [leBytes, leNat, h]
  | n + 1, x, h => by
    have h' : x / 256 < 256 ^ n := by
      rw [Nat.div_lt_iff_lt_mul (by decide)]; rw [Nat.pow_succ] at h; exact h
    simp only [leBytes, leNat, leNat_leBytes n _ h', BitVec.toNat_ofNat]
    omega

theorem digest_back (d : BitVec 384) : BitVec.ofNat 384 (leNat (leBytes 48 d.toNat)) = d := by
  rw [leNat_leBytes 48 _ (by have := d.isLt; omega)]; simp

/-- A manifest (R387) of flags `fl`, version 0x01000001 over the manufactured image, with a delta of `dl` bytes. -/
def manifestBytesOf (fl dl base : Nat) (d1 d2 : BitVec 384) : Bytes :=
  leBytes 4 0x464E414D ++ leBytes 2 1 ++ leBytes 2 fl ++ leBytes 4 0x01000001 ++ leBytes 4 base ++ leBytes 4 64
    ++ leBytes 4 dl ++ leBytes 2 1 ++ leBytes 2 1 ++ leBytes 2 1 ++ [0, 0] ++ leBytes 48 d1.toNat ++ leBytes 48 d2.toNat ++ zeros 17248

theorem manifest_base (fl dl base : Nat) (d1 d2 : BitVec 384) (g : Sigs) :
    (manifestOf (manifestBytesOf fl dl base d1 d2) g).baseDigest = d1 :=
  (congrArg (fun b => BitVec.ofNat 384 (leNat b)) (show sub (manifestBytesOf fl dl base d1 d2) 0x20 48 = leBytes 48 d1.toNat from rfl)).trans
    (digest_back d1)

theorem manifest_target (fl dl base : Nat) (d1 d2 : BitVec 384) (g : Sigs) :
    (manifestOf (manifestBytesOf fl dl base d1 d2) g).targetDigest = d2 :=
  (congrArg (fun b => BitVec.ofNat 384 (leNat b)) (show sub (manifestBytesOf fl dl base d1 d2) 0x50 48 = leBytes 48 d2.toNat from rfl)).trans
    (digest_back d2)

/-- The image after the manufactured one: version 0x01000001. -/
def nextBytes : Bytes := imageHeader 0x01000001 1 1 1

/-- A delta of one literal record (R389) that writes it. -/
def delta1 : Bytes := [1, 0, 0, 0] ++ leBytes 4 64 ++ leBytes 8 0 ++ nextBytes

def man1 : Bytes :=
  manifestBytesOf 0 80 0x01000000 (Config.sha384 (Image.manufactured false).bytes) (Config.sha384 nextBytes)

def staged1 : Image := ⟨manifestOf man1 ⟨true, true⟩, nextBytes⟩

theorem stages1 (s : State) (hr : s.fw.running = some (Image.manufactured false)) (hm : s.minFw = 0) :
    s.stageImage man1 delta1 ⟨true, true⟩ = .ok staged1 := by
  have hb : (manifestOf man1 ⟨true, true⟩).baseDigest = _ := manifest_base ..
  have ht : (manifestOf man1 ⟨true, true⟩).targetDigest = _ := manifest_target ..
  have hd : applyDelta (Image.manufactured false).bytes (delta1.length / 8) (manifestOf man1 ⟨true, true⟩).targetBytes delta1
      = some nextBytes := by decide +kernel
  simp only [State.stageImage, hr, hm, hb, ht, hd]
  rw [if_neg (by decide +kernel), if_neg (fun h => h.elim (by decide +kernel) (fun h => h rfl)), if_neg (by decide +kernel),
    if_pos ⟨by decide +kernel, trivial, by decide +kernel⟩]
  rfl

/-- FW_STAGE_DELTA of that delta, in slot 17, under a manifest that the host is to put in slots 18 to 22. -/
def stageBare : State :=
  mailed (slotsOwned (slotIn up 17 delta1) 18 5) 0 0x60 0 (leBytes 4 17 ++ leBytes 4 80 ++ leBytes 4 18)

/-- The same with the manifest there. -/
def stageAsked : State := stageBare.bulkWrite 0 ((stageBare.planRec 0).slotAt 18) man1

theorem man1_length : man1.length = manifestBytes := by decide +kernel

/-- A write of one piece, with no poison about, is one write of memory. -/
theorem bulkWrite_mem (s : State) (p : PartId) (v : Nat) (bs : Bytes) (hs : s.hbm.side = [])
    (hp : piecesOf v bs.length = [(v, bs.length)]) :
    (s.bulkWrite p v bs).hbm.mem = Mem.write s.hbm.mem (s.bulkAddr p v) bs := by
  have h0 : ∀ b, s.hbm.sBad b = false := fun b => by rw [Hbm.sBad, hs]; show sPoison 0 = false; decide
  simp [State.bulkWrite, hp, bulkPut, Hbm.sWrite, h0]

/-- What a slot holds after a write, by its pieces. -/
theorem slotRead_bulkWrite (s : State) (p q : PartId) (v k n : Nat) (bs : Bytes) :
    (s.bulkWrite p v bs).slotRead q k n = (piecesOf ((s.planRec q).slotAt k) n).flatMap
      (fun x => Mem.read (s.bulkWrite p v bs).hbm.mem (s.bulkAddr q x.1) x.2) := rfl

theorem stageAsked_man : stageAsked.slotRead 0 18 manifestBytes = man1 := by
  have hp : piecesOf ((stageBare.planRec 0).slotAt 18) manifestBytes
      = [((stageBare.planRec 0).slotAt 18, manifestBytes)] := by decide +kernel
  have hm : stageAsked.hbm.mem = _ :=
    bulkWrite_mem stageBare 0 ((stageBare.planRec 0).slotAt 18) man1 (by decide +kernel) (by rw [man1_length]; exact hp)
  have hr := Mem.read_write (m := stageBare.hbm.mem) (by decide +kernel) (stageBare.bulkAddr 0 ((stageBare.planRec 0).slotAt 18)) man1
  rw [stageAsked, slotRead_bulkWrite, ← stageAsked, hp, hm, List.flatMap_cons, List.flatMap_nil, List.append_nil, ← man1_length]
  exact hr

theorem stageAsked_wf : stageAsked.memoryWf :=
  State.bulkWrite_memoryWf (s := stageBare) ⟨by decide +kernel, by decide +kernel⟩ 0 _ man1

theorem stageAsked_delta : stageAsked.slotRead 0 17 80 = delta1 := by decide +kernel

theorem meets_DeltasStage_1 :
    ∃ (s : State) (p : PartId) (m : BoxId) (sigs : Sigs) (x : Image),
      Due s p m 0x60 ∧
      (s.asked p m).job = 0 ∧
      12 ≤ (s.asked p m).body.length ∧
      (s.planRec p).moduleCfg = true ∧
      AreasGood s (s.asked p m) ∧
      s.stageImage (s.slotRead p (u32 (s.asked p m).body 8) manifestBytes) (s.slotRead p (u32 (s.asked p m).body 0) (u32 (s.asked p m).body 4)) sigs = .ok x :=
  ⟨stageAsked, 0, 0, ⟨true, true⟩, staged1,
    ⟨by decide +kernel, by decide +kernel, by decide +kernel⟩,
    by decide +kernel,
    by decide +kernel,
    by decide +kernel,
    ⟨by decide +kernel, by decide +kernel⟩,
    by
      have e : stageAsked.stageImage (stageAsked.slotRead 0 18 manifestBytes) (stageAsked.slotRead 0 17 80) ⟨true, true⟩ = .ok staged1 := by
        rw [stageAsked_man, stageAsked_delta]; exact stages1 _ (by decide +kernel) (by decide +kernel)
      exact e⟩

/-- The manifest and the delta of a DELTA message, after its header (R392, R393). -/
def obj1 : Bytes := man1 ++ delta1

def deltaHeader : Bytes := [1, 0, 0, 0] ++ leBytes 4 (manifestBytes + 80) ++ zeros 56

theorem obj1_parts : obj1.take manifestBytes = man1 ∧ obj1.drop manifestBytes = delta1 := by
  rw [← man1_length]; exact ⟨List.take_left, List.drop_left⟩

theorem meets_DeltasStage_3 :
    ∃ (s : State) (peer : Nat) (hdr obj : Bytes) (sigs : Sigs) (x : Image),
      u8 hdr 0 = 1 ∧
      fwHeaderOk hdr obj = true ∧
      (u64 hdr 0x10 = 0 ∨ u64 hdr 0x10 = s.flash.serial.toNat) ∧
      s.stageImage (obj.take manifestBytes) (obj.drop manifestBytes) sigs = .ok x :=
  ⟨up, 9, deltaHeader, obj1, ⟨true, true⟩, staged1,
    by decide +kernel,
    by decide +kernel,
    by decide +kernel,
    by rw [obj1_parts.1, obj1_parts.2]; exact stages1 _ (by decide +kernel) (by decide +kernel)⟩

/-- A first-stage manifest of that image. -/
def manFirst : Bytes := manifestBytesOf 3 0 0 0 (Config.sha384 nextBytes)

theorem meets_RecoveryRules_5 :
    ∃ (s : State) (serial : Nat) (man im : Bytes) (sigs : Sigs),
      s.recovers = true ∧
      s.forMe serial = true ∧
      sigsOk sigs = true ∧
      s.flash.rootOk = true ∧
      manifestFormOk man = true ∧
      (manifestOf man sigs).firstStage = true ∧
      im.length = (manifestOf man sigs).targetBytes ∧
      Config.sha384 im = (manifestOf man sigs).targetDigest :=
  ⟨recovering, 1, manFirst, nextBytes, ⟨true, true⟩,
    by decide +kernel,
    by decide +kernel,
    by decide +kernel,
    by decide +kernel,
    by decide +kernel,
    by decide +kernel,
    by decide +kernel,
    (manifest_target ..).symm⟩

/-- The other side of the image rule of RecoveryRules: a full image that passes every check. -/
theorem meets_RecoveryRules_2_stands :
    ∃ (s : State) (serial : Nat) (man im : Bytes) (sigs : Sigs), s.recovers = true ∧ s.forMe serial = true ∧ sigsOk sigs = true ∧ manifestFormOk man = true
      ∧ (manifestOf man sigs).full = true ∧ (manifestOf man sigs).firstStage = false
      ∧ s.recoveryMinFw ≤ (manifestOf man sigs).version ∧ im.length = (manifestOf man sigs).targetBytes
      ∧ Config.sha384 im = (manifestOf man sigs).targetDigest ∧ headerAgrees (manifestOf man sigs) im = true :=
  ⟨recovering, 1, manifestBytesOf 1 0 0 0 (Config.sha384 nextBytes), nextBytes, ⟨true, true⟩, by decide +kernel, by decide +kernel, by decide +kernel,
    by decide +kernel, by decide +kernel, by decide +kernel, by decide +kernel, by decide +kernel, (manifest_target ..).symm,
    by decide +kernel⟩

/-! ## Values the manual gives -/

/-- The worked Trit5 byte: 0xA7 holds +1, 0, -1, -1, +1 (worked example after R19). -/
theorem test_trit5_byte : tritsOf 0xA7 = some [1, 0, -1, -1, 1] := by decide

/-- The worked dot product of four inputs, plane by plane: 0, +2, +4, -8 (worked example before R51). -/
theorem test_planes_of_four :
    [(0, 0b0111), (1, 0b1100), (2, 0b1111), (3, 0b0001)].map
      (fun p => planeContribution 4 p.1 (planeSum [1, -1, 0, 1] p.2) 1) = [0, 2, 4, -8] := by decide

/-- At width 1 the same row over (+1, -1, +1, -1) adds 1 (worked example before R51). -/
theorem test_plane_width_one : planeContribution 1 0 (planeSum [1, -1, 0, 1] 0b0101) 1 = 1 := by decide

/-- The worked multiplier: M = 315 has the records 0xC0, 0xC2, 0x86, 0x88 (R36). -/
theorem test_digit_records : digitRecords 315 = [0xC0, 0xC2, 0x86, 0x88, 0, 0, 0, 0] := by decide +kernel

/-- The worked requantiser output, half-to-even 46 and stochastic 47 (worked example after R67). -/
theorem test_requantiser :
    digitProduct 1234567 (digitRecords 315) = 388888605 ∧ roundShift 388888605 23 none = 46
      ∧ lfsrValue 0x12345 37 12 300 = 65504 ∧ roundShift 388888605 23 (some 65504) = 47 := by decide +kernel

/-- The worked token scale: R = 2,300 at width 4 derives 0x0B_0005 (worked example after R73). -/
theorem test_token_scale : deriveScale 2300 4 = 0x0B0005 := by decide +kernel

/-- The worked fraction table and aligned product: T[0], T[256], and 741,455 at q = 20 (R33, R58). -/
theorem test_aligned_product :
    fracT 0 = 0x800000 ∧ fracT 256 = 11863283 ∧ alignLog false (lnsLog 0x0100 + lnsLog 0x7E00) 20 = 741455 := by
  decide +kernel

/-- Entries of the function tables of R133 that take no series: 0 and the identity of ReLU. -/
theorem test_functions :
    (fnTable .exp 0x4000).1 = 0x0000 ∧ (fnTable .silu 0x4000).1 = 0x4000 ∧ (fnTable .gelu 0x4000).1 = 0x4000
      ∧ (fnTable .relu 0x0000).1 = 0x0000 ∧ (fnTable .relu 0x8000).1 = 0x4000 := by decide +kernel

/-- The zeros of the cosine table of R210. -/
theorem test_cosines : cosWord 16384 = 0x4000 ∧ cosWord 49152 = 0x4000 := by decide +kernel

/-- A Wisp-5 block of E = 127: code 0xD of value 10 with o(1) = 2 is -1.5, and slot 0x1_3225 puts 200 at index 37 (worked
example after R44). -/
theorem test_wisp5 :
    let b : Bytes := [127, 8, 0] ++ zeros 5 ++ [0x0D] ++ zeros 26 ++ leBytes 5 (0x13225 + 2 ^ 20 * 0x80000)
    (wispDecode .five b)[10]? = some (-3 * 2 ^ (wispBase - 1)) ∧ (wispDecode .five b)[37]? = some (200 * 2 ^ wispBase) := by
  decide +kernel

/-- The worked reduction across two ranks: v of four cells, the value sent, and acc = 64,225,280 (worked example after
R110). -/
theorem test_reduction :
    baseShift 2587 20 (some 45) = 14
      ∧ [41000000, -12345678, 30000001, 5555555].map (fun a => (partialOf a 14).1) = [2502, -754, 1831, 339]
      ∧ sendPartial 2170 2 14 = (1085, 15, 0) ∧ reduceAcc 14 [(1748, 2, 0), (2170, 2, 0)] = (64225280, 0) := by
  decide +kernel

/-- The worked REDUCE record: its header, and lane 40 at bytes 88 and 89 (worked example after R316). -/
theorem test_reduce_record :
    let b := reduceBytes ⟨1, 0, 0x45, 300, 2, 15, 0, List.replicate 40 0 ++ [1085] ++ List.replicate 215 0⟩
    b.length = 520 ∧ b.take 8 = [0x45, 0, 0x2C, 1, 2, 0, 0x0F, 0] ∧ (b.drop 88).take 2 = [0x3D, 0x04] := by
  decide +kernel

/-- The worked capacity: 2 for six tokens over eight experts, and which choices survive (worked example after R189). -/
theorem test_capacity :
    capacity 0x100 6 2 8 = 2 ∧ capacity 0 6144 4 480 = 64
      ∧ ((assignAll 2 (List.replicate 8 0) [[(3, 0), (5, 0)], [(3, 0), (1, 0)], [(3, 0), (5, 0)], [(5, 0), (3, 0)],
          [(1, 0), (6, 0)], [(6, 0), (1, 0)]]).2).map (fun cs => cs.map (·.kept))
        = [[true, true], [true, true], [false, true], [false, false], [true, true], [true, false]] := by decide +kernel

/-- The worked size of a sparse block: two passes and 1,900 entries take 58 lines (worked example after R171). -/
theorem test_sparse_size : sparseBytes 2 1900 = 3712 := by decide

/-- The worked address 0x3A_1234_5600: stack 6, pseudo-channel 214, and its parity line on stack 8 (R250, R251, R270). -/
theorem test_addresses :
    0x3A12345600 / stackBytes = 6 ∧ pcOf 0x3A12345600 = 214 ∧ parityAddr 0x3A12345600 = 0x4C12345600
      ∧ stripeLines 0x3A12345600 = [0x0412345600, 0x0D12345600, 0x1612345600, 0x1F12345600, 0x2812345600, 0x3112345600,
          0x4312345600, 0x4C12345600, 0x5512345600, 0x5E12345600, 0x6712345600].map (· / 256) := by decide +kernel

/-- The worked MAC addresses of rack 0x2A5, slot 17, site 3 (R285). -/
theorem test_macs :
    (⟨0x2A5, 17, 3⟩ : Member).mac 0x06 3 = 0x062A53110003 ∧ (⟨0x2A5, 17, 3⟩ : Member).mac 0x02 0 = 0x022A50110003 := by
  decide +kernel

/-- CRC-32 of the nine digits, as IEEE 802.3 fixes it (R116). -/
theorem test_crc32 : crc32 ((List.range' 0x31 9).map (BitVec.ofNat 8)) = 0xCBF43926 := by decide +kernel

/-- The least graph image of R116 and R124 reads back as its descriptors. -/
theorem test_graph_image :
    (match parseGraph tinyImage with | .ok r => r.2 | .error _ => []) = tinyDescs := by decide +kernel

/-- IDCODE shifts 0x15B7354B out, least significant bit first (R434). -/
theorem test_idcode :
    (match exec .tapIdcode State.reset with
      | .next t => t.out == [.tdo ((List.range 32).map (fun i => (0x15B7354B : Nat).testBit i))]
      | _ => false) = true := by decide +kernel

/-- A boot of the unit as manufactured reaches READY (R380, R426). -/
theorem test_boot :
    (match step { State.reset with pending := [.modResetNRelease true 0 ⟨true, [], [], [], true, 0x100⟩] } with
      | .next t => t.board.bootStage == 4 && t.pending == [] && t.plan == ConfigBlock.manufactured.parts
      | _ => false) = true := by decide +kernel

/-! ## Terms that are not well formed -/

/-- One term for each check of well-formedness: each is refused. -/
theorem test_ill_formed :
    ([.stepBoundary 0 0, .stepBoundary (2 ^ 32) 0, .scheduledInstant (2 ^ 64), .fwMigrationTimeout (2 ^ 64), .stepComplete 0,
      .controlStepDone 1 64 0 0, .controlStepDone 1 0 (2 ^ 32) 0, .controlStepDone 1 0 0 (2 ^ 64), .controlKill 1 0 0 0x10000,
      .controlAbort 1 64, .statsMessage 1 0 0 false ⟨[[2 ^ 32]], [], [], [], [], []⟩, .reduceRecord 1 ⟨0, 0, 0, 0, 0, 64, 0, List.replicate 256 0⟩,
      .reduceRecord 1 ⟨0, 0, 0, 0, 0, 0, 0, []⟩, .reduceRecord 1 ⟨0, 0, 0, 0, 0, 0, 0, List.replicate 256 32768⟩,
      .gatherRecord 1 ⟨0, 0, 0, 0, 0, 0, true, [zeros 40]⟩, .termRecord 1 ⟨0, 0, 0, 0, 0, 2 ^ 24, false, []⟩,
      .fwDeltaMessage 0 [] [] ⟨true, true⟩, .fwStagedReply 0 256 0, .fwStagedReply 0 6 0x10000,
      .fabricDataFrame 0 0 [], .fabricAckFrame 0 0 (zeros 31), .fabricNakFrame 0 0 (zeros 8225),
      .fabGapExpiry ⟨1, 0, 16⟩ 0 0, .fabGapExpiry ⟨1, 0, 0⟩ (2 ^ 32) 0, .fabRtoExpiry ⟨1, 256, 0⟩ 0, .fabricAckDelay ⟨2 ^ 32, 0, 0⟩ 0,
      .lldpTransmit 0 (2 ^ 64), .lldpMiswireTimeout 0 (2 ^ 64), .linkUp (.fabric 0) (2 ^ 64)] : List Instr).all (fun i => !i.wf)
    = true := by decide +kernel

/-- The same for the host ports and the cells. -/
theorem test_ill_formed_ports :
    ([.roceRdmaWrite { pkt .write 0 0 0 [] with qpn := 2 ^ 24 }, .roceRdmaWrite { pkt .write 0 0 0 [] with srcGid := 2 ^ 128 },
      .roceRdmaRead { pkt .read 0 0 0 [] with psn := 2 ^ 24 }, .roceRdmaRead (pkt .read (2 ^ 32) 0 0 []),
      .roceRdmaRead (pkt .read 0 (2 ^ 64) 0 []), .roceRefusedPacket (pkt .write 0 0 (2 ^ 32) []),
      .roceRefusedPacket (pkt .write 0 0 0 (zeros 4097)), .roceCnp 1024 0, .roceRateIncrease 0 (2 ^ 64), .noticeAcknowledge ⟨1024, .ack⟩,
      .noticeAckTimeout 1024 0, .qpRestart 1024 0, .pfcFrame 0 9 0 0, .pfcPauseExpiry 0 (2 ^ 64), .shipStream (2 ^ 32) ⟨[], [], [], false⟩,
      .regionLineWrite 0 0 .mesh none [], .heldWriteRelease 0 0 (2 ^ 64), .arrivalWaitDone 0 0 (2 ^ 32) 0, .flowStall 0 0 (2 ^ 64),
      .regionLineConsume 0 0 ⟨[(64, 1)], []⟩, .regionLineConsume 0 0 ⟨[], [(8, 1)]⟩, .planeStep 0 0 { plane1 with line := 0x10000 },
      .planeStep 0 0 { plane1 with pos := ⟨0, 16, 0, 0, 0⟩ }, .planeStep 0 0 { plane1 with pos := ⟨0, 0, 0, 0, 16⟩ },
      .planeStep 0 0 { plane1 with weightUps := [(0, ⟨[(64, 1)], []⟩)] }, .planeStep 0 0 { plane1 with actUps := [(0, ⟨[], [(8, 1)]⟩)] },
      .partialRetire 0 0 0 ⟨some (0, 0x10000)⟩ none, .partialRetire 0 0 0 ⟨none⟩ (some ⟨4096, 1⟩), .groupOpen 0 0 63 2 open1,
      .groupOpen 0 0 0 0 open1, .groupOpen 0 0 0 1 { open1 with desc := 0x10000 }, .groupOpen 0 0 0 1 { open1 with expert := 1024 },
      .groupOpen 0 0 0 1 { open1 with matrix := 5 }, .groupOpen 0 0 0 1 { open1 with block := 0x10000 },
      .groupOpen 0 0 0 1 { open1 with tile := 512 }, .groupOpen 0 0 0 1 { open1 with windows := [[]] }, .reductionContextStart 0 128 0 0 ⟨0, none⟩,
      .reductionContextStart 0 0 0 0 ⟨0, some ⟨4096, 0⟩⟩, .groupRequantise 0 ⟨0, some ⟨4096, 0⟩⟩,
      .microcodeTrap 0 0x10000 0 0, .channelHalt 2 0 0, .channelPatternDone 32 0 true] : List Instr).all (fun i => !i.wf)
    = true := by decide +kernel

/-- The same for memory, time, power and the board. -/
theorem test_ill_formed_board :
    ([.hbmRead .cell (2 ^ 48) 0 ⟨[], []⟩, .hbmNarrowAccess (.updraft 1) 1 none ⟨[], []⟩, .hbmNarrowAccess (.updraft 1) 0 (some (zeros 33)) ⟨[], []⟩,
      .hbmWrite .cell (2 ^ 48) [] ⟨[], []⟩, .hbmAddRequest 0 .int32 0x10000 (zeros 32) ⟨[], []⟩, .hbmAddRequest 0 .int32 0 [] ⟨[], []⟩,
      .lineRebuild 589824 0 0, .lineRebuild 0 0 256, .scrubVisit 0 (2 ^ 64) ⟨[], []⟩, .generatorRunDone 0 (2 ^ 32) 0 0 0 0,
      .generatorRunDone 0 0 0 (2 ^ 48) 0 0, .replWindowEnd 0 [] [], .replacementCopiesDone 0, .acceptKvOpenWaitExpiry 0 0 (2 ^ 64),
      .marker (2 ^ 64), .markerMissing (2 ^ 64), .refclkCheck (2 ^ 64) 0 0, .powerRequestActive { noReq with partition := 8 } 0,
      .powerRequestLull { noReq with cell := 256 } 0, .powerRequestCalm { noReq with key := 0x10000 } 0, .warmReset noReq (2 ^ 64) ⟨true, true⟩,
      .partitionReset { noReq with atTime := 2 ^ 64 } 0, .cellReset noReq (2 ^ 64), .streamingComplete (2 ^ 64), .powerSample 0x10000 0 0,
      .powerSample 0 32768 0, .sensorRefresh Sensors.reset (2 ^ 64), .modResetNRelease true 0 { goodBoot with failedChannels := [192] },
      .bootWatchdogExpiry { goodBoot with selfTest := [1949] }, .bootWatchdogExpiry { goodBoot with readyTime := 2 ^ 64 },
      .i3cSetdasa .status 128 0, .i3cEntdaa .mctp 128, .statusTargetWrite 0x10000 [], .statusTargetWrite 0 (zeros 65), .recoveryBeacon (2 ^ 64),
      .recoveryImage (2 ^ 64) [] [] ⟨true, true⟩, .recoveryConfig (2 ^ 64) [] 0 ⟨true, true⟩, .recoveryOwner (2 ^ 64) 0 0 ⟨true, true⟩,
      .recoveryFirst (2 ^ 64) [] [] ⟨true, true⟩, .recoveryRestart 0 true 0 { goodBoot with spares := [(192, 0)] },
      .logEngineStep 0 ⟨[], [], 48, true⟩, .logEngineStep 0 ⟨List.replicate 65 0, [], 0, true⟩, .vectorUnitStep 0 .entry (List.replicate 257 0) [],
      .shipCommitAcknowledged (2 ^ 32)] : List Instr).all (fun i => !i.wf)
    = true := by decide +kernel

/-- The same forms within their ranges are well formed. -/
theorem test_well_formed :
    ([.stepBoundary 1 0, .controlKill 7 63 5 0xFFFF, .fabGapExpiry key1 (2 ^ 32 - 1) 0, .roceRdmaWrite (pkt .write 0x1000 0 2 [1, 2]),
      .planeStep 0 0 plane1, .groupOpen 0 0 63 1 open1, .regionLineConsume 0 0 ⟨[(63, 1)], [(7, 1)]⟩, .hbmNarrowAccess (.updraft 1) 32 (some (zeros 32)) ⟨[], []⟩,
      .powerRequestCalm noReq (2 ^ 64 - 1), .modResetNRelease true 7 goodBoot, .tapIdcode] : List Instr).all Instr.wf = true := by
  decide +kernel

end Sys2Proof.Tests
end

section
/-! The proof that a chunk's bit planes add up to its dot product (R28, R48, R49). A plane is read as one bit of every
code; both sides are additive in the weight entries, which leaves one entry, whose planes spell out the two's-complement
value of its code. -/
namespace Sys2Proof.Machine

/-! ## Sums of integers -/

theorem sumI_nil : sumI [] = 0 := rfl

theorem sumI_cons (x : Int) (xs : List Int) : sumI (x :: xs) = x + sumI xs := by
  have hsum (l : List Int) : sumI l = l.sum := List.sum_eq_foldl.symm
  rw [hsum, hsum, List.sum_cons]

theorem sumI_append (xs ys : List Int) : sumI (xs ++ ys) = sumI xs + sumI ys := by
  induction xs with
  | nil => rw [List.nil_append, sumI_nil, Int.zero_add]
  | cons x xs ih => rw [List.cons_append, sumI_cons, sumI_cons, ih, Int.add_assoc]

theorem sumI_map_add {α : Type} (f g : α → Int) (xs : List α) :
    sumI (xs.map (fun x => f x + g x)) = sumI (xs.map f) + sumI (xs.map g) := by
  induction xs with
  | nil => rfl
  | cons x xs ih =>
    simp only [List.map_cons, sumI_cons, ih]
    omega

theorem sumI_map_range_succ (f : Nat → Int) (n : Nat) :
    sumI ((List.range (n + 1)).map f) = sumI ((List.range n).map f) + f n := by
  rw [List.range_succ, List.map_append, sumI_append, List.map_singleton, sumI_cons, sumI_nil, Int.add_zero]

/-! ## Planes of codes -/

/-- Every input one place up doubles the sum of the places. -/
theorem sum_two_pow_succ (l : List (Nat × Nat)) :
    (l.map (fun e => 2 ^ (e.2 + 1))).sum = 2 * (l.map (fun e => 2 ^ e.2)).sum := by
  induction l with
  | nil => rfl
  | cons e l ih =>
    rw [List.map_cons, List.sum_cons, ih, List.map_cons, List.sum_cons, Nat.pow_succ', Nat.mul_add]

theorem plane_eq_sum (codes : List Nat) (p : Nat) :
    plane codes p = ((codes.zipIdx.filter (fun e => e.1.testBit p)).map (fun e => 2 ^ e.2)).sum := by
  rw [plane, List.sum_eq_foldl, List.foldl_map]

/-- The inputs after the first, each one place up. -/
theorem zipIdx_filter_succ (codes : List Nat) (p : Nat) :
    (((codes.zipIdx.map (Prod.map id (· + 1))).filter (fun e => e.1.testBit p)).map (fun e => 2 ^ e.2)).sum
      = 2 * plane codes p := by
  rw [plane_eq_sum, List.filter_map, List.map_map]
  exact sum_two_pow_succ _

/-- Input 0 gives the plane's lowest bit and the other inputs give the plane above it (R29). -/
theorem plane_cons (c : Nat) (codes : List Nat) (p : Nat) :
    plane (c :: codes) p = (c.testBit p).toNat + 2 * plane codes p := by
  rw [plane_eq_sum, List.zipIdx_cons', List.filter_cons]
  cases hc : c.testBit p
  · rw [if_neg (by decide), zipIdx_filter_succ, Bool.toNat_false, Nat.zero_add]
  · rw [if_pos rfl, List.map_cons, List.sum_cons, zipIdx_filter_succ, Bool.toNat_true, Nat.pow_zero]

/-- Bit `i` of plane `p` is bit `p` of input `i`'s code. -/
theorem testBit_plane (codes : List Nat) (p i : Nat) :
    (plane codes p).testBit i = (codes.getD i 0).testBit p := by
  induction codes generalizing i with
  | nil => rw [plane, List.zipIdx_nil, List.getD_nil, Nat.zero_testBit]; exact Nat.zero_testBit i
  | cons c codes ih =>
    rw [plane_cons]
    cases i with
    | zero =>
      rw [List.getD_cons_zero, Nat.testBit_zero, Nat.add_mul_mod_self_left]
      cases c.testBit p <;> rfl
    | succ i =>
      have hhalf : ((c.testBit p).toNat + 2 * plane codes p) / 2 = plane codes p := by
        have hle := Bool.toNat_le (c.testBit p)
        omega
      rw [List.getD_cons_succ, Nat.testBit_succ, hhalf, ih i]

/-! ## Additivity over the entries -/

/-- What a weight adds to a plane's sum: itself where the input's bit is set. -/
def bitWeight (t : Int) (b : Bool) : Int := if b then t else 0

theorem bitWeight_eq_mul (t : Int) (b : Bool) : bitWeight t b = t * (b.toNat : Int) := by
  cases b
  · exact (Int.mul_zero t).symm
  · exact (Int.mul_one t).symm

theorem entrySum_nil (mask : Nat) : entrySum [] mask = 0 := rfl

theorem entrySum_cons (e : Nat × Int) (es : List (Nat × Int)) (mask : Nat) :
    entrySum (e :: es) mask = bitWeight e.2 (mask.testBit e.1) + entrySum es mask := by
  rw [entrySum, List.filter_cons]
  cases h : mask.testBit e.1
  · rw [if_neg (by decide)]
    exact (Int.zero_add _).symm
  · rw [if_pos rfl, List.map_cons, sumI_cons]
    rfl

theorem entryTotal_nil : entryTotal [] = 0 := rfl

theorem entryTotal_cons (e : Nat × Int) (es : List (Nat × Int)) :
    entryTotal (e :: es) = e.2 + entryTotal es := sumI_cons _ _

theorem planeContribution_add (w p : Nat) (s₁ s₂ t₁ t₂ : Int) :
    planeContribution w p (s₁ + s₂) (t₁ + t₂) = planeContribution w p s₁ t₁ + planeContribution w p s₂ t₂ := by
  simp only [planeContribution, Int.add_mul]
  split
  · omega
  · split <;> omega

/-- A lane with no weights gets 0 from every plane. -/
theorem planeContribution_zero (w p : Nat) : planeContribution w p 0 0 = 0 := by
  have h := planeContribution_add w p 0 0 0 0
  rw [Int.add_zero] at h
  omega

/-! ## The rules of a plane and of a code, by width -/

theorem planeContribution_width_one (s t : Int) : planeContribution 1 0 s t = 2 * s - t := rfl

theorem planeContribution_sign (n : Nat) (hn : n ≠ 0) (s t : Int) :
    planeContribution (n + 1) n s t = -(s * 2 ^ n) := by
  rw [planeContribution, if_neg (by omega), if_pos rfl]

theorem planeContribution_low (n p : Nat) (hp : p < n) (s t : Int) :
    planeContribution (n + 1) p s t = s * 2 ^ p := by
  rw [planeContribution, if_neg (by omega), if_neg (by omega)]

theorem actValue_one (c : Nat) : actValue 1 c = 2 * ((c.testBit 0).toNat : Int) - 1 := by
  rw [actValue, if_pos rfl, Nat.toNat_testBit, Nat.pow_zero, Nat.div_one]

theorem actValue_of_ne_one (w c : Nat) (hw : w ≠ 1) : actValue w c = toSigned w c := by
  rw [actValue, if_neg hw]

theorem mod_two_pow_succ (c n : Nat) : c % 2 ^ (n + 1) = c % 2 ^ n + 2 ^ n * (c.testBit n).toNat := by
  rw [Nat.mod_pow_succ, Nat.toNat_testBit]

/-- Two's complement by its sign bit: the bits below it less the sign bit at its place (R28). -/
theorem toSigned_succ (n c : Nat) :
    toSigned (n + 1) c = ((c % 2 ^ n : Nat) : Int) - ((c.testBit n).toNat : Int) * 2 ^ n := by
  have hlt : c % 2 ^ n < 2 ^ n := Nat.mod_lt _ (Nat.two_pow_pos n)
  have hpow : (2 : Int) ^ n = ((2 ^ n : Nat) : Int) := (Int.natCast_pow 2 n).symm
  simp only [toSigned, mod_two_pow_succ]
  rw [Int.pow_succ, Nat.pow_succ, hpow]
  cases c.testBit n
  · simp only [Bool.toNat_false]
    split <;> omega
  · simp only [Bool.toNat_true]
    split <;> omega

/-! ## The planes of one code -/

/-- The planes below the sign plane spell out the code's low bits, times the weight. -/
theorem sumI_low_planes (t : Int) (c n : Nat) :
    sumI ((List.range n).map (fun p => bitWeight t (c.testBit p) * 2 ^ p)) = t * ((c % 2 ^ n : Nat) : Int) := by
  induction n with
  | zero => rw [Nat.pow_zero, Nat.mod_one, Int.natCast_zero, Int.mul_zero]; rfl
  | succ n ih =>
    rw [sumI_map_range_succ, ih, bitWeight_eq_mul, mod_two_pow_succ, Int.natCast_add, Int.natCast_mul,
      Int.natCast_pow, Int.mul_add, Int.mul_comm ((2 : Nat) ^ n : Int), Int.mul_assoc]
    rfl

/-- At width 1 the one plane gives the weight times ±1 (R49). -/
theorem sumI_planes_width_one (t : Int) (c : Nat) :
    sumI ((List.range 1).map (fun p => planeContribution 1 p (bitWeight t (c.testBit p)) t)) = t * actValue 1 c := by
  rw [sumI_map_range_succ, planeContribution_width_one, actValue_one, bitWeight_eq_mul, List.range_zero, List.map_nil,
    sumI_nil, Int.zero_add, Int.mul_sub, Int.mul_one, Int.mul_left_comm]

/-- At widths from 2 on the low planes and the sign plane give the weight times the code's value (R48). -/
theorem sumI_planes_width_succ (n : Nat) (hn : n ≠ 0) (t : Int) (c : Nat) :
    sumI ((List.range (n + 1)).map (fun p => planeContribution (n + 1) p (bitWeight t (c.testBit p)) t))
      = t * actValue (n + 1) c := by
  have hlow : (List.range n).map (fun p => planeContribution (n + 1) p (bitWeight t (c.testBit p)) t)
      = (List.range n).map (fun p => bitWeight t (c.testBit p) * 2 ^ p) :=
    List.map_congr_left fun p hp => planeContribution_low n p (List.mem_range.mp hp) _ _
  rw [sumI_map_range_succ, hlow, sumI_low_planes, planeContribution_sign n hn, actValue_of_ne_one _ _ (by omega),
    toSigned_succ, bitWeight_eq_mul, Int.mul_sub, Int.mul_assoc, Int.sub_eq_add_neg]

/-- The planes of one input add up to its weight times the value of its code (R48, R49). -/
theorem sumI_planes_of_code (w : Nat) (hw : 1 ≤ w) (t : Int) (c : Nat) :
    sumI ((List.range w).map (fun p => planeContribution w p (bitWeight t (c.testBit p)) t)) = t * actValue w c := by
  match w, hw with
  | 1, _ => exact sumI_planes_width_one t c
  | n + 2, _ => exact sumI_planes_width_succ (n + 1) (Nat.succ_ne_zero n) t c

/-! ## The planes of a chunk -/

/-- With no weights every plane gives 0. -/
theorem sumI_planes_nil (w : Nat) (masks : Nat → Nat) (ps : List Nat) :
    sumI (ps.map (fun p => planeContribution w p (entrySum [] (masks p)) (entryTotal []))) = 0 := by
  induction ps with
  | nil => rfl
  | cons p ps ih => rw [List.map_cons, sumI_cons, ih, entrySum_nil, entryTotal_nil, planeContribution_zero, Int.add_zero]

/-- The planes of a chunk add up to the dot product of its weight entries with the values of the codes (R48, R49). -/
theorem sumI_planes_eq_dot (w : Nat) (hw : 1 ≤ w) (codes : List Nat) (es : List (Nat × Int)) :
    sumI ((List.range w).map (fun p => planeContribution w p (entrySum es (plane codes p)) (entryTotal es)))
      = sumI (es.map (fun e => e.2 * actValue w (codes.getD e.1 0))) := by
  induction es with
  | nil => exact sumI_planes_nil w (plane codes) (List.range w)
  | cons e es ih =>
    simp only [entrySum_cons, entryTotal_cons, planeContribution_add, sumI_map_add, ih, testBit_plane,
      sumI_planes_of_code w hw, List.map_cons, sumI_cons]

/-- Settles O33: both sides are additive in the weight entries, and one entry's planes spell out its code's value. -/
theorem planesSumToDot : Obligations.PlanesSumToDot := by
  unfold Obligations.PlanesSumToDot
  intro w codes es hw _ _ _
  exact sumI_planes_eq_dot w hw codes es

end Sys2Proof.Machine
end

section
/-! The proof that the digit records of a multiplier below 2^32 stand for it (R36, R61): halving with carry keeps the value of
the non-adjacent form, and each digit's record reads back as the digit. -/
namespace Sys2Proof.Machine

/-- The number a digit of a non-adjacent form stands for: ±2^p. -/
def nafValue (d : Nat × Bool) : Int := if d.2 then -2 ^ d.1 else 2 ^ d.1

/-- The record of a non-adjacent form's digit: position, sign and valid bit (R36). -/
def nafRecord (d : Nat × Bool) : Nat := d.1 + (if d.2 then 64 else 0) + 128

theorem digitRecords_eq (m : Nat) :
    digitRecords m = (naf m).map nafRecord ++ List.replicate (8 - ((naf m).map nafRecord).length) 0 := rfl

/-! ## The non-adjacent form -/

/-- The digits of `x` from position `p` on add up to `x · 2^p`, where the fuel covers every bit of `x` and its carry. -/
theorem sumI_nafDigits (fuel x p : Nat) (hx : 2 * x ≤ 2 ^ fuel) :
    sumI ((nafDigits fuel x p).map nafValue) = x * 2 ^ p := by
  induction fuel generalizing x p with
  | zero =>
    obtain rfl : x = 0 := by omega
    rw [Int.natCast_zero, Int.zero_mul]
    rfl
  | succ fuel ih =>
    have hx : x ≤ 2 ^ fuel := by omega
    have hpow : (2 : Int) ^ (p + 1) = 2 * 2 ^ p := Int.pow_succ' ..
    rw [nafDigits]
    split
    · next h0 =>
      rw [h0, Int.natCast_zero, Int.zero_mul]
      rfl
    split
    · obtain ⟨y, rfl⟩ : ∃ y, x = 2 * y := ⟨x / 2, by omega⟩
      rw [ih _ _ (by omega), hpow, Nat.mul_div_cancel_left y (by decide), Int.natCast_mul, Int.mul_left_comm, Int.mul_assoc]
      rfl
    split
    · obtain ⟨y, rfl⟩ : ∃ y, x = 4 * y + 3 := ⟨x / 4, by omega⟩
      have hcarry : 2 * ((4 * y + 3 + 1) / 2) ≤ 2 ^ fuel := by
        match fuel with
        | 0 => omega
        | k + 1 => omega
      rw [List.map_cons, sumI_cons, ih _ _ hcarry, hpow, show (4 * y + 3 + 1) / 2 = 2 * y + 2 by omega, nafValue, if_pos rfl]
      grind
    · obtain ⟨y, rfl⟩ : ∃ y, x = 2 * y + 1 := ⟨x / 2, by omega⟩
      rw [List.map_cons, sumI_cons, ih _ _ (by omega), hpow, show (2 * y + 1 - 1) / 2 = y by omega, nafValue,
        if_neg Bool.false_ne_true]
      grind

/-- Every digit stands within the fuel's positions. -/
theorem nafDigits_position_lt (fuel x p : Nat) : ∀ d ∈ nafDigits fuel x p, d.1 < p + fuel := by
  induction fuel generalizing x p with
  | zero => exact fun d hd => nomatch hd
  | succ fuel ih =>
    have hnext (y : Nat) : ∀ d ∈ nafDigits fuel y (p + 1), d.1 < p + (fuel + 1) := fun d hd => by
      have := ih y (p + 1) d hd
      omega
    have hcons (b : Bool) (y : Nat) : ∀ d ∈ (p, b) :: nafDigits fuel y (p + 1), d.1 < p + (fuel + 1) :=
      List.forall_mem_cons.mpr ⟨by omega, hnext y⟩
    rw [nafDigits]
    split
    · exact fun d hd => nomatch hd
    split
    · exact hnext _
    split
    · exact hcons true _
    · exact hcons false _

theorem naf_position_lt (m : Nat) : ∀ d ∈ naf m, d.1 < 64 := fun d hd => by
  have := nafDigits_position_lt 36 m 0 d hd
  omega

/-! ## Its records -/

/-- A digit's record stands for the digit (R36). -/
theorem digitValue_nafRecord (d : Nat × Bool) (hd : d.1 < 64) : digitValue (nafRecord d) = nafValue d := by
  obtain ⟨p, neg⟩ := d
  have hpos : fld (nafRecord (p, neg)) 0 6 = p := by
    cases neg <;> simp [fld, nafRecord] <;> omega
  have hvalid : bit (nafRecord (p, neg)) 7 = true := by
    cases neg <;> simp [bit, nafRecord, Nat.testBit_eq_decide_div_mod_eq] <;> omega
  have hsign : bit (nafRecord (p, neg)) 6 = neg := by
    cases neg <;> simp [bit, nafRecord, Nat.testBit_eq_decide_div_mod_eq] <;> omega
  rw [digitValue, hpos, hvalid, hsign, if_pos rfl, nafValue]

theorem digitProduct_cons (acc : Int) (r : Nat) (rs : List Nat) :
    digitProduct acc (r :: rs) = acc * digitValue r + digitProduct acc rs := sumI_cons _ _

theorem digitProduct_append (acc : Int) (rs₁ rs₂ : List Nat) :
    digitProduct acc (rs₁ ++ rs₂) = digitProduct acc rs₁ + digitProduct acc rs₂ := by
  rw [digitProduct, List.map_append, sumI_append]
  rfl

/-- Records that are not valid add nothing. -/
theorem digitProduct_replicate_zero (acc : Int) (n : Nat) : digitProduct acc (List.replicate n 0) = 0 := by
  have hzero : digitValue 0 = 0 := rfl
  induction n with
  | zero => rfl
  | succ n ih => rw [List.replicate_succ, digitProduct_cons, ih, hzero, Int.mul_zero, Int.add_zero]

/-- The records of digits multiply as the digits do. -/
theorem digitProduct_nafRecords (acc : Int) (ds : List (Nat × Bool)) (hds : ∀ d ∈ ds, d.1 < 64) :
    digitProduct acc (ds.map nafRecord) = acc * sumI (ds.map nafValue) := by
  induction ds with
  | nil => exact (Int.mul_zero acc).symm
  | cons d ds ih =>
    obtain ⟨hd, hds⟩ := List.forall_mem_cons.mp hds
    rw [List.map_cons, digitProduct_cons, ih hds, digitValue_nafRecord d hd, List.map_cons, sumI_cons, Int.mul_add]

/-- The requantiser's shifted adds are the product with the multiplier (R61). -/
theorem digitProduct_digitRecords (acc : Int) (m : Nat) (hm : m < 2 ^ 32) : digitProduct acc (digitRecords m) = acc * m := by
  rw [digitRecords_eq, digitProduct_append, digitProduct_replicate_zero, Int.add_zero,
    digitProduct_nafRecords acc (naf m) (naf_position_lt m), naf, sumI_nafDigits 36 m 0 (by omega), Int.pow_zero, Int.mul_one]

/-- Settles O34: the digits of the non-adjacent form add up to the multiplier, and each record stands for its digit. -/
theorem digitRecordsMultiply : Obligations.DigitRecordsMultiply := by
  unfold Obligations.DigitRecordsMultiply
  exact digitProduct_digitRecords

end Sys2Proof.Machine
end

section
/-! What changing one cell does: the cell afterwards, and the group that stands on a tile. -/
namespace Sys2Proof.Machine

/-! ## One cell of the state -/

/-- A changed cell is what the change makes of it, but for the stamp of its state's time (R111). -/
theorem State.onCell_cell (s : State) (n : CellId) (f : Cell → Cell) :
    ∃ t, (s.onCell n f).cells[n.val] = { f s.cells[n.val] with stateTime := t } := by
  simp only [State.onCell, State.updCell, Vector.getElem_set_self]
  split
  · exact ⟨(f s.cells[n.val]).stateTime, rfl⟩
  · exact ⟨s.now, rfl⟩

/-- Counting a corrected word and changing one cell leave every other cell, all else, and the other counters alone. -/
theorem State.cellFixed_onCell_frame (s : State) (k : Nat) (n : CellId) (f : Cell → Cell) :
    (∀ m : CellId, m ≠ n → ((s.cellFixed k).onCell n f).cells[m.val] = s.cells[m.val])
      ∧ { (s.cellFixed k).onCell n f with cells := s.cells, counters := s.counters } = s
      ∧ ((s.cellFixed k).onCell n f).counters = { s.counters with cellCorrected := satAdd s.counters.cellCorrected k } :=
  ⟨((s.cellFixed k).onCell_only n f).others, rfl, rfl⟩

/-! ## The group on a tile -/

theorem Cell.group_tile {c : Cell} {t : TileId} {g : Group} (h : c.group t = some g) : g.tile = t :=
  eq_of_beq (List.find?_some (p := fun g : Group => g.tile == t) h)

/-- Changing the group of one tile changes what stands on that tile alone. -/
theorem Cell.group_updGroup_ite (c : Cell) (t t' : TileId) (f : Group → Group) (hf : ∀ g, (f g).tile = g.tile) :
    (c.updGroup t' f).group t = (c.group t).map (fun g => if g.tile == t' then f g else g) := by
  have htile (g : Group) : (if g.tile == t' then f g else g).tile = g.tile := by
    split
    · exact hf g
    · rfl
  simp only [Cell.group, Cell.updGroup, updIf, List.find?_map, Function.comp_def, htile]

theorem Cell.group_updGroup (c : Cell) (t : TileId) (f : Group → Group) (hf : ∀ g, (f g).tile = g.tile) :
    (c.updGroup t f).group t = (c.group t).map f := by
  rw [c.group_updGroup_ite t t f hf]
  cases h : c.group t with
  | none => rfl
  | some g => simp only [Option.map_some, Cell.group_tile h, beq_self_eq_true, if_true]

theorem Cell.group_updGroup_some {c : Cell} {t : TileId} {g : Group} (h : c.group t = some g) (f : Group → Group)
    (hf : ∀ g, (f g).tile = g.tile) : (c.updGroup t f).group t = some (f g) := by
  rw [c.group_updGroup t f hf, h, Option.map_some]

end Sys2Proof.Machine
end

section
/-! What a plane step does (R48-R52): it leaves its partial in the lane group's slot or waiting, counts, and adds to no sum. -/
namespace Sys2Proof.Machine

/-! ## What checking the lines of a cell changes (R260) -/

/-- Checked lines are put right in their regions, and nothing else of the cell changes. -/
theorem Cell.checkAll_cell (xs : List (LineAt × Upset)) (c : Cell) :
    (Cell.checkAll xs c).1 = { c with regions := (Cell.checkAll xs c).1.regions } := by
  induction xs generalizing c with
  | nil => rfl
  | cons x xs ih => exact ih (c.checkAt x.1 x.2).1

section
variable (xs : List (LineAt × Upset)) (c : Cell)

@[simp] theorem Cell.checkAll_group (t : TileId) : (Cell.checkAll xs c).1.group t = c.group t := by
  rw [Cell.checkAll_cell]; rfl
@[simp] theorem Cell.checkAll_planeSteps : (Cell.checkAll xs c).1.planeSteps = c.planeSteps := by rw [Cell.checkAll_cell]
@[simp] theorem Cell.checkAll_planesSkipped : (Cell.checkAll xs c).1.planesSkipped = c.planesSkipped := by
  rw [Cell.checkAll_cell]
@[simp] theorem Cell.checkAll_lanes : (Cell.checkAll xs c).1.lanes = c.lanes := by rw [Cell.checkAll_cell]

end

/-! ## A plane step (R48-R52) -/

theorem planePartial_pos (w : Nat) (on : Nat → Bool) (pos : PartialPos) (codes : List Nat) (lw : LaneWeights) :
    (planePartial w on pos codes lw).2.pos = pos := by
  cases lw <;> rfl

/-- What a plane step computes stands at the position that it names. -/
theorem Cell.planeOut_pos {c : Cell} {w : Work} {g : Group} {k : ChunkTag} {b : Block} {l : LaneGroup} {x : PlaneIn}
    {r : Bool × Partial} {cs : List Nat} (h : c.planeOut w g k b l x = some (.done r cs)) : r.2.pos = x.pos := by
  simp only [Cell.planeOut] at h
  split at h
  · obtain ⟨vs, -, hr⟩ := Option.map_eq_some_iff.mp h
    cases hr
    rfl
  · split at h
    · split at h
      · cases h
      · cases h
        exact planePartial_pos ..
    · cases h

@[simp] theorem Group.hold_tile (g : Group) (l : LaneGroup) (y : Partial) : (g.hold l y).tile = g.tile := by
  unfold Group.hold; split <;> rfl
@[simp] theorem Group.hold_wide (g : Group) (l : LaneGroup) (y : Partial) : (g.hold l y).wide = g.wide := by
  unfold Group.hold; split <;> rfl
@[simp] theorem Group.hold_next (g : Group) (l : LaneGroup) (y : Partial) : (g.hold l y).next = g.next := by
  unfold Group.hold; split <;> rfl

/-- A held partial stands in its lane group's slot of eight, or waits where the slot is full (R52). -/
theorem Group.hold_slot (g : Group) (l : LaneGroup) (y : Partial) :
    if (g.reorder[l.val]).length < 8 then
      (g.hold l y).reorder[l.val] = g.reorder[l.val] ++ [y] ∧ (g.hold l y).waiting = g.waiting
    else (g.hold l y).reorder = g.reorder ∧ (g.hold l y).waiting[l.val] = some y := by
  unfold Group.hold
  split
  · exact ⟨Vector.getElem_set_self _, rfl⟩
  · exact ⟨rfl, Vector.getElem_set_self _⟩

/-- Noting the input stage's clamps changes nothing but those notes, of the cell and of the group (R50). -/
theorem Cell.countClamps_cell (w : Work) (x : PlaneIn) (g : Group) (k : ChunkTag) (cs : List Nat) (c : Cell) :
    c.countClamps w x g k cs = c
      ∨ ∃ (f : List ((Nat × Nat × Nat) × List Nat) → List ((Nat × Nat × Nat) × List Nat)) (cl : _),
          c.countClamps w x g k cs = { c.updGroup x.tile (fun g => { g with clamped := f g.clamped }) with clamps := cl } := by
  simp only [Cell.countClamps]
  split
  · exact .inl rfl
  · exact .inr ⟨assocSet (x.pos.window, x.pos.slot, x.pos.chunk) cs, _, rfl⟩

/-- After a plane step whose group took it the partial is held, the step counts as run or as skipped, and nothing is added to any
sum (R48, R51, R52, R111). -/
theorem Cell.planeStep_takes {c : Cell} {x : PlaneIn} {g : Group} (hg : c.group x.tile = some g) (l : LaneGroup)
    (r : Bool × Partial) (w : Work) (k : ChunkTag) (cs : List Nat) :
    ∃ d ns, (c.planeStep l x.tile r).countClamps w x g k cs = d
      ∧ d.group x.tile = some { g.hold l r.2 with clamped := ns }
      ∧ d.planeSteps = (if r.1 then c.planeSteps else satInc c.planeSteps)
      ∧ d.planesSkipped = (if r.1 then satInc c.planesSkipped else c.planesSkipped)
      ∧ d.lanes = c.lanes ∧ d.regions = c.regions := by
  have hheld : (c.planeStep l x.tile r).group x.tile = some (g.hold l r.2) :=
    Cell.group_updGroup_some hg _ fun g => g.hold_tile l r.2
  rcases (c.planeStep l x.tile r).countClamps_cell w x g k cs with h | ⟨f, cl, h⟩
  · exact ⟨_, _, h, hheld, rfl, rfl, rfl, rfl⟩
  · exact ⟨_, _, h, Cell.group_updGroup_some hheld _ fun _ => rfl, rfl, rfl, rfl, rfl⟩

/-- PLANE_STEP on whole lines, of a group that takes it, is the plane step of the checked cell (R48, R260). -/
theorem exec_planeStep {s : State} {n : CellId} {l : LaneGroup} {x : PlaneIn} {w : Work} {g : Group} {k : ChunkTag} {b : Block}
    {q : Cell × Nat × Option Nat} {r : Bool × Partial} {cs : List Nat} (hworks : s.cells[n.val].works = true)
    (hw : s.work n = some w) (hg : s.cells[n.val].group x.tile = some g) (hk : g.takes l x.pos = some k)
    (hb : s.chunkBlock w g k = some b) (hq : q = s.cells[n.val].checkAll (s.cells[n.val].upsetLines b x)) (hbad : q.2.2 = none)
    (hout : q.1.planeOut w g k b l x = some (.done r cs)) :
    exec (.planeStep n l x) s
      = .next ((s.cellFixed q.2.1).onCell n (fun _ => (q.1.planeStep l x.tile r).countClamps w x g k cs)) := by
  subst hq
  simp only [exec, execPlaneStep, Fin.getElem_fin, hw, hg, hk, hb, hworks, hbad, hout, Bool.true_eq_false, if_false]

end Sys2Proof.Machine
end

section
/-! The proof that partials retire in the fixed order (R50-R54): what retirement adds to the sums leaves the order of
retirement alone, and then the lane group moves on. -/
namespace Sys2Proof.Machine

/-! ## Changes that keep the order of retirement -/

/-- Two states of a group that differ in its sums and its notes of clamps at most. -/
structure Group.OrderKept (g g' : Group) : Prop where
  tile : g'.tile = g.tile
  tag : g'.tag = g.tag
  reorder : g'.reorder = g.reorder
  waiting : g'.waiting = g.waiting
  next : g'.next = g.next

theorem Group.OrderKept.refl (g : Group) : g.OrderKept g := ⟨rfl, rfl, rfl, rfl, rfl⟩

theorem Group.OrderKept.trans {g g' g'' : Group} (h : g.OrderKept g') (h' : g'.OrderKept g'') : g.OrderKept g'' :=
  ⟨h'.tile.trans h.tile, h'.tag.trans h.tag, h'.reorder.trans h.reorder, h'.waiting.trans h.waiting, h'.next.trans h.next⟩

/-- Two states of a cell: the lines of its regions but one stand as they stood, and the group on a tile keeps its order. -/
structure Cell.OrderKept (t : TileId) (skip : Option RegionId) (c d : Cell) : Prop where
  regions : ∀ r : RegionId, skip ≠ some r → d.regions[r.val] = c.regions[r.val]
  group : ∀ g, c.group t = some g → ∃ g', d.group t = some g' ∧ g.OrderKept g'

section
variable {t : TileId} {skip : Option RegionId} {c d e : Cell}

theorem Cell.OrderKept.refl : c.OrderKept t skip c := ⟨fun _ _ => rfl, fun g h => ⟨g, h, .refl g⟩⟩

theorem Cell.OrderKept.trans (h : c.OrderKept t skip d) (h' : d.OrderKept t skip e) : c.OrderKept t skip e where
  regions r hr := (h'.regions r hr).trans (h.regions r hr)
  group g hg := by
    obtain ⟨g', hg', hk⟩ := h.group g hg
    obtain ⟨g'', hg'', hk'⟩ := h'.group g' hg'
    exact ⟨g'', hg'', hk.trans hk'⟩

/-- A change of regions and groups alone to look at: whatever else of the cell differs. -/
theorem Cell.OrderKept.of_eq (hr : d.regions = c.regions) (hg : d.groups = c.groups) : c.OrderKept t skip d where
  regions r _ := by rw [hr]
  group g h := ⟨g, by rw [Cell.group, hg]; exact h, .refl g⟩

/-- A change of some tile's group that keeps its order. -/
theorem Cell.updGroup_orderKept (t' : TileId) (f : Group → Group) (hf : ∀ g : Group, g.OrderKept (f g)) :
    c.OrderKept t skip (c.updGroup t' f) where
  regions _ _ := rfl
  group g h := by
    refine ⟨_, by rw [c.group_updGroup_ite t t' f fun g => (hf g).tile, h, Option.map_some], ?_⟩
    split
    · exact hf g
    · exact .refl g

/-- A change of the sums of some tile's group. -/
theorem Cell.updWide_orderKept (t' : TileId) (f : Group → List (Nat × Int)) :
    c.OrderKept t skip (c.updGroup t' (fun g => { g with wide := f g })) :=
  Cell.updGroup_orderKept t' _ fun _ => ⟨rfl, rfl, rfl, rfl, rfl⟩

theorem Cell.updLane_orderKept (l : LaneGroup) (f : LaneGrp → LaneGrp) : c.OrderKept t skip (c.updLane l f) :=
  .of_eq rfl rfl

/-! ## What retirement adds to the sums (R50, R53-R57, R79) -/

theorem Group.flip_orderKept (element flips : Nat) (g : Group) : g.OrderKept (g.flip element flips) := by
  unfold Group.flip
  split
  · exact .refl g
  · exact ⟨rfl, rfl, rfl, rfl, rfl⟩

theorem Cell.flipAcc_orderKept (t' : TileId) (element flips : Nat) : c.OrderKept t skip (c.flipAcc t' element flips) := by
  unfold Cell.flipAcc
  split
  · exact .refl
  · exact Cell.updGroup_orderKept t' _ (Group.flip_orderKept element flips)

theorem Cell.promote_orderKept (l : LaneGroup) : c.OrderKept t skip (c.promote l) := by
  simp only [Cell.promote]
  split
  · exact .of_eq rfl rfl
  · next o _ =>
    exact (Cell.updWide_orderKept o.1 fun g => addWide o.2 g.wide _).trans (.of_eq rfl rfl)

theorem Cell.retireValue_orderKept (l : LaneGroup) (t' : TileId) (k : ChunkTag) (y : Partial) :
    c.OrderKept t skip (c.retireValue l t' k y) := by
  have hpromoted (b : Bool) : c.OrderKept t skip (if b then c.promote l else c) := by
    split
    · exact Cell.promote_orderKept l
    · exact .refl
  simp only [Cell.retireValue]
  refine (hpromoted ((c.lanes[l.val]).promotesFirst (t', y.pos.slot) k y.pos)).trans ?_
  generalize (if (c.lanes[l.val]).promotesFirst (t', y.pos.slot) k y.pos then c.promote l else c) = d
  split
  · exact Cell.updWide_orderKept t' _
  · split
    · split
      · exact (Cell.updLane_orderKept l _).trans (Cell.promote_orderKept l)
      · exact Cell.updLane_orderKept l _
    · exact Cell.updLane_orderKept l _

theorem Cell.sidePath_orderKept (l : LaneGroup) (t' : TileId) (slot : Nat) (xs : List (Int × List Int)) :
    c.OrderKept t skip (c.sidePath l t' slot xs) := by
  induction xs generalizing c with
  | nil => exact .refl
  | cons x xs ih => exact (Cell.updWide_orderKept t' _).trans ih

/-- A change of a region leaves every other region and every group alone. -/
theorem Cell.updRegion_orderKept (r : RegionId) (f : Region → Region) : c.OrderKept t (some r) (c.updRegion r f) where
  regions r' hr := Vector.getElem_set_ne r.isLt r'.isLt fun h => hr (congrArg some (Fin.ext h))
  group g h := ⟨g, h, .refl g⟩

/-- The clamps of a chunk go into the region of its outlier lists alone (R50). -/
theorem Cell.markClamps_orderKept (t' : TileId) (p : PartialPos) (side : SideIn) :
    c.OrderKept t (side.lists.map (·.1)) (c.markClamps t' p side) := by
  simp only [Cell.markClamps]
  split
  · next hlists =>
    rw [hlists]
    split
    · exact .refl
    · refine Cell.OrderKept.trans ?_ (Cell.updRegion_orderKept _ _)
      exact Cell.updGroup_orderKept t' _ fun _ => ⟨rfl, rfl, rfl, rfl, rfl⟩
  · exact .refl

end

/-! ## The lane group moves on (R52, R54) -/

/-- A group after the lane group's partial has left its slot. -/
def Group.moveOn (l : LaneGroup) (tag : GroupTag) (y : Partial) (g : Group) : Group :=
  { g.drain l y.pos with next := g.next.set l.val (nextPos tag y.pos) l.isLt }

/-- A lane group promotes at the end of a promotion window and before its group closes (R54). -/
def Cell.windowEnd (l : LaneGroup) (tag : GroupTag) (y : Partial) (c : Cell) : Cell :=
  match nextPos tag y.pos with
  | none => c.promote l
  | some q => if q.window = y.pos.window then c else c.promote l

/-- Moving on is the promotion that is due, and the group's move; beside them the cell counts passed tiles and may come to
draining (R84, R112). -/
theorem Cell.advanceLane_cell (l : LaneGroup) (t : TileId) (tag : GroupTag) (y : Partial) (c : Cell) :
    ∃ ps p, c.advanceLane l t tag y
      = { (c.windowEnd l tag y).updGroup t (Group.moveOn l tag y) with passed := ps, pass := p } := by
  have hmoves : c.advanceLane l t tag y =
      let d := (c.windowEnd l tag y).updGroup t (Group.moveOn l tag y)
      let d := if (d.group t).any Group.closed then d.countPassed tag else d
      if d.groups.all Group.closed then { d with pass := none } else d := rfl
  rw [hmoves]
  generalize (c.windowEnd l tag y).updGroup t (Group.moveOn l tag y) = d
  dsimp only
  split
  · split <;> exact ⟨_, _, rfl⟩
  · split <;> exact ⟨_, _, rfl⟩

theorem Cell.windowEnd_orderKept {t : TileId} {skip : Option RegionId} (l : LaneGroup) (tag : GroupTag) (y : Partial) (c : Cell) :
    c.OrderKept t skip (c.windowEnd l tag y) := by
  unfold Cell.windowEnd
  split
  · exact Cell.promote_orderKept l
  · split
    · exact .refl
    · exact Cell.promote_orderKept l

/-- Nothing is promoted where the next position stands in the same window. -/
theorem Cell.windowEnd_of_same_window {tag : GroupTag} {y : Partial} {q : PartialPos} (hq : nextPos tag y.pos = some q)
    (hwindow : q.window = y.pos.window) (l : LaneGroup) (c : Cell) : c.windowEnd l tag y = c := by
  simp only [Cell.windowEnd, hq, hwindow, if_true]

/-- Retiring a partial moves its lane group on over sums that keep the order, and leaves the regions alone but for the one of the
chunk's outlier lists (R50, R52). -/
theorem Cell.retire_moves {c : Cell} {t : TileId} {g : Group} (hg : c.group t = some g) (l : LaneGroup) (tag : GroupTag)
    (k : ChunkTag) (y : Partial) (xs : List (Int × List Int)) (side : SideIn) :
    ∃ g', g.OrderKept g' ∧ (c.retire l t tag k y xs side).group t = some (g'.moveOn l tag y)
      ∧ ∀ r : RegionId, side.lists.map (·.1) ≠ some r → (c.retire l t tag k y xs side).regions[r.val] = c.regions[r.val] := by
  have hsums : ∃ d, c.OrderKept t (side.lists.map (·.1)) d ∧ c.retire l t tag k y xs side = d.advanceLane l t tag y := by
    refine ⟨_, ?_, rfl⟩
    refine (Cell.retireValue_orderKept l t k y).trans ?_
    split
    · exact (Cell.sidePath_orderKept l t y.pos.slot xs).trans (Cell.markClamps_orderKept t y.pos side)
    · exact .refl
  obtain ⟨d, hd, hretire⟩ := hsums
  obtain ⟨hregions, hgroup⟩ := hd.trans (Cell.windowEnd_orderKept l tag y d)
  obtain ⟨g', hg', hkept⟩ := hgroup g hg
  obtain ⟨ps, p, hmoved⟩ := d.advanceLane_cell l t tag y
  rw [hretire, hmoved]
  exact ⟨g', hkept, Cell.group_updGroup_some hg' _ fun _ => rfl, hregions⟩

/-! ## Retiring within a Trit5 chunk (R50, R54) -/

/-- Within a Trit5 chunk the next position is the next plane. -/
theorem nextPos_within_trit5 {tag : GroupTag} {k : ChunkTag} {p : PartialPos} (hk : tagChunk tag p = some k)
    (hkind : k.kind = .trit5) (hwidth : k.width p.slot ≠ 0) (hin : posIn tag p = true) (hends : endsChunk k p = false) :
    nextPos tag p = some { p with plane := p.plane + 1 } := by
  have hpasses : chunkPasses k p.slot = 1 := by simp only [chunkPasses, if_neg hwidth, hkind]
  simp only [posIn, hk, decide_eq_true_eq, hpasses] at hin
  obtain ⟨-, hpass, hplane⟩ := hin
  have hmore : p.plane + 1 < chunkPlanes k p.slot := by
    simp only [endsChunk, hpasses, Bool.and_eq_false_iff, beq_eq_false_iff_ne] at hends
    omega
  simp only [nextPos, hk, if_pos hmore]

/-- Within a Trit5 chunk that needs no promotion a partial goes into the narrow accumulators of its lane group alone
(R50, R54). -/
theorem Cell.retireValue_within_trit5 {t : TileId} {k : ChunkTag} {y : Partial} {l : LaneGroup} {c : Cell}
    (hkind : k.kind = .trit5) (hwidth : k.width y.pos.slot ≠ 0) (hends : endsChunk k y.pos = false)
    (hfirst : (c.lanes[l.val]).promotesFirst (t, y.pos.slot) k y.pos = false) :
    c.retireValue l t k y = c.updLane l (LaneGrp.add (t, y.pos.slot) (ownLanes l) y.vals 0) := by
  have hdirect : k.direct y.pos.slot = false := by simp [ChunkTag.direct, hkind, hwidth]
  simp only [Cell.retireValue, hfirst, hdirect, hkind, hends, Bool.false_eq_true, if_false]

theorem Cell.retire_within_trit5 {t : TileId} {tag : GroupTag} {k : ChunkTag} {y : Partial} {l : LaneGroup} {c : Cell}
    (hk : tagChunk tag y.pos = some k) (hkind : k.kind = .trit5) (hwidth : k.width y.pos.slot ≠ 0)
    (hin : posIn tag y.pos = true) (hends : endsChunk k y.pos = false)
    (hfirst : (c.lanes[l.val]).promotesFirst (t, y.pos.slot) k y.pos = false) (xs : List (Int × List Int)) (side : SideIn) :
    ∃ ps p, c.retire l t tag k y xs side
      = { (c.updLane l (LaneGrp.add (t, y.pos.slot) (ownLanes l) y.vals 0)).updGroup t (Group.moveOn l tag y) with
            passed := ps, pass := p } := by
  have hretire : c.retire l t tag k y xs side = (c.retireValue l t k y).advanceLane l t tag y := by
    simp only [Cell.retire, hends, Bool.false_eq_true, if_false]
  rw [hretire, Cell.retireValue_within_trit5 hkind hwidth hends hfirst]
  obtain ⟨ps, p, hmoved⟩ := (c.updLane l (LaneGrp.add (t, y.pos.slot) (ownLanes l) y.vals 0)).advanceLane_cell l t tag y
  rw [Cell.windowEnd_of_same_window (nextPos_within_trit5 hk hkind hwidth hin hends) rfl] at hmoved
  exact ⟨ps, p, hmoved⟩

/-! ## What a group holds once a lane group has moved on -/

section
variable (l : LaneGroup) (tag : GroupTag) (y : Partial) (g : Group)

theorem Group.moveOn_next : (g.moveOn l tag y).next[l.val] = nextPos tag y.pos := Vector.getElem_set_self _

/-- What the lane group still holds is what it held but the retired partial, in its old order. -/
theorem Group.moveOn_held : (g.moveOn l tag y).reorder[l.val] ++ ((g.moveOn l tag y).waiting[l.val]).toList
    = ((g.reorder[l.val] ++ (g.waiting[l.val]).toList).filter (fun z => z.pos != y.pos)).take 9 := by
  simp only [Group.moveOn, Group.drain, Vector.getElem_set_self]
  exact List.take_add_one.symm

theorem Group.moveOn_slot_length : ((g.moveOn l tag y).reorder[l.val]).length ≤ 8 := by
  simp only [Group.moveOn, Group.drain, Vector.getElem_set_self]
  exact List.length_take_le ..

/-- The other lane groups of the group stay where they are. -/
theorem Group.moveOn_other {l' : LaneGroup} (h : l' ≠ l) :
    (g.moveOn l tag y).next[l'.val] = g.next[l'.val] ∧ (g.moveOn l tag y).reorder[l'.val] = g.reorder[l'.val]
      ∧ (g.moveOn l tag y).waiting[l'.val] = g.waiting[l'.val] := by
  have hne : l.val ≠ l'.val := fun e => h (Fin.ext e.symm)
  exact ⟨Vector.getElem_set_ne l.isLt l'.isLt hne, Vector.getElem_set_ne l.isLt l'.isLt hne,
    Vector.getElem_set_ne l.isLt l'.isLt hne⟩

end

/-! ## PARTIAL_RETIRE -/

theorem Group.due_chunk {g : Group} {l : LaneGroup} {k : ChunkTag} {y : Partial} (h : g.due l = some (k, y)) :
    tagChunk g.tag y.pos = some k := by
  unfold Group.due at h
  split at h
  · cases h
  · split at h
    · next hk hy =>
      cases h
      have hpos : (y.pos == _) = true := List.find?_some (p := fun z : Partial => z.pos == _) hy
      exact eq_of_beq hpos ▸ hk
    · cases h

/-- PARTIAL_RETIRE of the partial that is due retires it, once the accumulator word and, at the end of a chunk, the side path
could be read (R52, R57, R357). -/
theorem exec_partialRetire {s : State} {n : CellId} {l : LaneGroup} {tile : TileId} {side : SideIn} {err : Option AccUpset}
    {w : Work} {g : Group} {k : ChunkTag} {y : Partial} {b : Block} {a : Nat × Bool} {c : Cell}
    (hworks : s.cells[n.val].works = true) (hw : s.work n = some w) (hg : s.cells[n.val].group tile = some g)
    (hdue : g.due l = some (k, y)) (hb : s.chunkBlock w g k = some b) (hacc : checkAcc (maskOf err) = some a)
    (hc : c = s.cells[n.val].flipAcc tile (elementOf err) a.1)
    (hside : endsChunk k y.pos = false ∨ ∃ xs, c.sideOf g k b l y.pos.slot side = some (.recs xs)) :
    ∃ xs, exec (.partialRetire n l tile side err) s
      = .next ((s.cellFixed (b2n a.2)).onCell n (fun _ => c.retire l tile g.tag k y xs side)) := by
  subst hc
  by_cases hends : endsChunk k y.pos = false
  · refine ⟨[], ?_⟩
    simp only [exec, execPartialRetire, Fin.getElem_fin, hw, hg, hdue, hb, hworks, hacc, hends, Bool.true_eq_false, if_false,
      if_true]
  · obtain ⟨xs, hxs⟩ := hside.resolve_left hends
    refine ⟨xs, ?_⟩
    simp only [exec, execPartialRetire, Fin.getElem_fin, hw, hg, hdue, hb, hworks, hacc, hends, hxs, Bool.true_eq_false, if_false]

/-! ## The statement -/

/-- Settles O36: a plane step holds its partial and moves no sum; retirement moves its lane group on over sums that keep the
order, and within a Trit5 chunk those sums are the narrow accumulators. -/
theorem partialsRetireInOrder : Obligations.PartialsRetireInOrder := by
  unfold Obligations.PartialsRetireInOrder
  constructor
  · intro s n l x w g k b q r cs hworks hw hg hk hb hq hbad hout
    obtain ⟨d, ns, hd, hgroup, hsteps, hskipped, hlanes, hregions⟩ := Cell.planeStep_takes (c := q.1)
      (by rw [hq, Cell.checkAll_group, hg]) l r w k cs
    rw [hq, Cell.checkAll_planeSteps] at hsteps
    rw [hq, Cell.checkAll_planesSkipped] at hskipped
    rw [hq, Cell.checkAll_lanes] at hlanes
    have hexec := exec_planeStep hworks hw hg hk hb hq hbad hout
    rw [hd] at hexec
    obtain ⟨hothers, hrest, hcounters⟩ := s.cellFixed_onCell_frame q.2.1 n (fun _ => d)
    obtain ⟨t0, ht⟩ := (s.cellFixed q.2.1).onCell_cell n (fun _ => d)
    refine ⟨_, { g.hold l r.2 with clamped := ns }, hexec, hothers, hrest, hcounters, ?_, Cell.planeOut_pos hout,
      g.hold_wide l r.2, g.hold_next l r.2, g.hold_slot l r.2, ?_⟩
    · rw [ht]
      exact hgroup
    · rw [ht]
      exact ⟨hsteps, hskipped, hlanes, hregions⟩
  · intro s n l tile side err w g k y b a c hworks hw hg hdue hb hacc hc hside
    obtain ⟨xs, hexec⟩ := exec_partialRetire hworks hw hg hdue hb hacc hc hside
    obtain ⟨hothers, hrest, hcounters⟩ := s.cellFixed_onCell_frame (b2n a.2) n (fun _ => c.retire l tile g.tag k y xs side)
    obtain ⟨t0, ht⟩ := (s.cellFixed (b2n a.2)).onCell_cell n (fun _ => c.retire l tile g.tag k y xs side)
    obtain ⟨hregions, hgroup⟩ : s.cells[n.val].OrderKept tile (side.lists.map (·.1)) c := hc ▸ Cell.flipAcc_orderKept _ _ _
    obtain ⟨g₁, hg₁, hkept₁⟩ := hgroup g hg
    obtain ⟨g₂, hkept₂, hretired, hregions₂⟩ := Cell.retire_moves hg₁ l g.tag k y xs side
    obtain ⟨-, -, hreorder, hwaiting, hnext⟩ := hkept₁.trans hkept₂
    refine ⟨_, g₂.moveOn l g.tag y, hexec, hothers, hrest, hcounters, ?_, g₂.moveOn_next l g.tag y, ?_,
      g₂.moveOn_slot_length l g.tag y, ?_, ?_, ?_⟩
    · rw [ht]
      exact hretired
    · rw [g₂.moveOn_held, hreorder, hwaiting]
    · intro l' hl
      obtain ⟨hn, hr, hw⟩ := g₂.moveOn_other l g.tag y hl
      exact ⟨by rw [hn, hnext], by rw [hr, hreorder], by rw [hw, hwaiting]⟩
    · intro r hr
      rw [ht]
      exact (hregions₂ r hr).trans (hregions r hr)
    · intro hkind hwidth hin hends hfirst hflips
      have hcell : c = s.cells[n.val] := by rw [hc, hflips, Cell.flipAcc_zero]
      subst hcell
      obtain ⟨ps, p, hnarrow⟩ := Cell.retire_within_trit5 (Group.due_chunk hdue) hkind hwidth hin hends hfirst xs side
      have hsame : g₂.moveOn l g.tag y = g.moveOn l g.tag y := by
        rw [hnarrow] at hretired
        exact Option.some.inj (hretired.symm.trans (Cell.group_updGroup_some hg _ fun _ => rfl))
      constructor
      · rw [ht, hnarrow]
        exact congrArg LaneGrp.narrow (Vector.getElem_set_self _)
      · rw [hsame]
        rfl

end Sys2Proof.Machine
end

section
/-! The proofs about accumulation groups (R60-R64, R78, R80, R86, R87): a group opens on a free tile or waits for it, and the
requantiser writes the oldest closed group's outputs, releases its tile, and lets the opening that waits take place. -/
namespace Sys2Proof.Machine

/-! ## GROUP_OPEN (R78, R80, R86, R87) -/

/-- The tag of an opening is of the work that its operands name (R78). -/
theorem State.groupTag_key {s : State} {w : Work} {n : CellId} {x : OpenIn} {run : List Nat} {tag : GroupTag}
    (h : s.groupTag w n x = some (run, tag)) : tag.key = ⟨x.desc, x.expert, x.matrix, x.block, x.tile⟩ := by
  simp only [State.groupTag] at h
  split at h
  · cases h
  · split at h
    · cases h
    · split at h
      · cases h
      · split at h
        · split at h
          · cases h
          · obtain ⟨ws, -, hws⟩ := Option.map_eq_some_iff.mp h
            cases hws
            rfl
        · cases h

/-- GROUP_OPEN of a working cell, whose sequencer waits for no tile, opens the group that its operands name or lets it wait. -/
theorem exec_groupOpen {s : State} {n : CellId} {pass tb tc : Nat} {x : OpenIn} {w : Work} {run : List Nat} {tag : GroupTag}
    (hworks : s.cells[n.val].works = true) (hwait : s.cells[n.val].waitOpen = none) (hw : s.work n = some w)
    (htag : s.groupTag w n x = some (run, tag)) :
    exec (.groupOpen n pass tb tc x) s = .next (s.onCell n (Cell.openGroup pass tb tc run tag)) := by
  simp [exec, execGroupOpen, hworks, hwait, hw, htag]

/-- On a free tile the opening starts the group (R86). -/
theorem Cell.openGroup_free {c : Cell} {pass tb tc : Nat} (hfree : c.tileHeld (c.nextTile pass tb tc) = false) (run : List Nat)
    (tag : GroupTag) :
    c.openGroup pass tb tc run tag
      = ({ c with opened := assocSet run (tag.key.toks + 1) c.opened } : Cell).startGroup pass (c.nextTile pass tb tc) tag :=
  if_neg (ne_true_of_eq_false hfree)

/-- On a held tile the opening waits for its release (R80). -/
theorem Cell.openGroup_held {c : Cell} {pass tb tc : Nat} (hheld : c.tileHeld (c.nextTile pass tb tc) = true) (run : List Nat)
    (tag : GroupTag) :
    c.openGroup pass tb tc run tag
      = { c with opened := assocSet run (tag.key.toks + 1) c.opened, waitOpen := some (pass, c.nextTile pass tb tc, tag),
                 pass := some pass } :=
  if_pos hheld

/-- A group opens with nothing in any lane group's slots. -/
theorem Group.fresh_slots (tile : TileId) (pass : Nat) (tag : GroupTag) (l : LaneGroup) :
    (Group.fresh tile pass tag).reorder[l.val] = [] ∧ (Group.fresh tile pass tag).waiting[l.val] = none :=
  ⟨Vector.getElem_replicate .., Vector.getElem_replicate ..⟩

/-! ## What a group's requantiser receives and writes (R60-R64, R87) -/

/-- A group that no reduction feeds gives its own sums. -/
theorem State.groupIn_own {s : State} {w : Work} {g : Group} (h : g.tag.tree = false) :
    s.groupIn w g = some ⟨(List.range g.tag.index.length).map g.slotAccs, (List.range g.tag.index.length).map (fun _ => 0), []⟩ :=
  if_pos h

/-- An output without stochastic rounding is the accumulator times channel scale × token scale, rounded (R60-R62). -/
theorem tagY0_eq {t : GroupTag} {slot tw o : Nat} (hst : t.stochastic = false) (hm : t.scales.getD o 0 * tokT tw < 2 ^ 32)
    (acc : Int) : tagY0 t slot tw acc o = roundShift (acc * (t.scales.getD o 0 * tokT tw : Nat)) (t.lsh + tokS tw) none := by
  rw [tagY0, tagRound, digitProduct_digitRecords _ _ hm, hst, if_neg Bool.false_ne_true]

/-- What the requantiser writes for a token slot of work that ends here. -/
theorem Cell.release_outs {g : Group} {x : GroupIn} {base : Option (List (List Int))} {slot : Nat} (hmore : g.tag.more = false)
    (hslot : slot < g.tag.index.length) (c : Cell) :
    (c.release g x base).outs[slot]? = some (formOut (g.tag.outWs.getD slot 16) (x.sats.getD slot 0)
      (g.tag.y0s slot (g.tag.tokWords.getD slot 0) (base.map (fun b => b.getD slot [])) (x.accs.getD slot []))) := by
  simp [Cell.release, hmore, hslot]

/-- A group's own sums leave the requantiser as accumulator × channel scale × token scale, rounded (R60-R64). -/
theorem Cell.release_outs_own {s : State} {w : Work} {g : Group} {x : GroupIn} {slot : Nat} (hx : s.groupIn w g = some x)
    (hslot : slot < g.tag.index.length) (htree : g.tag.tree = false) (hmore : g.tag.more = false)
    (hst : g.tag.stochastic = false) (hm : ∀ o, g.tag.scales.getD o 0 * tokT (g.tag.tokWords.getD slot 0) < 2 ^ 32) (c : Cell) :
    (c.release g x none).outs[slot]?
      = some (formOut (g.tag.outWs.getD slot 16) 0 ((g.slotAccs slot).zipIdx.map (fun a =>
          roundShift (a.1 * (g.tag.scales.getD a.2 0 * tokT (g.tag.tokWords.getD slot 0) : Nat))
            (g.tag.lsh + tokS (g.tag.tokWords.getD slot 0)) none))) := by
  obtain rfl := Option.some.inj ((State.groupIn_own htree).symm.trans hx)
  have haccs : ((List.range g.tag.index.length).map g.slotAccs).getD slot [] = g.slotAccs slot := by simp [hslot]
  have hsats : ((List.range g.tag.index.length).map (fun _ => 0)).getD slot 0 = 0 := by simp [hslot]
  rw [Cell.release_outs hmore hslot, haccs, hsats]
  simp only [Option.map_none, GroupTag.y0s, tagY0_eq hst (hm _)]

theorem lookupD_assocSet {α β : Type} [BEq α] [LawfulBEq α] (d : β) (k : α) (v : β) (xs : List (α × β)) :
    lookupD d k (assocSet k v xs) = v := by
  induction xs with
  | nil => simp [assocSet, lookupD]
  | cons e es ih =>
    unfold assocSet
    split
    · simp [lookupD]
    · next h =>
      rw [lookupD, List.find?_cons_of_neg (by exact h)]
      exact ih

/-! ## The opening that waits (R80) -/

theorem Cell.resume_of_none {c : Cell} (h : c.waitOpen = none) : c.resume = c := by
  simp only [Cell.resume, h]

theorem Cell.resume_of_free {c : Cell} {pass : Nat} {tile : TileId} {tag : GroupTag} (h : c.waitOpen = some (pass, tile, tag))
    (hfree : c.tileHeld tile = false) : c.resume = c.startGroup pass tile tag := by
  simp only [Cell.resume, h, hfree, Bool.false_eq_true, if_false]

/-- An opening that takes place leaves alone what the requantiser wrote, the lane groups and the regions. -/
theorem Cell.resume_keeps (c : Cell) :
    c.resume.outs = c.outs ∧ c.resume.lanes = c.lanes ∧ c.resume.regions = c.regions := by
  unfold Cell.resume
  split
  · split <;> exact ⟨rfl, rfl, rfl⟩
  · exact ⟨rfl, rfl, rfl⟩

/-! ## GROUP_REQUANTISE (R87) -/

/-- A cell at rest or not: only the state of its sequencer and the time stamp of it may change (R111, R112). -/
theorem State.restCell_cell (s : State) (n : CellId) (w : Work) :
    ∃ b t, (s.restCell n w).cells[n.val] = { s.cells[n.val] with base := b, stateTime := t } := by
  unfold State.restCell
  split
  · rw [State.updCell, Vector.getElem_set_self, Cell.setBase]
    split
    · exact ⟨_, _, rfl⟩
    · exact ⟨_, _, rfl⟩
  · exact ⟨_, _, rfl⟩

/-- A released cell may come to rest until the next boundary (R87, R112). -/
theorem State.releaseGroup_cell {s : State} {n : CellId} {w : Work} {g : Group} {x : GroupIn} {base : Option (List (List Int))}
    (hx : s.groupIn w g = some x) (hbase : s.outBase w g = some base) :
    ∃ b t, (s.releaseGroup n w g).cells[n.val] = { (s.cells[n.val].release g x base).resume with base := b, stateTime := t } := by
  obtain ⟨t, ht⟩ := s.onCell_cell n (fun c => (c.release g x base).resume)
  obtain ⟨b, t', ht'⟩ :=
    ((s.onCell n (fun c => (c.release g x base).resume)).tidySums).restCell_cell n w
  refine ⟨b, t', ?_⟩
  simp only [State.releaseGroup, hx, hbase]
  rw [ht', State.tidySums, ht]

theorem State.restCell_only (s : State) (n : CellId) (w : Work) : OnlyCell s (s.restCell n w) n := by
  unfold State.restCell
  split
  · exact s.updCell_only n _
  · exact ⟨fun _ _ => rfl, rfl⟩

/-- The release of a group leaves every other cell alone, and all of the state but its cells and the sums of reductions. -/
theorem State.releaseGroup_frame (s : State) (n : CellId) (w : Work) (g : Group) :
    (∀ m : CellId, m ≠ n → (s.releaseGroup n w g).cells[m.val] = s.cells[m.val])
      ∧ (s.releaseGroup n w g).counters = s.counters
      ∧ { s.releaseGroup n w g with cells := s.cells, moduleSums := s.moduleSums } = s := by
  unfold State.releaseGroup
  split
  · next x base _ _ =>
    have hrest := State.restCell_only ((s.onCell n (fun c => (c.release g x base).resume)).tidySums) n w
    have hcells := s.onCell_only n (fun c => (c.release g x base).resume)
    refine ⟨fun m hm => (hrest.others m hm).trans (hcells.others m hm), ?_, ?_⟩
    · exact (congrArg State.counters hrest.rest :)
    · exact (congrArg (fun u : State => { u with cells := s.cells, moduleSums := s.moduleSums }) hrest.rest :)
  · exact ⟨fun _ _ => rfl, rfl, rfl⟩

/-- GROUP_REQUANTISE of the oldest group, closed and with its sums there, releases it; a corrected bit counts (R87, R357). -/
theorem exec_groupRequantise {s : State} {n : CellId} {w : Work} {g : Group} {gs : List Group} {x : GroupIn}
    {base : Option (List (List Int))} {err : Option AccUpset} {b : Bool} (hworks : s.cells[n.val].works = true)
    (hw : s.work n = some w) (hgs : s.cells[n.val].groups = g :: gs) (hclosed : g.closed = true)
    (hx : s.groupIn w g = some x) (hbase : s.outBase w g = some base)
    (hacc : checkAcc (maskOf (g.upset ⟨g.tile, err⟩)) = some (0, b)) :
    exec (.groupRequantise n ⟨g.tile, err⟩) s = .next ((s.cellFixed (b2n b)).releaseGroup n w g) := by
  simp [exec, execGroupRequantise, hworks, hw, hgs, hclosed, hx, hbase, hacc]

/-! ## The statement -/

/-- Settles O35: an opening starts its group or waits, by whether its tile is held; a release writes the group's outputs, drops it
from the cell, and resumes the opening that its tile kept waiting. -/
theorem groupRules : Obligations.GroupRules := by
  unfold Obligations.GroupRules
  refine ⟨?_, ?_, ?_⟩
  · intro s n pass tb tc x w run tag hworks hwait hw htag hfree
    obtain ⟨t, ht⟩ := s.onCell_cell n (Cell.openGroup pass tb tc run tag)
    rw [Cell.openGroup_free hfree] at ht
    refine ⟨_, Group.fresh (s.cells[n.val].nextTile pass tb tc) pass tag, exec_groupOpen hworks hwait hw htag,
      s.onCell_only n _, ?_⟩
    rw [ht]
    exact ⟨rfl, rfl, rfl, State.groupTag_key htag, rfl, Group.fresh_slots _ _ _, rfl, rfl, rfl, rfl⟩
  · intro s n pass tb tc x w run tag hworks hwait hw htag hheld
    obtain ⟨t, ht⟩ := s.onCell_cell n (Cell.openGroup pass tb tc run tag)
    rw [Cell.openGroup_held hheld] at ht
    refine ⟨_, exec_groupOpen hworks hwait hw htag, s.onCell_only n _, ?_⟩
    rw [ht]
    exact ⟨rfl, rfl, rfl, rfl, rfl⟩
  · intro s n w g gs x base err b hworks hw hgs hclosed hx hbase hacc
    have hdrop : (s.cells[n.val].release g x base).groups = gs := congrArg (List.drop 1) hgs
    obtain ⟨houts, hlanes, hregions⟩ := (s.cells[n.val].release g x base).resume_keeps
    obtain ⟨hothers, hcounters, hrest⟩ := (s.cellFixed (b2n b)).releaseGroup_frame n w g
    obtain ⟨cb, t, ht⟩ := State.releaseGroup_cell (s := s.cellFixed (b2n b)) (n := n) hx hbase
    replace ht : ((s.cellFixed (b2n b)).releaseGroup n w g).cells[n.val]
        = { (s.cells[n.val].release g x base).resume with base := cb, stateTime := t } := ht
    refine ⟨_, exec_groupRequantise hworks hw hgs hclosed hx hbase hacc, hothers,
      (congrArg (fun u : State => { u with counters := s.counters }) hrest :), hcounters, ?_, ?_, ?_, ?_⟩
    · intro hwait
      rw [ht, Cell.resume_of_none (c := s.cells[n.val].release g x base) hwait]
      exact ⟨hdrop, lookupD_assocSet ..⟩
    · intro pass tag hwait hothertiles
      have hfree : (s.cells[n.val].release g x base).tileHeld g.tile = false := by
        rw [Cell.tileHeld, hdrop]
        exact List.any_eq_false.mpr fun y hy => by simpa using hothertiles y hy
      rw [ht, Cell.resume_of_free (c := s.cells[n.val].release g x base) hwait hfree]
      exact ⟨congrArg (· ++ [Group.fresh g.tile pass tag]) hdrop, rfl⟩
    · intro slot hslot htree hmore hnone hst hm
      subst hnone
      rw [ht]
      exact (congrArg (·[slot]?) houts).trans (Cell.release_outs_own hx hslot htree hmore hst hm _)
    · rw [ht]
      exact ⟨hlanes, hregions⟩

end Sys2Proof.Machine
end

section
/-! What changing one region or one updraft engine of a cell does: that one afterwards, and the others as they stood. -/
namespace Sys2Proof.Machine

variable (c : Cell)

@[simp] theorem Cell.updRegion_same (r : RegionId) (f : Region → Region) :
    (c.updRegion r f).regions[r.val] = f c.regions[r.val] := Vector.getElem_set_self _

theorem Cell.updRegion_other {r q : RegionId} (h : q ≠ r) (f : Region → Region) :
    (c.updRegion r f).regions[q.val] = c.regions[q.val] :=
  Vector.getElem_set_ne r.isLt q.isLt fun e => h (Fin.ext e.symm)

@[simp] theorem Cell.updEngine_same (e : EngineId) (f : Updraft → Updraft) :
    (c.updEngine e f).upd[e.val] = f c.upd[e.val] := Vector.getElem_set_self _

end Sys2Proof.Machine
end

section
/-! The proofs about the updraft engines (R98-R101): an entry issues once its whole length fits into the unreserved space of its
region, else the engine waits; a published list starts once the current one is done. -/
namespace Sys2Proof.Machine

/-! ## UPDRAFT_ENTRY_ISSUE (R98, R101) -/

/-- The records that an entry brings reach HBM and nothing else (R186). -/
theorem State.recordsFor_cells (s : State) (w : Option Work) (x : FetchEntry) : (s.recordsFor w x).cells = s.cells := by
  unfold State.recordsFor
  split <;> rfl

theorem State.recordsFor_of_no_gate (s : State) (w : Option Work) {x : FetchEntry} (h : x.gate = none) :
    s.recordsFor w x = s := by
  simp only [State.recordsFor, h]

/-- An engine that waits for space in the region of its next entry (R101). -/
def Updraft.awaitSpace (u : Updraft) : Updraft := { u with waitSpace := true }

section
variable {s : State} {n : CellId} {e : EngineId} {x : FetchEntry} {runs : List (Nat × Nat)}
  (hx : (s.cells[n.val].upd[e.val]).list[(s.cells[n.val].upd[e.val]).pos]? = some x)
  (hhalt : (s.cells[n.val].upd[e.val]).halted = none) (htrap : s.cells[n.val].trapped = false)
  (hprod : (s.cells[n.val].regions[x.region.val]).producer = engineOf e) (hruns : s.fetchRuns (s.work n) x = some runs)
include hx hhalt htrap hprod hruns

/-- An entry whose whole length fits is issued (R101). -/
theorem exec_updraftEntryIssue_fits (hfits : sumN (runs.map (·.2)) ≤ (s.cells[n.val].regions[x.region.val]).unreserved) :
    exec (.updraftEntryIssue n e) s = .next ((s.recordsFor (s.work n) x).onCell n (Cell.issue e x runs)) := by
  simp [exec, execUpdraftEntryIssue, State.issueEntry, hx, hhalt, htrap, hprod, hruns, hfits]

/-- An entry whose whole length does not fit keeps its engine waiting (R101). -/
theorem exec_updraftEntryIssue_full (hfull : (s.cells[n.val].regions[x.region.val]).unreserved < sumN (runs.map (·.2))) :
    exec (.updraftEntryIssue n e) s = .next (s.onCell n (fun c => c.updEngine e Updraft.awaitSpace)) := by
  simp [exec, execUpdraftEntryIssue, State.issueEntry, hx, hhalt, htrap, hprod, hruns, Nat.not_le.mpr hfull]
  rfl

end

/-- An issued entry has moved its engine on, reserved its lines, and has them in flight; no line has come yet (R101). -/
theorem Cell.issue_spec (e : EngineId) (x : FetchEntry) (runs : List (Nat × Nat)) (c : Cell) :
    ((c.issue e x runs).regions[x.region.val]).lines = (c.regions[x.region.val]).lines
      ∧ ((c.issue e x runs).upd[e.val]).pos = (c.upd[e.val]).pos + 1
      ∧ ((c.issue e x runs).regions[x.region.val]).reserved
          = (c.regions[x.region.val]).reserved + sumN (runs.map (·.2))
      ∧ ((c.issue e x runs).upd[e.val]).flight = (c.upd[e.val]).flight
          ++ runs.map (fun r => ⟨x.addr + 64 * r.1, r.2, x.region, x.kind, (c.upd[e.val]).listStep⟩) := by
  simp [Cell.issue]

/-! ## UPDRAFT_LIST_START (R100) -/

theorem Updraft.startNext_of_ready {u : Updraft} (hahead : u.ahead = false) (hhalt : u.halted = none) (hdone : u.done = true)
    (hnext : u.next.isSome = true) : u.startNext = { u with ahead := true, pos := 0, waitSpace := false } :=
  if_pos ⟨hahead, hhalt, hdone, hnext⟩

/-! ## The statement -/

/-- Settles O39: an entry reserves its whole length as it issues, by whether that fits; a published list starts at its first
entry. -/
theorem updraftRules : Obligations.UpdraftRules := by
  unfold Obligations.UpdraftRules
  constructor
  · rintro s n e x runs c rfl hx hhalt htrap hprod hruns
    rcases Nat.lt_or_ge (s.cells[n.val].regions[x.region.val]).unreserved (sumN (runs.map (·.2))) with hfull | hfits
    · obtain ⟨t, ht⟩ := s.onCell_cell n (fun c => c.updEngine e Updraft.awaitSpace)
      have honly := s.onCell_only n (fun c => c.updEngine e Updraft.awaitSpace)
      refine ⟨_, exec_updraftEntryIssue_full hx hhalt htrap hprod hruns hfull, honly.others, ?_,
        fun hfits => absurd hfits (Nat.not_le.mpr hfull), fun _ => ⟨honly, ?_⟩⟩
      · rw [ht, Cell.updEngine_regions]
      · rw [ht]
        exact ⟨rfl, (s.cells[n.val].updEngine_same e Updraft.awaitSpace :)⟩
    · obtain ⟨t, ht⟩ := (s.recordsFor (s.work n) x).onCell_cell n (Cell.issue e x runs)
      have hothers := ((s.recordsFor (s.work n) x).onCell_only n (Cell.issue e x runs)).others
      simp only [State.recordsFor_cells] at ht hothers
      obtain ⟨hlines, hpos, hreserved, hflight⟩ := s.cells[n.val].issue_spec e x runs
      refine ⟨_, exec_updraftEntryIssue_fits hx hhalt htrap hprod hruns hfits, hothers, ?_, fun _ => ?_,
        fun hfull => absurd hfits (Nat.not_le.mpr hfull)⟩
      · rw [ht, hlines]
      · rw [ht]
        refine ⟨hpos, hreserved, hflight, fun hgate => ?_⟩
        rw [State.recordsFor_of_no_gate s _ hgate]
        exact s.onCell_only n _
  · intro s n e hahead hhalt hdone hnext
    obtain ⟨t, ht⟩ := s.onCell_cell n (fun c => c.updEngine e Updraft.startNext)
    refine ⟨_, rfl, s.onCell_only n _, ?_⟩
    rw [ht, Cell.updEngine_same, Updraft.startNext_of_ready hahead hhalt hdone hnext]
    exact ⟨rfl, rfl, rfl, rfl⟩

end Sys2Proof.Machine
end

section
/-! The proofs about scratchpad regions (R84-R94, R98-R101): what a line does to its region as it lands, waits on the handshake or
is taken, and what the cell and its producer hear of it. -/
namespace Sys2Proof.Machine

/-! ## A region's own changes -/

/-- A line for which there is space lands; over a link in credit mode it takes a credit (R92, R94). -/
theorem Region.receive_lands {x : Region} {p : Producer} (hfull : x.full = false)
    (hcredit : p = .ownCell ∨ (x.credit = true → x.credits ≠ 0)) (src : Option CellId) (now : Nat) (step : BitVec 32)
    (line : Bytes) :
    x.receive p src now step line = { x.land ⟨line, none, step⟩ with
      credits := if p ≠ .ownCell ∧ x.credit = true then x.credits - 1 else x.credits } := by
  by_cases hp : p = .ownCell
  · simp [Region.receive, hp, hfull, Region.land]
  · cases hc : x.credit
    · simp [Region.receive, hp, hfull, hc, Region.land]
    · have hcredits := hcredit.resolve_left hp hc
      simp_all [Region.receive]

/-- A line over a link that finds its region full is held, out of credit mode (R93). -/
theorem Region.receive_full {x : Region} {p : Producer} (hp : p ≠ .ownCell) (hfull : x.full = true) (hcredit : x.credit = false)
    (src : Option CellId) (now : Nat) (step : BitVec 32) (line : Bytes) :
    x.receive p src now step line = { x with held := some ⟨line, now, src⟩ } := by
  simp [Region.receive, hp, hfull, hcredit]

/-- The line at TAIL goes and the others stay as they stood; HEAD stays (R90). -/
theorem Region.consume_spec (x : Region) :
    x.consume.lines = x.lines.drop 1 ∧ x.consume.tail = x.tail + 1 ∧ x.consume.head = x.head := by
  simp only [Region.consume]
  split <;> exact ⟨rfl, rfl, rfl⟩

/-! ## Held writes of a cell (R93, R111, R112) -/

theorem any_toList_of_getElem {α : Type} {m : Nat} {xs : Vector α m} {p : α → Bool} {i : Nat} (hi : i < m)
    (h : p xs[i] = true) : xs.toList.any p = true :=
  List.any_eq_true.mpr ⟨_, Vector.mem_toList_iff.mpr (Vector.getElem_mem hi), h⟩

theorem Cell.holds_of_region {c : Cell} {r : RegionId} (h : (c.regions[r.val]).held.isSome = true) : c.holds = true :=
  any_toList_of_getElem r.isLt h

theorem Cell.holds_of_none {c : Cell} (h : ∀ q : RegionId, (c.regions[q.val]).held = none) : c.holds = false := by
  refine List.any_eq_false.mpr fun x hx => ?_
  obtain ⟨i, hi, rfl⟩ := Vector.mem_iff_getElem.mp (Vector.mem_toList_iff.mp hx)
  rw [h ⟨i, hi⟩]
  exact Bool.false_ne_true

/-- Timing the held writes of a cell touches their ticks alone. -/
theorem Cell.timeHold_cell (now : Nat) (c : Cell) : ∃ a b, c.timeHold now = { c with stallTicks := a, stallSince := b } := by
  unfold Cell.timeHold
  split <;> exact ⟨_, _, rfl⟩

theorem Cell.timeHold_of_holds {c : Cell} (h : c.holds = true) (now : Nat) : (c.timeHold now).stallSince.isSome = true := by
  rw [Cell.timeHold, if_pos h]
  cases c.stallSince <;> rfl

theorem Cell.timeHold_of_free {c : Cell} (h : c.holds = false) (now : Nat) :
    c.timeHold now = { c with stallTicks := c.stalled now, stallSince := none } := by
  simp [Cell.timeHold, h]

/-- Does some region hold an output of a cell (R112)? -/
def State.outputHeld (s : State) (n : CellId) : Bool :=
  s.cells.toList.any (fun c => c.regions.toList.any (fun r => r.held.any (fun h => h.src == some n)))

theorem State.markHeld_some (s : State) (n : CellId) :
    s.markHeld (some n) = s.onCell n (fun c => { c with heldOut := s.outputHeld n }) := rfl

/-- The producer of a line that some region holds is HELD (R112). -/
theorem State.markHeld_of_held {s : State} {n m : CellId} {r : RegionId} {h : HeldLine}
    (hheld : (s.cells[n.val].regions[r.val]).held = some h) (hsrc : h.src = some m) :
    ((s.markHeld (some m)).cells[m.val]).heldOut = true := by
  have hout : s.outputHeld m = true :=
    any_toList_of_getElem n.isLt (any_toList_of_getElem r.isLt (by simp [hheld, hsrc]))
  obtain ⟨t, ht⟩ := s.onCell_cell m (fun c => { c with heldOut := s.outputHeld m })
  rw [State.markHeld_some, ht]
  exact hout

/-- One cell changes, and the producer of the line hears whether its output is held: nothing else changes, and the cell itself
is what the change makes of it, but for those two notes (R111, R112). -/
theorem State.onCell_markHeld_frame (s : State) (n : CellId) (f : Cell → Cell) (src : Option CellId) :
    { (s.onCell n f).markHeld src with cells := s.cells } = s
      ∧ (∀ m : CellId, m ≠ n → src ≠ some m → ((s.onCell n f).markHeld src).cells[m.val] = s.cells[m.val])
      ∧ ∃ o t, ((s.onCell n f).markHeld src).cells[n.val] = { f s.cells[n.val] with heldOut := o, stateTime := t } := by
  obtain ⟨t, ht⟩ := s.onCell_cell n f
  have hothers := (s.onCell_only n f).others
  cases src with
  | none => exact ⟨rfl, fun m hm _ => hothers m hm, _, t, ht⟩
  | some k =>
    have hmark := (s.onCell n f).onCell_only k (fun c => { c with heldOut := (s.onCell n f).outputHeld k })
    refine ⟨rfl, fun m hm hk => (hmark.others m fun e => hk (congrArg some e.symm)).trans (hothers m hm), ?_⟩
    by_cases hk : n = k
    · subst hk
      obtain ⟨t', ht'⟩ := (s.onCell n f).onCell_cell n (fun c => { c with heldOut := (s.onCell n f).outputHeld n })
      exact ⟨_, t', ht'.trans (by rw [ht])⟩
    · exact ⟨_, t, (hmark.others n hk).trans ht⟩

/-! ## A line of the mesh, of the seam, or of the cell itself (R85, R90-R94) -/

/-- What a line does to the cell that it reaches. -/
def Cell.takeLine (r : RegionId) (p : Producer) (src : Option CellId) (now : Nat) (line : Bytes) (c : Cell) : Cell :=
  (c.updRegion r (Region.receive p src now c.step line)).timeHold now

/-- A line of 64 bytes from the region's producer, whose way no held line stops, reaches its region (R85, R93). -/
theorem exec_regionLineWrite_unit {s : State} {n : CellId} {r : RegionId} {p : Producer} {src : Option CellId} {line : Bytes}
    (hunit : p = .ownCell ∨ p = .mesh ∨ p = .seam) (hprod : (s.cells[n.val].regions[r.val]).producer = p)
    (hheld : (s.cells[n.val].regions[r.val]).held = none) (hlen : line.length = 64)
    (hway : p = .ownCell ∨ ∀ l ∈ linksTo src n, l ∉ s.heldLinks) :
    exec (.regionLineWrite n r p src line) s = .next ((s.onCell n (Cell.takeLine r p src s.now line)).markHeld src) := by
  have hstop : ¬(p ≠ .ownCell ∧ (linksTo src n).any (fun l => s.heldLinks.contains l) = true) := by
    rintro ⟨hp, hany⟩
    obtain ⟨l, hl, hheldl⟩ := List.any_eq_true.mp hany
    exact hway.resolve_left hp l hl (List.contains_iff_mem.mp hheldl)
  have hwrite : s.unitWrite n r p src line = (s.onCell n (Cell.takeLine r p src s.now line)).markHeld src := by
    have hok : ¬((s.cells[n.val].regions[r.val]).producer ≠ p ∨ (s.cells[n.val].regions[r.val]).held.isSome = true
        ∨ line.length ≠ 64) := by simp [hprod, hheld, hlen]
    exact (if_neg hok).trans (if_neg hstop)
  rw [← hwrite]
  rcases hunit with rfl | rfl | rfl <;> rfl

/-- A line that reaches a cell changes its region, the ticks and notes of what is held, and nothing else (R93, R111, R112). -/
theorem State.takeLine_frame (s : State) (n : CellId) (r : RegionId) (p : Producer) (src : Option CellId) (line : Bytes) :
    ∃ t, (s.onCell n (Cell.takeLine r p src s.now line)).markHeld src = t ∧ { t with cells := s.cells } = s
      ∧ (∀ m : CellId, m ≠ n → src ≠ some m → t.cells[m.val] = s.cells[m.val])
      ∧ ∃ o u a b, t.cells[n.val] = { s.cells[n.val].updRegion r (Region.receive p src s.now s.cells[n.val].step line) with
          heldOut := o, stateTime := u, stallTicks := a, stallSince := b } := by
  obtain ⟨hrest, hothers, o, u, hcell⟩ := s.onCell_markHeld_frame n (Cell.takeLine r p src s.now line) src
  obtain ⟨a, b, htimed⟩ :=
    (s.cells[n.val].updRegion r (Region.receive p src s.now s.cells[n.val].step line)).timeHold_cell s.now
  exact ⟨_, rfl, hrest, hothers, o, u, a, b, hcell.trans (by rw [Cell.takeLine, htimed])⟩

/-- A write that is held stands in its region, its ticks run, and its producer is HELD (R93, R111, R112). -/
theorem State.takeLine_held {s : State} {n : CellId} {r : RegionId} {p : Producer} {src : Option CellId} {line : Bytes}
    {h : HeldLine} (hheld : ((s.cells[n.val].regions[r.val]).receive p src s.now s.cells[n.val].step line).held = some h)
    (hsrc : h.src = src) :
    (((s.onCell n (Cell.takeLine r p src s.now line)).markHeld src).cells[n.val]).stallSince.isSome = true
      ∧ ∀ m : CellId, src = some m →
          (((s.onCell n (Cell.takeLine r p src s.now line)).markHeld src).cells[m.val]).heldOut = true := by
  have hregion : ((s.cells[n.val].updRegion r
      (Region.receive p src s.now s.cells[n.val].step line)).regions[r.val]).held = some h := by
    rw [Cell.updRegion_same, hheld]
  constructor
  · obtain ⟨-, -, o, u, hcell⟩ := s.onCell_markHeld_frame n (Cell.takeLine r p src s.now line) src
    rw [hcell]
    exact Cell.timeHold_of_holds (Cell.holds_of_region (by rw [hregion]; rfl)) s.now
  · rintro m rfl
    refine State.markHeld_of_held (n := n) (r := r) (h := h) ?_ hsrc
    obtain ⟨u, hcell⟩ := s.onCell_cell n (Cell.takeLine r p (some m) s.now line)
    obtain ⟨a, b, htimed⟩ :=
      (s.cells[n.val].updRegion r (Region.receive p (some m) s.now s.cells[n.val].step line)).timeHold_cell s.now
    rw [hcell, Cell.takeLine, htimed]
    exact hregion

/-! ## A line of an updraft engine (R98-R101, R259) -/

theorem lookupD_nil {α β : Type} [BEq α] (d : β) (k : α) : lookupD d k [] = d := rfl

theorem poisonBits_zero (lo : Nat) : poisonBits 0#32 lo = 0 := by simp [poisonBits]

theorem crcDiff_nil (a : Nat) : crcDiff a [] = 0 := by
  have hline : zeros 256 ++ zeros 5 = zeros 261 := List.replicate_append_replicate
  rw [crcDiff, List.foldl_nil, hline, Nat.xor_self]

section
variable {h : Hbm} (hside : h.side = [])
include hside

/-- Side bits that hold no difference stay so. -/
theorem Hbm.setSide_zero (b : Nat) : h.setSide b 0#32 = h := by
  rw [Hbm.setSide, hside]
  exact congrArg (fun x => { h with side := x }) hside.symm

theorem Hbm.checkW_undisturbed (l : Nat) : h.checkW l ⟨[], []⟩ = (h, .pass) := by
  have hclean : decodeW [(2, 0), (1, 0), (0, 0)] = .clean := by decide +kernel
  have hflip : h.flip [] = h := rfl
  simp [Hbm.checkW, dataIn, sideFlips, hside, lookupD_nil, hflip, poisonBits_zero, Hbm.setSide_zero hside, hclean]

theorem Hbm.checkS_undisturbed (b : Nat) : h.checkS b ⟨[], []⟩ = (h, .pass) := by
  have hclean : decodeS [(2, 0), (1, 0), (0, 0)] = .clean := by decide +kernel
  have hflip : h.flip [] = h := rfl
  simp [Hbm.checkS, dataIn, sideFlips, hside, lookupD_nil, hflip, poisonBits_zero, Hbm.setSide_zero hside, hclean]

theorem Hbm.checkA_undisturbed (l : Nat) : h.checkA l ⟨[], []⟩ = (h, .pass) := by
  have hflip : h.flip [] = h := rfl
  simp [Hbm.checkA, dataIn, sideFlips, hside, lookupD_nil, hflip, poisonBits_zero, Hbm.setSide_zero hside, crcDiff_nil]

/-- A word that nothing has disturbed passes its check as it stands, in each class (R255-R259). -/
theorem Hbm.check_undisturbed (w : UnitClass × Nat) : h.check w ⟨[], []⟩ = (h, .pass) := by
  obtain ⟨cls, k⟩ := w
  cases cls with
  | s => exact Hbm.checkS_undisturbed hside k
  | a => exact Hbm.checkA_undisturbed hside k
  | w => exact Hbm.checkW_undisturbed hside k
  | free => exact Hbm.checkW_undisturbed hside k

end

theorem ModCounters.checked_pass (c : ModCounters) (cls : UnitClass) : c.checked cls .pass = c := by
  cases cls <;> rfl

theorem State.checkWords_undisturbed {s : State} (hside : s.hbm.side = []) (ws : List (UnitClass × Nat)) :
    s.checkWords ⟨[], []⟩ ws = (s, []) := by
  induction ws with
  | nil => rfl
  | cons w ws ih =>
    have hword : s.checkWord w ⟨[], []⟩ = (s, .pass) := by
      simp only [State.checkWord, Hbm.check_undisturbed hside, ModCounters.checked_pass]
    simp only [State.checkWords, hword, ih, Checked.isBad, Bool.false_eq_true, if_false]

/-- What the next line of an engine's first entry in flight does to its cell (R99, R101). -/
def Cell.takeFetched (r : RegionId) (e : EngineId) (line : RLine) (c : Cell) : Cell :=
  (c.updRegion r (fun y => { y.land line with reserved := y.reserved - 1 })).updEngine e Updraft.arrive

/-- An engine brings the next line of its first entry in flight, as HBM holds it (R99, R101, R259). -/
theorem exec_regionLineWrite_engine {s : State} {n : CellId} {r : RegionId} {e : EngineId} {x : Flight} {xs : List Flight}
    (hup : s.hbmUp = true) (hside : s.hbm.side = []) (hflight : (s.cells[n.val].upd[e.val]).flight = x :: xs)
    (hregion : x.region = r) (src : Option CellId) (line : Bytes) :
    exec (.regionLineWrite n r (engineOf e) src line) s
      = .next (s.onCell n (Cell.takeFetched r e ⟨s.hbm.read x.addr 64, some x.addr, x.step⟩)) := by
  have hwrite : s.engineWrite n r e
      = s.onCell n (Cell.takeFetched r e ⟨s.hbm.read x.addr 64, some x.addr, x.step⟩) := by
    simp [State.engineWrite, hflight, hregion, hup, State.checkWords_undisturbed hside]
    rfl
  rw [← hwrite]
  match e with
  | 0 => rfl
  | 1 => rfl

theorem Updraft.arrive_of_cons {u : Updraft} {x : Flight} {xs : List Flight} (h : u.flight = x :: xs) :
    u.arrive.flight = if x.lines ≤ 1 then xs else { x with addr := x.addr + 64, lines := x.lines - 1 } :: xs := by
  simp only [Updraft.arrive, h]

/-! ## REGION_LINE_CONSUME (R84, R90, R92, R260) -/

/-- The line at TAIL is taken once a wait covers it, every tile has passed, and it reads clean or corrected. -/
theorem exec_regionLineConsume {s : State} {n : CellId} {r : RegionId} {u : Upset} {line : RLine} {rest : List RLine}
    (hlines : (s.cells[n.val].regions[r.val]).lines = line :: rest)
    (huse : (s.cells[n.val].regions[r.val]).usable s.cells[n.val].step 0 = true) (hpassed : s.linePassed n line = true)
    (hgood : (s.cells[n.val].checkAt (r, 0) u).2.2 = none) :
    exec (.regionLineConsume n r u) s = .next ((s.cellFixed (s.cells[n.val].checkAt (r, 0) u).2.1).onCell n
      (fun _ => (s.cells[n.val].checkAt (r, 0) u).1.updRegion r Region.consume)) := by
  simp [exec, execRegionLineConsume, hlines, huse, hpassed, hgood]

/-- Checking the line at TAIL leaves the others, and every count of the region, as they stood (R260). -/
theorem Cell.checkAt_tail {c : Cell} {r : RegionId} {u : Upset} {line : RLine} {rest : List RLine}
    (hlines : (c.regions[r.val]).lines = line :: rest) :
    ∃ d, (c.checkAt (r, 0) u).1 = c.updRegion r (fun x => { x with lines := d :: rest }) := by
  refine ⟨{ line with data := (checkLine (c.regions[r.val]).kind u (c.lineData (r, 0))).data }, ?_⟩
  simp [Cell.checkAt, Cell.updRegion, hlines]

/-! ## HELD_WRITE_RELEASE and ARRIVAL_WAIT_DONE (R92, R93) -/

/-- At its own time the timebase stands. -/
theorem advance_now {s : State} {t : Nat} (h : s.tb.time = t) : advance t s = s := by
  have hstand : s.tb.advance t = s.tb := if_neg fun ⟨_, hlt, _⟩ => absurd h (Nat.ne_of_lt hlt)
  rw [advance, hstand]

/-- A held line lands, and leaves the write port (R93). -/
def Region.landHeld (line : RLine) (x : Region) : Region := { x.land line with held := none }

/-- What the release of a held line does to its cell (R93). -/
def Cell.releaseHeld (r : RegionId) (now : Nat) (line : Bytes) (c : Cell) : Cell :=
  (c.updRegion r (Region.landHeld ⟨line, none, c.step⟩)).timeHold now

theorem exec_heldWriteRelease {s : State} {n : CellId} {r : RegionId} {t : Nat} {h : HeldLine} (ht : s.tb.time = t)
    (hheld : (s.cells[n.val].regions[r.val]).held = some h) (hfull : (s.cells[n.val].regions[r.val]).full = false) :
    exec (.heldWriteRelease n r t) s = .next ((s.onCell n (Cell.releaseHeld r t h.line)).markHeld h.src) := by
  have hnow : s.now = t := ht
  simp [exec, execHeldWriteRelease, advance_now ht, hheld, hfull, hnow]
  rfl

/-- A released line stands behind the others of its region; the other regions stand (R93). -/
theorem Cell.releaseHeld_regions (r : RegionId) (now : Nat) (line : Bytes) (c : Cell) :
    (c.releaseHeld r now line).regions = (c.updRegion r (Region.landHeld ⟨line, none, c.step⟩)).regions := by
  obtain ⟨a, b, htimed⟩ := (c.updRegion r (Region.landHeld ⟨line, none, c.step⟩)).timeHold_cell now
  rw [Cell.releaseHeld, htimed]

/-- The ticks of the held writes of a cell end with the last of them (R93, R111). -/
theorem Cell.releaseHeld_last {c : Cell} {r : RegionId} (hothers : ∀ q : RegionId, q ≠ r → (c.regions[q.val]).held = none)
    (now : Nat) (line : Bytes) :
    (c.releaseHeld r now line).stallTicks = c.stalled now ∧ (c.releaseHeld r now line).stallSince = none := by
  have hfree : (c.updRegion r (Region.landHeld ⟨line, none, c.step⟩)).holds = false := by
    refine Cell.holds_of_none fun q => ?_
    by_cases hq : q = r
    · subst hq
      rw [Cell.updRegion_same]
      rfl
    · rw [Cell.updRegion_other _ hq, hothers q hq]
  rw [Cell.releaseHeld, Cell.timeHold_of_free hfree]
  exact ⟨rfl, rfl⟩

/-- A region after an arrival wait on a count has completed (R92). -/
def Region.coverWait (k : Nat) (x : Region) : Region := { x with waited := some (Nat.max k (x.waited.getD 0)) }

/-- A wait of a cell that waits for no other region leaves every other region alone (R92). -/
theorem Cell.awaitLines_other (c : Cell) (r : RegionId) (k now : Nat) {q : RegionId} (hq : q ≠ r) :
    (c.awaitLines r k now).regions[q.val] = c.regions[q.val] := by
  unfold Cell.awaitLines
  split
  · rfl
  · split
    · exact (c.updRegion_other hq (Region.coverWait k) :)
    · split <;> rfl

section
variable {c : Cell} {r : RegionId} {k : Nat} (hwait : c.waitRegion = none ∨ c.waitRegion = some r)
include hwait

theorem Cell.not_waits_elsewhere : ¬ (c.waitRegion.any (· != r) = true) := by
  rcases hwait with h | h <;> simp [h]

/-- A wait on a count that ARRIVED has reached is over (R92). -/
theorem Cell.awaitLines_reached (hk : k ≤ (c.regions[r.val]).arrived.toNat) (now : Nat) :
    c.awaitLines r k now = { c.updRegion r (Region.coverWait k) with waitRegion := none, waitTicks := c.waited now } :=
  (if_neg (Cell.not_waits_elsewhere hwait)).trans (if_pos hk)

/-- A wait on a count that ARRIVED has not reached keeps a working cell waiting (R92). -/
theorem Cell.awaitLines_short (hk : (c.regions[r.val]).arrived.toNat < k) (hworks : c.works = true) (now : Nat) :
    (c.awaitLines r k now).waitRegion = some r ∧ (c.awaitLines r k now).regions = c.regions := by
  have hshort : c.awaitLines r k now
      = if c.waitRegion = none ∧ c.works = true then { c with waitRegion := some r, waitSince := now } else c :=
    (if_neg (Cell.not_waits_elsewhere hwait)).trans (if_neg (Nat.not_le.mpr hk))
  rw [hshort]
  rcases hwait with h | h
  · rw [if_pos ⟨h, hworks⟩]
    exact ⟨rfl, rfl⟩
  · rw [if_neg (by simp [h])]
    exact ⟨h, rfl⟩

end

/-! ## The statement -/

/-- Settles O38: each row is one change of one region of its cell, and of the engine or the handshake that the line comes by. -/
theorem regionRules : Obligations.RegionRules := by
  unfold Obligations.RegionRules
  refine ⟨?_, ?_, ?_, ?_, ?_, ?_⟩
  · rintro s n r p src line c x rfl rfl hprod hheld hlen hfull hway
    have hunit : p = .ownCell ∨ p = .mesh ∨ p = .seam := hway.imp_right And.left
    have hfree : p = .ownCell ∨ ∀ l ∈ linksTo src n, l ∉ s.heldLinks := hway.imp_right fun h => h.2.1
    have hcredit := hway.imp_right fun h => h.2.2
    have hlands := Region.receive_lands hfull hcredit src s.now s.cells[n.val].step line
    obtain ⟨t, ht, hrest, hothers, o, u, a, b, hcell⟩ := s.takeLine_frame n r p src line
    refine ⟨t, ht ▸ exec_regionLineWrite_unit hunit hprod hheld hlen hfree, hrest, hothers, ?_⟩
    rw [hcell]
    simp only [Cell.updRegion_same, hlands, Region.land, true_and]
    exact ⟨fun q hq => Cell.updRegion_other _ hq _, rfl, rfl⟩
  · rintro s n r p src line c x rfl rfl hp hprod hheld hlen hfull hcredit hfree
    have hlinked : p ≠ .ownCell := by rcases hp with rfl | rfl <;> decide
    have hreceive := Region.receive_full hlinked hfull hcredit src s.now s.cells[n.val].step line
    obtain ⟨t, ht, hrest, hothers, o, u, a, b, hcell⟩ := s.takeLine_frame n r p src line
    have hnotes := State.takeLine_held (s := s) (congrArg Region.held hreceive) rfl
    rw [ht] at hnotes
    refine ⟨t, ht ▸ exec_regionLineWrite_unit (.inr hp) hprod hheld hlen (.inr hfree), hrest, hothers, ?_, ?_, hnotes⟩
    · rw [hcell]
      exact (Cell.updRegion_same ..).trans hreceive
    · rw [hcell]
      exact fun q hq => Cell.updRegion_other _ hq _
  · intro s n r e src line x xs hup hside hflight hregion
    obtain ⟨t, ht⟩ := s.onCell_cell n (Cell.takeFetched r e ⟨s.hbm.read x.addr 64, some x.addr, x.step⟩)
    refine ⟨_, exec_regionLineWrite_engine hup hside hflight hregion src line, s.onCell_only n _, ?_⟩
    rw [ht]
    simp only [Cell.takeFetched, Cell.updEngine_same, Cell.updEngine_regions, Cell.updRegion_same, Cell.updRegion_upd,
      Updraft.arrive_of_cons hflight, Region.land, true_and]
    exact fun q hq => Cell.updRegion_other _ hq _
  · rintro s n r u line rest c rfl hlines huse hpassed hgood
    obtain ⟨d, hd⟩ := Cell.checkAt_tail (u := u) hlines
    obtain ⟨hothers, hrest, hcounters⟩ := s.cellFixed_onCell_frame (s.cells[n.val].checkAt (r, 0) u).2.1 n
      (fun _ => (s.cells[n.val].checkAt (r, 0) u).1.updRegion r Region.consume)
    obtain ⟨t, ht⟩ := (s.cellFixed (s.cells[n.val].checkAt (r, 0) u).2.1).onCell_cell n
      (fun _ => (s.cells[n.val].checkAt (r, 0) u).1.updRegion r Region.consume)
    obtain ⟨htaken, htail, hhead⟩ := Region.consume_spec { s.cells[n.val].regions[r.val] with lines := d :: rest }
    refine ⟨_, exec_regionLineConsume hlines huse hpassed hgood, hrest, hothers, hcounters, ?_⟩
    rw [ht, hd]
    simp only [Cell.updRegion_same, Cell.updRegion_groups, htaken, htail, hhead, List.drop_one, List.tail_cons, true_and,
      and_true]
    exact fun q hq => (Cell.updRegion_other _ hq _).trans (Cell.updRegion_other _ hq _)
  · rintro s n r t h c ht rfl hheld hfull
    obtain ⟨hrest, hothers, o, u, hcell⟩ := s.onCell_markHeld_frame n (Cell.releaseHeld r t h.line) h.src
    refine ⟨_, exec_heldWriteRelease ht hheld hfull, hrest, hothers, ?_⟩
    rw [hcell]
    simp only [Cell.releaseHeld_regions, Cell.updRegion_same]
    refine ⟨rfl, rfl, fun q hq => Cell.updRegion_other _ hq _, fun t0 ht0 hfree => ?_⟩
    have hticks : s.cells[n.val].stalled t = satAdd s.cells[n.val].stallTicks (t - t0) := by simp only [Cell.stalled, ht0]
    exact hticks ▸ Cell.releaseHeld_last hfree t h.line
  · rintro s n r k t c ht rfl hwait
    obtain ⟨u, hu⟩ := s.onCell_cell n (Cell.awaitLines r k t)
    have hexec : exec (.arrivalWaitDone n r k t) s = .next (s.onCell n (Cell.awaitLines r k t)) := by
      have hnow : s.now = t := ht
      simp only [exec, execArrivalWaitDone, advance_now ht, hnow]
    refine ⟨_, hexec, s.onCell_only n _, ?_⟩
    rw [hu]
    refine ⟨fun q hq => Cell.awaitLines_other _ r k t hq, fun hk => ?_, fun hk hworks => ?_⟩
    · rw [Cell.awaitLines_reached hwait hk]
      refine ⟨rfl, congrArg Region.waited (s.cells[n.val].updRegion_same r (Region.coverWait k)), fun hwaits => ?_⟩
      simp only [Cell.waited, hwaits, Option.isSome_some, if_true]
    · obtain ⟨hwaits, hregions⟩ := Cell.awaitLines_short hwait hk hworks t
      exact ⟨hwaits, by rw [hregions]⟩

end Sys2Proof.Machine
end

section
/-! The proofs about reductions (R105-R108): a die's tree adds up the partials of its leaves, and the hub forms the module sum once
every leaf is in a context. -/
namespace Sys2Proof.Machine

/-! ## The tree of a die (R107) -/

/-- The fixed tree adds up its leaves, whatever the order of its additions. -/
theorem treeSum_eq_sumI (k : Nat) (xs : List Int) (h : xs.length = 2 ^ k) : treeSum k xs = sumI xs := by
  induction k generalizing xs with
  | zero =>
    obtain ⟨x, rfl⟩ := List.length_eq_one_iff.mp h
    simp [treeSum, sumI]
  | succ k ih =>
    have hlen : xs.length = 2 ^ k + 2 ^ k := by rw [h, Nat.pow_succ]; omega
    rw [treeSum, ih _ (by rw [List.length_take]; omega), ih _ (by rw [List.length_drop]; omega), ← sumI_append,
      List.take_append_drop]

theorem sumI_eq_zero {xs : List Int} (h : ∀ x ∈ xs, x = 0) : sumI xs = 0 := by
  induction xs with
  | nil => rfl
  | cons x xs ih =>
    obtain ⟨hx, hxs⟩ := List.forall_mem_cons.mp h
    rw [sumI_cons, hx, ih hxs, Int.zero_add]

/-- One cell of a die alone has a given number. -/
theorem sumI_range_single {n c : Nat} (hc : c < n) (x : Int) :
    sumI ((List.range n).map (fun i => if i = c then x else 0)) = x := by
  induction n with
  | zero => exact absurd hc (Nat.not_lt_zero c)
  | succ n ih =>
    rw [sumI_map_range_succ]
    by_cases hn : n = c
    · have hbelow : sumI ((List.range n).map (fun i => if i = c then x else 0)) = 0 := by
        refine sumI_eq_zero (List.forall_mem_map.mpr fun i hi => if_neg ?_)
        exact hn ▸ Nat.ne_of_lt (List.mem_range.mp hi)
      rw [hbelow, if_pos hn, Int.zero_add]
    · rw [ih (by omega), if_neg hn, Int.add_zero]

/-- Taking the items cell by cell takes each item once. -/
theorem sumI_by_cell {α : Type} (n : Nat) (xs : List (Nat × α)) (f : Nat × α → Int) (h : ∀ p ∈ xs, p.1 < n) :
    sumI ((List.range n).map (fun c => sumI ((xs.filter (fun p => p.1 == c)).map f))) = sumI (xs.map f) := by
  induction xs with
  | nil => exact sumI_eq_zero (List.forall_mem_map.mpr fun _ _ => rfl)
  | cons p xs ih =>
    obtain ⟨hp, hxs⟩ := List.forall_mem_cons.mp h
    have hsplit (c : Nat) : sumI (((p :: xs).filter (fun p => p.1 == c)).map f)
        = (if c = p.1 then f p else 0) + sumI ((xs.filter (fun p => p.1 == c)).map f) := by
      by_cases hc : c = p.1
      · rw [List.filter_cons, if_pos (beq_iff_eq.mpr hc.symm), List.map_cons, sumI_cons, if_pos hc]
      · rw [List.filter_cons, if_neg fun h => hc (beq_iff_eq.mp h).symm, if_neg hc, Int.zero_add]
    simp only [hsplit, sumI_map_add, sumI_range_single hp, ih hxs, List.map_cons, sumI_cons]

theorem le_maxN {x : Nat} {xs : List Nat} (h : x ∈ xs) : x ≤ maxN xs := by
  have hfold (ys : List Nat) (a : Nat) : a ≤ ys.foldl Nat.max a ∧ ∀ y ∈ ys, y ≤ ys.foldl Nat.max a := by
    induction ys generalizing a with
    | nil => exact ⟨Nat.le_refl a, fun _ hy => nomatch hy⟩
    | cons y ys ih =>
      obtain ⟨hacc, hmem⟩ := ih (Nat.max a y)
      exact ⟨Nat.le_trans (Nat.le_max_left a y) hacc,
        List.forall_mem_cons.mpr ⟨Nat.le_trans (Nat.le_max_right a y) hacc, hmem⟩⟩
  exact (hfold xs 0).2 x h

/-- Past the end of a list its places read 0. -/
theorem getD_of_length_le {xs : List Int} {i : Nat} (h : xs.length ≤ i) : xs.getD i 0 = 0 := by
  rw [List.getD_eq_getElem?_getD, List.getElem?_eq_none h, Option.getD_none]

/-- A die's sum at a place is the sum of what the cells' partials hold there (R107). -/
theorem dieSums_getD (ps : List (Nat × List Int)) (h : ∀ p ∈ ps, p.1 < 64) (i : Nat) :
    (dieSums ps).getD i 0 = sumI (ps.map (fun p => p.2.getD i 0)) := by
  rcases Nat.lt_or_ge i (maxN (ps.map (·.2.length))) with hi | hi
  · simp only [dieSums, List.getD_eq_getElem?_getD, List.getElem?_map, List.getElem?_range hi, Option.map_some,
      Option.getD_some]
    rw [treeSum_eq_sumI 6 _ (by simp), sumI_by_cell 64 ps _ h]
  · have hlen : (dieSums ps).length = maxN (ps.map (·.2.length)) := by
      rw [dieSums, List.length_map, List.length_range]
    rw [getD_of_length_le (hlen ▸ hi), sumI_eq_zero]
    exact List.forall_mem_map.mpr fun p hp =>
      getD_of_length_le (Nat.le_trans (le_maxN (List.mem_map_of_mem (f := (·.2.length)) hp)) hi)

/-- The cells of a die are numbered below 64. -/
theorem State.leafGroups_cell_lt {s : State} {st : Stage} {die : Nat} {k : GroupKey} :
    ∀ g ∈ s.leafGroups st die k, g.1 < 64 := by
  intro g hg
  obtain ⟨n, -, hn⟩ := List.mem_flatMap.mp hg
  split at hn
  · obtain ⟨y, -, rfl⟩ := List.mem_map.mp hn
    exact Nat.mod_lt _ (by decide)
  · cases hn

/-- A die's reduction is of the work asked for, and holds the sums of its leaves' partials through the die's tree. -/
theorem State.dieReduction_some {s : State} {w : Work} {die : Fin 2} {tile : TileId} {k : GroupKey} {r : Reduction}
    (h : s.dieReduction w die tile k = some r) :
    r.key = k ∧ r.sums = dieSums ((s.leafGroups w.stage die.val k).map (fun g => (g.1, g.2.partials.1))) := by
  simp only [State.dieReduction] at h
  split at h
  · cases h
    exact ⟨rfl, congrArg dieSums (List.map_map ..)⟩
  · cases h

/-! ## Sums out of the contexts (R107, R108) -/

theorem joinReds_sums {x y : Reduction} (h : x.sums.length = y.sums.length) :
    (joinReds x y).sums = List.zipWith (· + ·) x.sums y.sums := by
  simp only [joinReds]
  split
  · next hy =>
    rw [hy] at h ⊢
    rw [List.length_eq_zero_iff.mp h]
    rfl
  · rfl

/-- The module sums that the contexts are ready to form (R107). -/
def State.readySums (s : State) : List Reduction :=
  (((s.contexts[0] ++ s.contexts[1]).map (·.key)).eraseDups).filterMap s.joined

theorem State.formSums_of_ready {s : State} {ys : List Reduction} (h : s.readySums = ys) :
    s.formSums = { s with
      moduleSums := s.moduleSums ++ ys,
      contexts := s.contexts.map (fun xs => xs.filter (fun r => !(ys.any (fun y => y.key == r.key)))) } := by
  subst h
  rfl

theorem State.formSums_of_none {s : State} (h : s.readySums = []) : s.formSums = s := by
  have hkept : s.contexts.map (fun xs => xs.filter (fun r => !(([] : List Reduction).any (fun y => y.key == r.key))))
      = s.contexts := by
    refine Vector.ext fun d hd => ?_
    rw [Vector.getElem_map, List.filter_eq_self]
    exact fun _ _ => rfl
  rw [State.formSums_of_ready h, hkept, List.append_nil]

theorem State.formSums_of_idle {s : State} (h : s.contexts = Vector.replicate 2 []) : s.formSums = s :=
  State.formSums_of_none (by simp [State.readySums, h])

section
variable {s : State} {k : GroupKey} {g : Group} {x : Reduction} {rest : List Reduction}
  (hctx : s.contexts[0] ++ s.contexts[1] = x :: rest) (hkey : ∀ y ∈ x :: rest, y.key = k) (hgroup : s.groupOf k = some g)
include hctx hkey

/-- One work's reductions join into its module sum once they hold every leaf (R107). -/
theorem State.joined_of_one_work (hgroup : s.groupOf k = some g) :
    s.joined k = if (rest.foldl joinReds x).leaves.length = g.tag.leaves then some (rest.foldl joinReds x) else none := by
  have hall : (s.contexts[0] ++ s.contexts[1]).filter (fun r => r.key == k) = x :: rest := by
    rw [hctx, List.filter_eq_self]
    exact fun y hy => beq_iff_eq.mpr (hkey y hy)
  simp only [State.joined, hall, hgroup]

theorem State.readySums_of_one_work (hgroup : s.groupOf k = some g) :
    s.readySums = if (rest.foldl joinReds x).leaves.length = g.tag.leaves then [rest.foldl joinReds x] else [] := by
  have hkeys : (s.contexts[0] ++ s.contexts[1]).map (·.key) = k :: List.replicate rest.length k := by
    rw [hctx, List.map_eq_replicate_iff.mpr hkey]
    rfl
  have hdups : (((s.contexts[0] ++ s.contexts[1]).map (·.key)).eraseDups) = [k] := by
    rw [hkeys, List.eraseDups_cons]
    simp
  have hjoined := State.joined_of_one_work hctx hkey hgroup
  rw [State.readySums, hdups]
  split
  · next hleaves =>
    rw [if_pos hleaves] at hjoined
    rw [List.filterMap_cons_some hjoined, List.filterMap_nil]
  · next hleaves =>
    rw [if_neg hleaves] at hjoined
    rw [List.filterMap_cons_none hjoined, List.filterMap_nil]

/-- The hub forms the sum of the one work that stands in the contexts, and frees them (R107, R108). -/
theorem State.formSums_complete (hgroup : s.groupOf k = some g)
    (hleaves : (rest.foldl joinReds x).leaves.length = g.tag.leaves) (hsum : (rest.foldl joinReds x).key = k) :
    s.formSums = { s with moduleSums := s.moduleSums ++ [rest.foldl joinReds x], contexts := Vector.replicate 2 [] } := by
  have hready := State.readySums_of_one_work hctx hkey hgroup
  rw [if_pos hleaves] at hready
  have hfreed : s.contexts.map (fun xs => xs.filter (fun r => !([rest.foldl joinReds x].any (fun y => y.key == r.key))))
      = Vector.replicate 2 [] := by
    refine Vector.ext fun d hd => ?_
    have hmem : ∀ r ∈ s.contexts[d], r.key = k := by
      intro r hr
      refine hkey r (hctx ▸ List.mem_append.mpr ?_)
      match d, hd, hr with
      | 0, _, hr => exact .inl hr
      | 1, _, hr => exact .inr hr
    rw [Vector.getElem_map, Vector.getElem_replicate, List.filter_eq_nil_iff]
    intro r hr
    simp [hsum, hmem r hr]
  rw [State.formSums_of_ready hready, hfreed]

/-- Nothing is formed while a leaf is missing (R107). -/
theorem State.formSums_incomplete (hgroup : s.groupOf k = some g)
    (hleaves : (rest.foldl joinReds x).leaves.length ≠ g.tag.leaves) : s.formSums = s :=
  State.formSums_of_none ((State.readySums_of_one_work hctx hkey hgroup).trans (if_neg hleaves))

end

/-! ## A reduction takes a context (R108) -/

/-- With no reduction waiting none is let in. -/
theorem State.admitReds_of_none {s : State} (h : s.waitingReds = Vector.replicate 2 []) : s.admitReds = s := by
  have hctx : Vector.ofFn (fun d : Fin 2 => s.contexts[d] ++ (s.waitingReds[d]).take (4 - s.contexts[d].length))
      = s.contexts := Vector.ext fun d hd => by simp [h]
  have hwait : Vector.ofFn (fun d : Fin 2 => (s.waitingReds[d]).drop (4 - s.contexts[d].length)) = s.waitingReds :=
    Vector.ext fun d hd => by simp [h]
  rw [State.admitReds, hctx, hwait]

/-- A state with one more reduction in a die's context. -/
def State.withRed (s : State) (die : Fin 2) (r : Reduction) : State :=
  { s with contexts := s.contexts.set die.val (s.contexts[die.val] ++ [r]) die.isLt }

theorem State.withRed_same (s : State) (die : Fin 2) (r : Reduction) :
    (s.withRed die r).contexts[die.val] = s.contexts[die.val] ++ [r] := Vector.getElem_set_self _

theorem State.withRed_other (s : State) (die : Fin 2) (r : Reduction) :
    (s.withRed die r).contexts[1 - die.val] = s.contexts[1 - die.val] :=
  Vector.getElem_set_ne die.isLt (by omega) (by omega)

/-- A reduction in its die's free tree stands in the die's place: before what die 1 gives, behind what die 0 gives (R107). -/
theorem State.withRed_contexts {s : State} {die : Fin 2} (r : Reduction) (hfree : s.contexts[die.val] = []) :
    (s.withRed die r).contexts[0] ++ (s.withRed die r).contexts[1]
      = if die = 0 then r :: s.contexts[1 - die.val] else s.contexts[1 - die.val] ++ [r] := by
  have hsame := s.withRed_same die r
  have hother := s.withRed_other die r
  rw [hfree, List.nil_append] at hsame
  match die, hsame, hother with
  | 0, hsame, hother => exact (congrArg (· ++ (s.withRed 0 r).contexts[1]) hsame).trans (congrArg ([r] ++ ·) hother)
  | 1, hsame, hother => exact (congrArg (· ++ (s.withRed 1 r).contexts[1]) hother).trans (congrArg (s.contexts[0] ++ ·) hsame)

/-- A reduction that finds its die's tree free takes a context at once (R108). -/
theorem State.admitReds_one {s : State} {die : Fin 2} (r : Reduction) (hwait : s.waitingReds = Vector.replicate 2 [])
    (hfree : s.contexts[die.val] = []) :
    ({ s with waitingReds := s.waitingReds.set die.val (s.waitingReds[die] ++ [r]) die.isLt } : State).admitReds
      = s.withRed die r := by
  have hctx : Vector.ofFn (fun d : Fin 2 => s.contexts[d]
      ++ ((s.waitingReds.set die.val (s.waitingReds[die] ++ [r]) die.isLt)[d]).take (4 - s.contexts[d].length))
      = s.contexts.set die.val (s.contexts[die.val] ++ [r]) die.isLt := by
    refine Vector.ext fun d hd => ?_
    by_cases hdie : die.val = d
    · subst hdie
      simp [hwait, hfree]
    · simp [hwait, hdie, Vector.getElem_set]
  have hnone : Vector.ofFn (fun d : Fin 2 =>
      ((s.waitingReds.set die.val (s.waitingReds[die] ++ [r]) die.isLt)[d]).drop (4 - s.contexts[d].length))
      = s.waitingReds := by
    refine Vector.ext fun d hd => ?_
    by_cases hdie : die.val = d
    · subst hdie
      simp [hwait, hfree]
    · simp [hwait, hdie, Vector.getElem_set]
  rw [State.admitReds, State.withRed]
  dsimp only
  rw [hctx, hnone]

/-- Sums that go out to other ranks change streams, outputs and the step's note of them alone. -/
theorem State.offerSums_shape (s : State) (j : Job) (x : Step) :
    ∃ b js, s.offerSums j x = { s.withStream b with jobs := js } := by
  obtain ⟨b, hb⟩ := s.send_shape
    ((inTurn (stepCtx j x s.draws) (sortBy (fun a b => decide (a.1 ≤ b.1)) (s.sumSends (stepCtx j x s.draws))) x.sent).drop
      x.sent.length)
  exact ⟨b, _, by simp only [State.offerSums, hb]; rfl⟩

/-- A reduction that finds no other waiting takes a context; the hub then forms what sums it can (R107, R108). -/
theorem State.startRed_free {s : State} {w : Work} {die : Fin 2} {r : Reduction} (hwait : s.waitingReds = Vector.replicate 2 [])
    (hfree : s.contexts[die.val] = []) (hformed : (s.withRed die r).formSums.formSums = (s.withRed die r).formSums) :
    ∃ b js, s.startRed w die r = { (s.withRed die r).formSums.withStream b with jobs := js } := by
  have hcount : ((s.waitingReds.set die.val (s.waitingReds[die] ++ [r]) die.isLt)[0]).length
      + ((s.waitingReds.set die.val (s.waitingReds[die] ++ [r]) die.isLt)[1]).length = 1 := by
    match die with
    | 0 => simp [hwait]
    | 1 => simp [hwait]
  have hrun : State.runReds 1 (s.withRed die r) = (s.withRed die r).formSums := by
    rw [State.runReds, State.runReds, State.admitReds_of_none (s := (s.withRed die r).formSums) hwait, hformed]
  obtain ⟨b, js, hoffer⟩ := (s.withRed die r).formSums.offerSums_shape w.job w.step
  refine ⟨b, js, ?_⟩
  simp only [State.startRed, hcount, State.admitReds_one r hwait hfree, hrun, hoffer]

section
variable {s : State} {w : Work} {die : Fin 2} {k : GroupKey} {r x : Reduction} {rest : List Reduction} {g : Group}
  (hwait : s.waitingReds = Vector.replicate 2 []) (hfree : s.contexts[die.val] = [])
  (hctx : (s.withRed die r).contexts[0] ++ (s.withRed die r).contexts[1] = x :: rest) (hkey : ∀ y ∈ x :: rest, y.key = k)
  (hgroup : s.groupOf k = some g)
include hwait hfree hctx hkey hgroup

/-- A reduction that brings the last leaf ends in the module sum of its work, and every context is free (R107, R108). -/
theorem State.startRed_complete (hleaves : (rest.foldl joinReds x).leaves.length = g.tag.leaves)
    (hsum : (rest.foldl joinReds x).key = k) :
    ∃ b js, s.startRed w die r = { s.withStream b with
      jobs := js, moduleSums := s.moduleSums ++ [rest.foldl joinReds x], contexts := Vector.replicate 2 [] } := by
  have hformed := State.formSums_complete hctx hkey hgroup hleaves hsum
  have hidle : (s.withRed die r).formSums.formSums = (s.withRed die r).formSums :=
    State.formSums_of_idle (congrArg State.contexts hformed)
  obtain ⟨b, js, hstart⟩ := State.startRed_free (w := w) hwait hfree hidle
  exact ⟨b, js, by rw [hstart, hformed]; rfl⟩

/-- A reduction that leaves some leaf missing keeps its context (R107, R108). -/
theorem State.startRed_incomplete (hleaves : (rest.foldl joinReds x).leaves.length ≠ g.tag.leaves) :
    ∃ b js, s.startRed w die r = { (s.withRed die r).withStream b with jobs := js } := by
  have hformed := State.formSums_incomplete hctx hkey hgroup hleaves
  obtain ⟨b, js, hstart⟩ := State.startRed_free (w := w) (s := s) (r := r) hwait hfree (by rw [hformed, hformed])
  exact ⟨b, js, by rw [hstart, hformed]⟩

end

/-! ## REDUCTION_CONTEXT_START (R106-R108, R357) -/

/-- A reduction whose leaves have all closed starts, once what it reads of them is clean or corrected (R108, R357). -/
theorem exec_reductionContextStart {s : State} {die : Fin 2} {stage : Nat} {tile : TileId} {n : CellId} {e : AccRead} {w : Work}
    {k : GroupKey} {r : Reduction} {b : Bool} (hw : s.stageWork stage = some w)
    (hk : s.closedOn w.stage die.val tile = some k) (hr : s.dieReduction w die tile k = some r)
    (hnew : hasRed r (s.contexts[die.val] ++ s.waitingReds[die.val]) = false) (hsums : ∀ x ∈ s.moduleSums, x.key ≠ k)
    (hacc : checkAcc (maskOf (s.leafUpset w.stage die.val k n e)) = some (0, b)) :
    exec (.reductionContextStart die stage tile n e) s = .next ((s.cellFixed (b2n b)).startRed w die r) := by
  have hnone : s.moduleSums.any (fun x => x.key == k) = false := by
    rw [List.any_eq_false]
    exact fun x hx => by simpa using hsums x hx
  have hagain : (s.cellFixed (b2n b)).dieReduction w die tile k = some r := hr
  simp [exec, execReductionContextStart, hw, hk, hr, hnew, hnone, hacc, hagain]

/-! ## The statement -/

/-- Settles O37: a reduction that finds its die's tree free takes a context and, where it brings the last leaf, its work's module
sum is formed at once; a die's tree adds up the partials of its leaves. -/
theorem reductionSums : Obligations.ReductionSums := by
  unfold Obligations.ReductionSums
  refine ⟨?_, ?_, ?_⟩
  · intro s die stage tile w k r g n e b hw hk hr hctx hwait hsums hgroup hacc
    have hkey := (State.dieReduction_some hr).1
    have hfree : s.contexts[die.val] = [] := by simp [hctx]
    have hexec := exec_reductionContextStart hw hk hr (by simp [hctx, hwait, hasRed]) hsums hacc
    have hone : ((s.cellFixed (b2n b)).withRed die r).contexts[0] ++ ((s.cellFixed (b2n b)).withRed die r).contexts[1] = [r] := by
      rw [State.withRed_contexts (s := s.cellFixed (b2n b)) r hfree]
      simp [State.cellFixed, hctx]
    by_cases hleaves : r.leaves.length = g.tag.leaves
    · obtain ⟨c, js, hstart⟩ := State.startRed_complete (w := w) (s := s.cellFixed (b2n b)) hwait hfree hone
        (by simpa using hkey) hgroup hleaves hkey
      refine ⟨_, hexec.trans (congrArg _ hstart), ?_⟩
      rw [if_pos hleaves]
      exact ⟨⟨rfl, hctx.symm⟩, rfl, rfl, rfl, rfl⟩
    · obtain ⟨c, js, hstart⟩ := State.startRed_incomplete (w := w) (s := s.cellFixed (b2n b)) hwait hfree hone
        (by simpa using hkey) hgroup hleaves
      refine ⟨_, hexec.trans (congrArg _ hstart), ?_⟩
      rw [if_neg hleaves]
      refine ⟨⟨rfl, ?_, ?_⟩, rfl, rfl, rfl, rfl⟩
      · exact ((s.cellFixed (b2n b)).withRed_same die r).trans (congrArg (· ++ [r]) hfree)
      · exact ((s.cellFixed (b2n b)).withRed_other die r).trans (by simp [State.cellFixed, hctx])
  · intro s die stage tile w k r x g n e b hw hk hr hfree hother hwait hsums hgroup hxkey hlen hleaves hacc
    have hkey := (State.dieReduction_some hr).1
    have hexec := exec_reductionContextStart hw hk hr (by simp [hfree, hwait, hasRed]) hsums hacc
    have hboth := State.withRed_contexts (s := s.cellFixed (b2n b)) r hfree
    rw [show (s.cellFixed (b2n b)).contexts[1 - die.val] = [x] from hother] at hboth
    by_cases hdie : die = 0
    · rw [if_pos hdie] at hboth
      obtain ⟨c, js, hstart⟩ := State.startRed_complete (w := w) (s := s.cellFixed (b2n b)) hwait hfree hboth
        (by simp [hkey, hxkey]) hgroup (by simpa [joinReds, Nat.add_comm] using hleaves) hkey
      refine ⟨_, joinReds r x, hexec.trans (congrArg _ hstart), rfl, hkey, ?_, rfl, rfl, rfl, rfl, rfl⟩
      rw [joinReds_sums hlen.symm, List.zipWith_comm_of_comm Int.add_comm]
    · rw [if_neg hdie] at hboth
      obtain ⟨c, js, hstart⟩ := State.startRed_complete (w := w) (s := s.cellFixed (b2n b)) hwait hfree hboth
        (by simp [hkey, hxkey]) hgroup (by simpa [joinReds] using hleaves) hxkey
      exact ⟨_, joinReds x r, hexec.trans (congrArg _ hstart), rfl, hxkey, joinReds_sums hlen, rfl, rfl, rfl, rfl, rfl⟩
  · intro s die tile w k r i hr
    obtain ⟨hkey, hsums⟩ := State.dieReduction_some hr
    refine ⟨hkey, ?_⟩
    rw [hsums, dieSums_getD _ (List.forall_mem_map.mpr State.leafGroups_cell_lt), List.map_map]
    rfl

end Sys2Proof.Machine
end

section
/-! The refutation of O40. An accumulator word of a reduction that stays bad kills the step of the job that the cell with the word
serves (R357); the statement asks for the kill of the step that the reduction is of, and nothing in it ties the two: in a state
where a cell of the stage holds a closed leaf but serves no job, the step runs on. -/
namespace Sys2Proof.Machine

/-! ## An uncorrectable word that a reduction reads (R357) -/

/-- A bad word of a cell that serves no job kills no job's step. -/
theorem State.accError_jobs_of_no_job {s : State} {n : CellId} (h : s.cells[n.val].job = none) (tile : TileId)
    (err : Option AccUpset) : (s.accError n tile err).jobs = s.jobs := by
  simp [State.accError, State.cellMemory, State.killCell, h]

/-- A reduction that meets an uncorrectable word of a leaf does not start (R108, R357). -/
theorem exec_reductionContextStart_bad {s : State} {die : Fin 2} {stage : Nat} {tile : TileId} {n : CellId} {x : AccRead}
    {w : Work} {k : GroupKey} {r : Reduction} (hw : s.stageWork stage = some w)
    (hk : s.closedOn w.stage die.val tile = some k) (hr : s.dieReduction w die tile k = some r)
    (hnew : hasRed r (s.contexts[die.val] ++ s.waitingReds[die.val]) = false) (hsums : ∀ y ∈ s.moduleSums, y.key ≠ k)
    (hbad : checkAcc (maskOf (s.leafUpset w.stage die.val k n x)) = none) :
    exec (.reductionContextStart die stage tile n x) s
      = .next (s.accError n x.tile (s.leafUpset w.stage die.val k n x)) := by
  have hnone : s.moduleSums.any (fun y => y.key == k) = false := by
    rw [List.any_eq_false]
    exact fun y hy => by simpa using hsums y hy
  simp [exec, execReductionContextStart, hw, hk, hr, hnew, hnone, hbad]

/-! ## A state where the step runs on -/

namespace StrayLeaf

/-- Stage 0 on cells 5 and 6. -/
def stage : Stage := ⟨0, 0, [5, 6], 0, false⟩

/-- A graph with no descriptor. -/
def graph : Graph := ⟨1, 0, false, 9, 0, 64, 16, 64, 0, []⟩

/-- Step 3, running. -/
def step : Step := Step.fresh 3 .round false [] [] [] [] ⟨graph, [], [], [], []⟩ 0

/-- Job 7 of one rank, with that step in flight on that stage. -/
def job : Job :=
  { handle := 7, part := 0, gref := 1, dref := none, nRanks := 1, rank := 0, period := 18750, phase := 0, openTime := 0,
    members := [], kvTokens := 0, planVersion := 1, planCrc := 0, cfg := JobCfg.default, seqs := [], direct := [], pools := [],
    frames := [], descs := [], nextStep := 4, lastCommitted := none, step := some step,
    serving := ⟨none, [], [], none, [], 0, (0, 0)⟩,
    layout := ⟨[stage], 0, 0, 0, none, [], 2, false, ⟨0, 0, 0⟩, ⟨0, 0, 0⟩, []⟩, prog := .installed, credit := false,
    lost := false, seqLost := [], lastBoundary := none }

def key : GroupKey := ⟨0, 0, 0, 0, 0⟩

/-- The one leaf of that work, on tile 0; its only promotion window is over. -/
def leaf : Group := Group.fresh 0 0
  { key := key, leaf := 0, leaves := 1, tree := true, across := false, windows := [], outWs := [], tscale := false, lsh := 0,
    scales := [], tokWords := [], shifts := [], index := [], seqIds := [], positions := [], stochastic := false, more := false,
    rows := [] }

/-- Cell 5 runs the step of job 7; cell 6 serves no job and holds the leaf. -/
def state : State :=
  { State.reset with
    jobs := [job]
    cells := (State.reset.cells.set 5 { Cell.reset with base := .running, job := some 7, stage := some 0, step := 3 }).set 6
      { Cell.reset with groups := [leaf] } }

def work : Work := ⟨job, step, stage, stepCtx job step 0⟩

/-- Two flipped bits of element 0 of the leaf's tile. -/
def upset : AccUpset := ⟨0, 3⟩

theorem stageWork_eq : state.stageWork 0 = some work := by decide +kernel
theorem closedOn_eq : state.closedOn work.stage 0 0 = some key := by decide +kernel
theorem leafUpset_eq : state.leafUpset work.stage 0 key 6 ⟨0, some upset⟩ = some upset := by decide +kernel
theorem dieReduction_isSome : (state.dieReduction work 0 0 key).isSome = true := by decide +kernel
theorem checkAcc_eq : checkAcc upset.mask = none := by decide +kernel
theorem job_eq : state.job 7 = some job := by decide +kernel

end StrayLeaf

/-! ## The statement -/

open StrayLeaf in
/-- Refutes O40: in the clause on reductions, the cell with the bad word need not serve the job of the reduction's step. Where it
serves none, nothing is killed. -/
theorem not_cellFaults : ¬ Obligations.CellFaults := by
  unfold Obligations.CellFaults
  intro h
  obtain ⟨-, -, -, -, -, -, -, -, -, -, hreduction, -⟩ := h
  obtain ⟨r, hr⟩ := Option.isSome_iff_exists.mp dieReduction_isSome
  have hnew : hasRed r (state.contexts[(0 : Fin 2).val] ++ state.waitingReds[(0 : Fin 2).val]) = false := rfl
  have hsums : ∀ y ∈ state.moduleSums, y.key ≠ key := fun y hy => nomatch hy
  obtain ⟨t, j, z, hnext, -, hjob, hstep, hkilled, -⟩ :=
    hreduction state 0 0 0 6 ⟨0, some upset⟩ work key r upset stageWork_eq closedOn_eq hr hnew hsums leafUpset_eq checkAcc_eq
      (by decide)
  have hbad : checkAcc (maskOf (state.leafUpset work.stage 0 key 6 ⟨0, some upset⟩)) = none := by
    rw [leafUpset_eq]
    exact checkAcc_eq
  have hexec := exec_reductionContextStart_bad (die := 0) stageWork_eq closedOn_eq hr hnew hsums hbad
  have hruns : t.job 7 = some StrayLeaf.job := by
    cases hexec.symm.trans hnext
    rw [State.job, State.accError_jobs_of_no_job rfl]
    exact job_eq
  cases hruns.symm.trans hjob
  cases hstep
  cases hkilled

end Sys2Proof.Machine
end

section
/-! The proofs about the division of a descriptor's units over the ranks (R151). -/
namespace Sys2Proof.Machine

/-- A rounded-up quotient is the least number whose multiple reaches the dividend. -/
theorem ceilDiv_le_iff {n : Nat} (hn : 0 < n) (a u : Nat) : ceilDiv a n ≤ u ↔ a ≤ n * u := by
  rw [ceilDiv, ← Nat.lt_succ_iff, Nat.div_lt_iff_lt_mul hn, Nat.succ_mul, Nat.mul_comm u n]
  omega

section
variable {n : Nat} (hn : 0 < n) (U r : Nat)
include hn

/-- A rank's run begins at the first unit whose share of the line reaches the rank's (R151). -/
theorem unitsOf_first_le_iff (u : Nat) : (unitsOf U n r).1 ≤ u ↔ r * U ≤ n * u := ceilDiv_le_iff hn (r * U) u

theorem mul_le_mul_unitsOf_first : r * U ≤ n * (unitsOf U n r).1 :=
  (unitsOf_first_le_iff hn U r _).mp (Nat.le_refl _)

/-- A rank's run ends where the run of the next rank begins (R151). -/
theorem unitsOf_end : (unitsOf U n r).1 + (unitsOf U n r).2 = (unitsOf U n (r + 1)).1 :=
  Nat.add_sub_cancel' ((unitsOf_first_le_iff hn U r _).mpr
    (Nat.le_trans (Nat.mul_le_mul_right U r.le_succ) (mul_le_mul_unitsOf_first hn U (r + 1))))

/-- A rank holds the units that belong to it: those whose rank floor(u · n ÷ U) is its own (R151). -/
theorem unitsOf_holds_iff {u : Nat} (hu : u < U) :
    (unitsOf U n r).1 ≤ u ∧ u < (unitsOf U n r).1 + (unitsOf U n r).2 ↔ r = u * n / U := by
  have hshare : r = u * n / U ↔ r ≤ u * n / U ∧ u * n / U < r + 1 := by omega
  rw [unitsOf_end hn, ← Nat.not_le, unitsOf_first_le_iff hn, unitsOf_first_le_iff hn, Nat.not_le, Nat.mul_comm n u, hshare,
    Nat.le_div_iff_mul_le (Nat.zero_lt_of_lt hu), Nat.div_lt_iff_lt_mul (Nat.zero_lt_of_lt hu)]

/-- No rank holds fewer units than the even share, rounded down. -/
theorem div_le_unitsOf_count : U / n ≤ (unitsOf U n r).2 := by
  have hshare : n * (U / n) ≤ U := Nat.mul_div_le U n
  have hend : r * U + U ≤ n * (unitsOf U n (r + 1)).1 := Nat.succ_mul r U ▸ mul_le_mul_unitsOf_first hn U (r + 1)
  have hreach : U / n ≤ (unitsOf U n (r + 1)).1 := Nat.le_of_mul_le_mul_left (by omega) hn
  have hfirst : (unitsOf U n r).1 ≤ (unitsOf U n (r + 1)).1 - U / n := by
    rw [unitsOf_first_le_iff hn, Nat.mul_sub]
    omega
  have hrun := unitsOf_end hn U r
  omega

/-- No rank holds more units than the even share, rounded down, and one. -/
theorem unitsOf_count_le : (unitsOf U n r).2 ≤ U / n + 1 := by
  have hnext : (unitsOf U n (r + 1)).1 ≤ (unitsOf U n r).1 + (U / n + 1) := by
    rw [unitsOf_first_le_iff hn, Nat.mul_add, Nat.succ_mul]
    exact Nat.add_le_add (mul_le_mul_unitsOf_first hn U r) (Nat.le_of_lt (Nat.lt_mul_div_succ U hn))
  exact Nat.le_of_add_le_add_left (unitsOf_end hn U r ▸ hnext)

/-- With fewer units than ranks the last rank holds none: the runs before its own already reach the last unit. -/
theorem unitsOf_last_of_lt (hU : U < n) : (unitsOf U n (n - 1)).2 = 0 := by
  have hlast : n - 1 + 1 = n := Nat.sub_add_cancel hn
  have hend : (unitsOf U n n).1 ≤ U := (unitsOf_first_le_iff hn U n U).mpr (Nat.le_refl _)
  have hfirst : U < (unitsOf U n (n - 1)).1 + 1 := by
    refine Nat.lt_of_mul_lt_mul_left (a := n) ?_
    calc n * U = (n - 1) * U + U := by rw [← Nat.succ_mul, Nat.succ_eq_add_one, hlast]
      _ < n * (unitsOf U n (n - 1)).1 + n := Nat.add_lt_add_of_le_of_lt (mul_le_mul_unitsOf_first hn U (n - 1)) hU
  have hrun := unitsOf_end hn U (n - 1)
  rw [hlast] at hrun
  omega

end

/-- Settles O42: each run ends where the next begins, and a run begins where floor(u · n ÷ U) first reaches its rank. -/
theorem unitsDivideEvenly : Obligations.UnitsDivideEvenly := by
  unfold Obligations.UnitsDivideEvenly
  intro U n hn
  refine ⟨fun u r hu _ => unitsOf_holds_iff hn U r hu, fun r r' _ _ => ?_, fun hU => ?_⟩
  · exact Nat.le_trans (unitsOf_count_le hn U r) (Nat.add_le_add_right (div_le_unitsOf_count hn U r') 1)
  · exact ⟨n - 1, Nat.sub_lt hn Nat.one_pos, unitsOf_last_of_lt hn U hU⟩

end Sys2Proof.Machine
end

section
/-! The rules of the job table, of the commands that wait in their mailboxes, and of a mailbox command that is due, that the
proofs about placement use. -/
namespace Sys2Proof.Machine

/-! ## The job table -/

/-- The first element of a test that an update keeps is the updated one. -/
theorem find?_updIf_same {α : Type} {p : α → Bool} {f : α → α} (hf : ∀ x, p x = true → p (f x) = true) (xs : List α) :
    (updIf p f xs).find? p = (xs.find? p).map f := by
  induction xs with
  | nil => rfl
  | cons x xs ih =>
    rw [updIf, List.map_cons]
    cases hx : p x with
    | true => rw [if_pos rfl, List.find?_cons_of_pos (hf x hx), List.find?_cons_of_pos hx, Option.map_some]
    | false =>
      rw [if_neg Bool.false_ne_true, List.find?_cons_of_neg (ne_true_of_eq_false hx),
        List.find?_cons_of_neg (ne_true_of_eq_false hx)]
      exact ih

/-- An update of elements that fail a test before and after leaves the first element of the test alone. -/
theorem find?_updIf_other {α : Type} {p q : α → Bool} {f : α → α} (hf : ∀ x, p x = true → q x = false ∧ q (f x) = false)
    (xs : List α) : (updIf p f xs).find? q = xs.find? q := by
  induction xs with
  | nil => rfl
  | cons x xs ih =>
    have hsame : q (if p x then f x else x) = q x ∧ (q x = true → (if p x then f x else x) = x) := by
      cases hx : p x with
      | true => simp [hf x hx]
      | false => simp
    rw [updIf, List.map_cons, List.find?_cons, List.find?_cons, hsame.1]
    cases hq : q x with
    | true => exact congrArg some (hsame.2 hq)
    | false => exact ih

namespace State
variable {s t : State} {h k : Nat} {j : Job} {f : Job → Job}

theorem job_handle (hj : s.job h = some j) : j.handle = h := beq_iff_eq.mp (List.find?_some hj :)

theorem job_congr (hjobs : t.jobs = s.jobs) (k : Nat) : t.job k = s.job k := congrArg (List.find? _) hjobs

theorem job_updJob_same (hf : ∀ j, j.handle = h → (f j).handle = h) (hj : s.job h = some j) :
    (s.updJob h f).job h = some (f j) :=
  (find?_updIf_same (p := fun x : Job => x.handle == h) (fun x hx => beq_iff_eq.mpr (hf x (beq_iff_eq.mp hx))) s.jobs).trans
    (congrArg (Option.map f) hj)

theorem job_updJob_other (hf : ∀ j, j.handle = h → (f j).handle = h) (hk : k ≠ h) : (s.updJob h f).job k = s.job k :=
  find?_updIf_other (fun x hx => by
    have hx := beq_iff_eq.mp hx
    exact ⟨beq_false_of_ne (hx ▸ hk.symm), beq_false_of_ne ((hf x hx).symm ▸ hk.symm)⟩) s.jobs

end State

/-! ## Commands that wait -/

theorem State.bulkStore_cmds (s : State) (p : PartId) (v : Nat) (bs : Bytes) : (s.bulkStore p v bs).cmds = s.cmds := by
  rw [State.bulkStore]
  obtain ⟨b, hb⟩ := s.postPartBad_shape p v bs.length
  rw [hb]
  rfl

theorem State.returnSlot_cmds (p : PartId) (s : State) (k : Nat) : (State.returnSlot p s k).cmds = s.cmds := by
  unfold State.returnSlot
  split
  · rw [State.noticePart_cmds, State.bulkStore_cmds]
  · rfl

theorem State.returnSlots_cmds (s : State) (p : PartId) (ks : List Nat) : (s.returnSlots p ks).cmds = s.cmds := by
  unfold State.returnSlots
  generalize sortBy (fun a b => decide (a ≤ b)) ks = xs
  induction xs generalizing s with
  | nil => rfl
  | cons x xs ih => rw [List.foldl_cons, ih, State.returnSlot_cmds]

/-- An answer takes its own mailbox's command off the list, and no other (R338). -/
theorem State.answer_cmds (s : State) (c : Cmd) (done : Nat) (r : Result) :
    (s.answer c done r).cmds = s.cmds.filter (fun d => !(d.p == c.p && d.m == c.m)) := by
  obtain ⟨ps, hps⟩ := ((s.returnSlots c.p c.slots).replyHeader c.p c.m c.tag c.flip done r).replyBody_shape c.p c.m r
  rw [State.answer, State.returnBox_cmds, hps]
  exact congrArg (List.filter _) (s.returnSlots_cmds c.p c.slots)

theorem State.cmdAt_answer (s : State) (c : Cmd) (done : Nat) (r : Result) (p : PartId) (m : BoxId) :
    (s.answer c done r).cmdAt p m = if p = c.p ∧ m = c.m then none else s.cmdAt p m := by
  rw [State.cmdAt, State.answer_cmds, List.find?_filter]
  split
  · next hbox =>
    obtain ⟨rfl, rfl⟩ := hbox
    exact List.find?_eq_none.mpr fun d _ => by grind
  · next hbox => exact congrArg (List.find? · s.cmds) (funext fun d => by grind)

theorem State.cmdAt_box {s : State} {p : PartId} {m : BoxId} {c : Cmd} (h : s.cmdAt p m = some c) : c.p = p ∧ c.m = m := by
  simpa using List.find?_some h

/-! ## A command that is due -/

/-- A due command of a row's code and test is served (R338). -/
theorem State.serveIf_due {s : State} {p : PartId} {m : BoxId} {code : Nat} {test : Bytes → Bool} (hdue : Due s p m code)
    (htest : test (s.boxBody p m) = true) (accept : Cmd → State → State) :
    s.serveIf p m code test accept = accept (s.flipped p m) s :=
  if_pos ⟨hdue.waits, hdue.header, hdue.code, htest⟩

/-- A command that passes its own check over good areas does its work and is answered (R340, R341, R357). -/
theorem State.immediate_good {s : State} {c : Cmd} {check : Option Result} (hcheck : check = none)
    (hareas : AreasGood s (s.named c)) (run : Cmd → State → State × Result) :
    s.immediate c check run = (run (s.named c) s).1.finish (s.named c) (run (s.named c) s).2 := by
  have hvet : s.vet (s.named c) check = none := by
    simp [State.vet, firstFault, statusFault, hcheck, hareas.owned, hareas.clean]
  simp only [State.immediate, hvet]

theorem State.scoped_job {s : State} {c : Cmd} {j : Job} (h : s.scoped c = .ok j) : s.job c.job = some j := by
  unfold State.scoped at h
  split at h
  · cases h
  · split at h
    · cases h
    · next j' hj =>
      split at h
      · cases h
      · split at h
        · cases h
        · cases h
          exact hj

end Sys2Proof.Machine
end

section
/-! The proofs about placement (R164-R167): PLACE in both uses, the window ends, and the copies of a re-placement. -/
namespace Sys2Proof.Machine

/-! ## PLACE (R167) -/

/-- A preview that passes its checks writes its records and replies, PLACE_EPOCH and outcome 0 (R167). -/
theorem exec_placePreview {s : State} {p : PartId} {m : BoxId} {gs : List Graph} (hdue : Due s p m 0x12)
    (hmode : placeMode (s.asked p m).body = false) (hscope : (s.asked p m).job = 0)
    (hbody : bodyFault (s.asked p m).body (bodyFields 0x12) (previewChecks (s.asked p m).body) = none)
    (hgs : s.previewGraphs (s.asked p m) = .ok gs) (hareas : AreasGood s (s.asked p m)) :
    exec (.placePreview p m) s = .next ((s.slotWrite p (u32 (s.asked p m).body 0x0C)
      (previewRecords gs (u8 (s.asked p m).body 8) (u8 (s.asked p m).body 9))).finish (s.asked p m)
        (ok (placeReply (planCrc (gs.map (·.descs)) (u8 (s.asked p m).body 8)) 0 0))) := by
  have hserve : s.serveIf p m 0x12 (fun b => !placeMode b) acceptPreview = acceptPreview (s.flipped p m) s :=
    State.serveIf_due hdue (congrArg (!·) hmode :) _
  have hgraphs : s.previewGraphs (s.flipped p m) = .ok gs := hgs
  have hcheck : firstFault [noScope (s.flipped p m),
      bodyFault (s.flipped p m).body (bodyFields 0x12) (previewChecks (s.flipped p m).body), none] = none := by
    have hnoScope : noScope (s.flipped p m) = none := if_pos hscope
    have hfields : bodyFault (s.flipped p m).body (bodyFields 0x12) (previewChecks (s.flipped p m).body) = none := hbody
    rw [hnoScope, hfields]
    rfl
  refine congrArg Host.Outcome.next (hserve.trans ?_)
  simp only [acceptPreview, hgraphs]
  exact State.immediate_good hcheck hareas _

/-- A request that passes its checks keeps its mailbox and joins or waits (R167). -/
theorem exec_placeRequest {s : State} {p : PartId} {m : BoxId} {j : Job} (hdue : Due s p m 0x12)
    (hmode : placeMode (s.asked p m).body = true) (hscope : s.scoped (s.asked p m) = .ok j)
    (hbody : bodyFault (s.asked p m).body (bodyFields 0x12) (requestChecks (s.asked p m).body) = none) :
    exec (.placeRequest p m) s = .next ((s.stage (s.asked p m)).updJob j.handle (Job.askPlace (p, m))) := by
  have hserve : s.serveIf p m 0x12 placeMode acceptRequest = acceptRequest (s.flipped p m) s :=
    State.serveIf_due hdue hmode _
  have hscope' : s.scoped (s.flipped p m) = .ok j := hscope
  have hfields : bodyFault (s.flipped p m).body (bodyFields 0x12) (requestChecks (s.flipped p m).body) = none := hbody
  refine congrArg Host.Outcome.next (hserve.trans ?_)
  rw [State.job_handle (State.scoped_job hscope)]
  simp only [acceptRequest, hscope', hfields]
  rfl

/-! ## What planning and copying change in a job -/

/-- A fold of updates that change a job's frames alone changes its frames alone. -/
theorem Job.foldl_frames {α : Type} {f : Job → α → Job} (hf : ∀ j x, ∃ fs, f j x = { j with frames := fs }) (xs : List α)
    (j : Job) : ∃ fs, xs.foldl f j = { j with frames := fs } := by
  induction xs generalizing j with
  | nil => exact ⟨j.frames, rfl⟩
  | cons x xs ih =>
    obtain ⟨fs, hx⟩ := hf j x
    obtain ⟨gs, hxs⟩ := ih (f j x)
    exact ⟨gs, by rw [List.foldl_cons, hxs, hx]⟩

theorem Job.take_frames (j : Job) (b frame : Nat) (staged : Bool) : ∃ fs, j.take b frame staged = { j with frames := fs } := by
  unfold Job.take
  split
  · exact ⟨_, rfl⟩
  · exact ⟨_, rfl⟩

/-- Planning which pages move takes frames for them, and changes nothing else in the job (R162, R165). -/
theorem planPages_frames (low : List Nat) (ps : List (Nat × Nat)) (j : Job) :
    ∃ fs, (planPages low j ps).1 = { j with frames := fs } := by
  induction ps generalizing j with
  | nil => exact ⟨j.frames, rfl⟩
  | cons p ps ih =>
    simp only [planPages]
    split
    · exact ih j
    · next f _ =>
      split
      · obtain ⟨fs, htake⟩ := j.take_frames p.1 f false
        obtain ⟨gs, hrest⟩ := ih ((j.take p.1 f false).pin [(p.1, f)] true)
        exact ⟨gs, by rw [hrest, htake]; rfl⟩
      · exact ih j

theorem State.fixW_hbm (s : State) : ∃ hb, s.fixW = { s with hbm := hb } := by
  unfold State.fixW
  split
  · exact ⟨_, rfl⟩
  · exact ⟨s.hbm, rfl⟩

/-- A re-placement that starts is pending with the PLACEs it serves, its copies still to be made (R164, R165). -/
theorem State.startRepl_spec (s : State) (j : Job) (l : Layout) (places : List (PartId × BoxId)) (byPlace : Bool) :
    ∃ hb fs r, s.startRepl j l places byPlace
        = { s.updJob j.handle (fun _ => { j with frames := fs, layout := { l with pending := some r } }) with hbm := hb }
      ∧ r.places = places ∧ r.byPlace = byPlace ∧ r.copied = false := by
  obtain ⟨fs, hplan⟩ := planPages_frames j.lowStacks (j.movable (s.mainOf j) (s.draftOf j)) j
  simp only [State.startRepl, hplan]
  obtain ⟨hb, hfix⟩ := State.fixW_hbm _
  exact ⟨hb, fs, _, hfix, rfl, rfl, rfl⟩

/-- The copies change memory and how far the job's frames are filled (R165, R270). -/
theorem State.copyAll_spec {s : State} {h : Nat} {j : Job} (hj : s.job h = some j) (r : Repl) :
    ∃ hb fs, s.copyAll h r = { s.updJob h (fun _ => { j with frames := fs }) with hbm := hb } := by
  obtain ⟨fs, hfill⟩ := Job.foldl_frames (f := fun (j : Job) (x : Nat × Nat × Nat) => j.fill x.1 x.2.2 (j.filledOf x.1 x.2.1))
    (fun _ _ => ⟨_, rfl⟩) r.pages j
  have hstored : (s.storeBlocks (r.blocks.map (fun x => (x.2, s.blockBytes x.1)))).job h = some j := hj
  simp only [State.copyAll, State.updJobHbm, hstored, hfill]
  exact ⟨_, fs, rfl⟩

/-! ## Window ends (R164, R167) -/

theorem exec_replWindowEnd {s : State} {h : Nat} {j : Job} (hj : s.job h = some j) (tops totals : List (Nat × Nat)) :
    exec (.replWindowEnd h tops totals) s = .next (s.windowEnd h (j.layout.spreads tops totals)) := by
  simp only [exec, execReplWindowEnd, hj]

section
variable {s : State} {h : Nat} {j : Job} (hj : s.job h = some j) (spreads : List (Nat × Nat))
include hj

theorem State.windowEnd_of_short (hsteps : j.layout.window.steps < j.cfg.replWindow) : s.windowEnd h spreads = s := by
  simp only [State.windowEnd, hj, if_pos hsteps]

/-- With no PLACE waiting, and background re-placement off or the last install in the window that ends, no re-placement starts
(R164). -/
theorem State.windowEnd_quiet (hsteps : j.cfg.replWindow ≤ j.layout.window.steps) (hwait : j.layout.placeWaiting = [])
    (hquiet : j.cfg.replMode = 1 ∨ j.layout.sinceInstall = 0) :
    s.windowEnd h spreads = s.updJob h (fun x => { x with layout := j.layout.windowEnd j.cfg.replRatio spreads }) := by
  simp only [State.windowEnd, hj, if_neg (Nat.not_lt.mpr hsteps)]
  rw [if_neg, if_neg]
  · rcases hquiet with hmode | hnew
    · simp [hmode]
    · simp [Layout.windowEnd, hnew]
  · simp [Layout.windowEnd, hwait]

/-- A waiting PLACE starts a re-placement at the second window end since the last install, or later (R164, R167). -/
theorem State.windowEnd_place (hsteps : j.cfg.replWindow ≤ j.layout.window.steps) (hpending : j.layout.pending = none)
    (hwait : j.layout.placeWaiting ≠ []) (hsince : 1 ≤ j.layout.sinceInstall) :
    s.windowEnd h spreads = s.startRepl j { j.layout.windowEnd j.cfg.replRatio spreads with placeWaiting := [] }
      j.layout.placeWaiting true := by
  simp only [State.windowEnd, hj, if_neg (Nat.not_lt.mpr hsteps)]
  rw [if_pos]
  · rfl
  · simp [Layout.windowEnd, hpending, hwait, hsince]

end

/-! ## The end of the copies (R165, R166) -/

/-- A job whose pending re-placement has made its copies (R165). -/
def Job.withCopied (r : Repl) (j : Job) : Job :=
  { j with layout := { j.layout with pending := some { r with copied := true } } }

/-- A job whose pending re-placement is abandoned: only the counter shows it (R166). -/
def Job.abandoned (j : Job) : Job :=
  { j with layout := { j.layout with pending := none, replAbandoned := satInc j.layout.replAbandoned } }

section
variable {s : State} {h : Nat} {j : Job} {r : Repl} (hj : s.job h = some j) (hr : j.layout.pending = some r)
include hj hr

theorem exec_replacementCopiesDone_good (hnew : r.copied = false) (hgood : s.copyFails j r = false) :
    exec (.replacementCopiesDone h) s = .next ((s.copyAll h r).updJob h (Job.withCopied r)) := by
  simp [exec, execReplacementCopiesDone, State.copiesDone, hj, hr, hnew, hgood]
  rfl

theorem exec_replacementCopiesDone_bad (hnew : r.copied = false) (hbad : s.copyFails j r = true) :
    exec (.replacementCopiesDone h) s = .next (s.abandonRepl h s.now) := by
  simp [exec, execReplacementCopiesDone, State.copiesDone, hj, hr, hnew, hbad]

/-- A re-placement is abandoned: its copies are discarded and its PLACEs are answered (R166). -/
theorem State.abandonRepl_pending (t : Nat) :
    s.abandonRepl h t
      = ((s.updJob h Job.abandoned).dropCopies h r).answerPlaces j r.places t j.layout.epoch.toNat 1 := by
  simp only [State.abandonRepl, hj, hr]
  rfl

end

/-- Discarding copies changes memory and the job table alone. -/
theorem State.dropCopies_frame (s : State) (h : Nat) (r : Repl) :
    ∃ js hb, s.dropCopies h r = { s with jobs := js, hbm := hb } := by
  unfold State.dropCopies
  obtain ⟨hb, hfix⟩ := ((s.clearBlocks (if r.copied then r.blocks.map (·.2) else [])).dropPages h r).fixW_hbm
  exact ⟨_, hb, hfix⟩

/-- Discarding copies leaves the layout of the job alone. -/
theorem State.dropCopies_layout {s : State} {h : Nat} {j : Job} (hj : s.job h = some j) (r : Repl) :
    ∃ j', (s.dropCopies h r).job h = some j' ∧ j'.layout = j.layout := by
  have hcleared : (s.clearBlocks (if r.copied then r.blocks.map (·.2) else [])).job h = some j := hj
  have hpinned := State.job_updJob_same (f := fun j => j.pin (r.pages.map (fun x => (x.1, x.2.2))) false) (fun _ hx => hx)
    hcleared
  unfold State.dropCopies
  obtain ⟨hb, hfix⟩ := ((s.clearBlocks (if r.copied then r.blocks.map (·.2) else [])).dropPages h r).fixW_hbm
  rw [hfix]
  exact ⟨_, State.job_updJob_same (fun _ hx => hx) hpinned, rfl⟩

/-! ## The answers to the PLACEs (R166, R167) -/

section
variable {s : State} (j : Job) {x : PartId × BoxId} (xs : List (PartId × BoxId)) (t epoch outcome : Nat)

theorem State.answerPlaces_cons_none (hx : s.cmdAt x.1 x.2 = none) :
    s.answerPlaces j (x :: xs) t epoch outcome = s.answerPlaces j xs t epoch outcome := by
  simp only [State.answerPlaces, List.foldl_cons, hx]

theorem State.answerPlaces_cons_some {c : Cmd} (hx : s.cmdAt x.1 x.2 = some c) :
    s.answerPlaces j (x :: xs) t epoch outcome
      = (s.answer c t (ok (placeReply j.planCrc epoch outcome))).answerPlaces j xs t epoch outcome := by
  simp only [State.answerPlaces, List.foldl_cons, hx]

theorem State.answerPlaces_shape (s : State) : ∃ b, s.answerPlaces j xs t epoch outcome = s.withAnswered b := by
  refine foldl_shape State.withAnswered _ State.answered (fun _ => rfl) (fun _ _ _ => rfl) (fun s x => ?_) xs s
  split
  · exact ⟨s.answered, rfl⟩
  · exact s.answer_shape _ _ _

/-- After the answers no command waits in a mailbox of the PLACEs, nor where none waited before. -/
theorem State.answerPlaces_cmdAt {p : PartId} {m : BoxId} (h : (p, m) ∈ xs ∨ s.cmdAt p m = none) :
    (s.answerPlaces j xs t epoch outcome).cmdAt p m = none := by
  induction xs generalizing s with
  | nil => exact h.resolve_left List.not_mem_nil
  | cons x xs ih =>
    cases hx : s.cmdAt x.1 x.2 with
    | none =>
      rw [State.answerPlaces_cons_none j xs t epoch outcome hx]
      refine ih ?_
      rcases h with hmem | hnone
      · exact (List.mem_cons.mp hmem).elim (fun he => .inr (by rw [← he] at hx; exact hx)) .inl
      · exact .inr hnone
    | some c =>
      rw [State.answerPlaces_cons_some j xs t epoch outcome hx]
      obtain ⟨hp, hm⟩ := State.cmdAt_box hx
      refine ih ?_
      rw [State.cmdAt_answer, hp, hm]
      rcases h with hmem | hnone
      · exact (List.mem_cons.mp hmem).elim (fun he => .inr (if_pos ⟨congrArg Prod.fst he, congrArg Prod.snd he⟩)) .inl
      · exact .inr (by rw [hnone, ite_self])

end

/-! ## The statement -/

/-- Settles O10: each row is one update of its own job, next to what planning, copying and answering change. -/
theorem placementServed : Obligations.PlacementServed := by
  unfold Obligations.PlacementServed
  refine ⟨?_, ?_, ?_, ?_, ?_, ?_, ?_⟩
  · intro s p m gs hdue hmode hscope hbody hgs hareas
    exact exec_placePreview hdue hmode hscope hbody hgs hareas
  · intro s p m j hdue hmode hscope _ hbody
    exact exec_placeRequest hdue hmode hscope hbody
  · intro s h tops totals j hj hsteps
    rw [exec_replWindowEnd hj, State.windowEnd_of_short hj _ hsteps]
  · intro s h tops totals j hj hsteps hwait hquiet
    rw [exec_replWindowEnd hj, State.windowEnd_quiet hj _ hsteps hwait hquiet]
    exact ⟨_, _, rfl, State.job_updJob_same (fun _ hx => hx) hj, rfl, rfl, rfl, rfl, rfl,
      fun k hk => State.job_updJob_other (fun _ hx => hx) hk, rfl, rfl, rfl⟩
  · intro s h tops totals j hj hsteps hpending hwait hsince
    rw [exec_replWindowEnd hj, State.windowEnd_place hj _ hsteps hpending hwait hsince]
    obtain ⟨hb, fs, r, hstart, hplaces, hbyPlace, hcopied⟩ := s.startRepl_spec j _ j.layout.placeWaiting true
    have hhandle := State.job_handle hj
    rw [hstart, hhandle]
    exact ⟨_, _, r, rfl, State.job_updJob_same (fun _ _ => rfl) hj, rfl, hplaces, hbyPlace, hcopied, rfl, rfl,
      fun k hk => State.job_updJob_other (fun _ _ => rfl) hk, rfl, rfl⟩
  · intro s h j r hj hr hnew hgood
    rw [exec_replacementCopiesDone_good hj hr hnew hgood]
    obtain ⟨hb, fs, hcopy⟩ := State.copyAll_spec hj r
    have hhandle := State.job_handle hj
    have hcopied : (s.copyAll h r).job h = some { j with frames := fs } := by
      rw [hcopy]
      exact State.job_updJob_same (fun _ _ => hhandle) hj
    refine ⟨_, _, rfl, State.job_updJob_same (fun _ hx => hx) hcopied, rfl, rfl, ?_, ?_, fun k hk => ?_⟩
    · rw [hcopy]; rfl
    · rw [hcopy]; rfl
    · refine (State.job_updJob_other (f := Job.withCopied r) (fun _ hx => hx) hk).trans ?_
      rw [hcopy]
      exact State.job_updJob_other (fun _ _ => hhandle) hk
  · intro s h j r hj hr hnew hbad
    rw [exec_replacementCopiesDone_bad hj hr hnew hbad, State.abandonRepl_pending hj hr]
    have habandoned := State.job_updJob_same (f := Job.abandoned) (fun _ hx => hx) hj
    obtain ⟨j', hdrop, hlayout⟩ := State.dropCopies_layout habandoned r
    obtain ⟨js, hb, hframe⟩ := (s.updJob h Job.abandoned).dropCopies_frame h r
    obtain ⟨b, hanswers⟩ := ((s.updJob h Job.abandoned).dropCopies h r).answerPlaces_shape j r.places s.now
      j.layout.epoch.toNat 1
    refine ⟨_, j', rfl, ?_, ?_, ?_, ?_, ?_, ?_, ?_⟩
    · rw [hanswers]
      exact hdrop
    · rw [hlayout]; rfl
    · rw [hlayout]; rfl
    · rw [hlayout]; rfl
    · exact fun x hx => State.answerPlaces_cmdAt j r.places _ _ _ (.inl hx)
    · rw [hanswers, hframe]; rfl
    · rw [hanswers, hframe]; rfl

end Sys2Proof.Machine
end

section
/-! What the host finds in a mailbox after an answer (R145, R338): reads of a control window after writes, and the fields of
a reply. -/
namespace Sys2Proof.Machine

/-! ## Fields of a byte string -/

theorem leNat_leBytes_mod (n x : Nat) : leNat (leBytes n x) = x % 256 ^ n := by
  induction n generalizing x with
  | zero => exact (Nat.mod_one x).symm
  | succ n ih =>
    have hpow : 256 ^ (n + 1) = 256 * 256 ^ n := Nat.pow_succ'
    rw [leBytes, leNat, ih, BitVec.toNat_ofNat, hpow, Nat.mod_mul]

theorem leBytes_length (n x : Nat) : (leBytes n x).length = n := by
  induction n generalizing x with
  | zero => rfl
  | succ n ih => rw [leBytes, List.length_cons, ih]

/-- A string of at least the length of another begins with it. -/
theorem sub_fitBytes {n : Nat} {bs : Bytes} (h : bs.length ≤ n) : sub (fitBytes n bs) 0 bs.length = bs := by
  simp [sub, fitBytes, List.take_of_length_le h]

theorem length_le_fitBytes {n : Nat} {bs : Bytes} (h : bs.length ≤ n) : bs.length ≤ (fitBytes n bs).length := by
  simp [fitBytes, List.take_of_length_le h]

/-! ## Parts of a read -/

section
variable {m : Mem} (h : Mem.wf m = true) (a : Nat) {o k n : Nat}
include h

theorem Mem.getElem_read (hk : k < (Mem.read m a n).length) : (Mem.read m a n)[k] = Mem.get m (a + k) := by
  have hget := Mem.read_getD h a n k (Mem.read_length m a n ▸ hk)
  rwa [List.getD_eq_getElem?_getD, List.getElem?_eq_getElem hk, Option.getD_some] at hget

theorem Mem.sub_read (hk : o + k ≤ n) : sub (Mem.read m a n) o k = Mem.read m (a + o) k := by
  refine List.ext_getElem (by simp [sub]; omega) fun i _ _ => ?_
  simp only [sub, List.getElem_take, List.getElem_drop, Mem.getElem_read h, Nat.add_assoc]

theorem Mem.read_write_within {bs : Bytes} (hk : o + k ≤ bs.length) :
    Mem.read (Mem.write m a bs) (a + o) k = sub bs o k := by
  rw [← Mem.sub_read (Mem.write_wf h a bs) a hk, Mem.read_write h]

theorem Mem.read_write_apart {bs : Bytes} {b : Nat} (hb : b + n ≤ a ∨ a + bs.length ≤ b) :
    Mem.read (Mem.write m a bs) b n = Mem.read m b n :=
  Mem.read_congr (Mem.write_wf h a bs) h b n fun x _ _ => by rw [Mem.get_write, if_neg (by omega)]

end

/-! ## Control windows -/

/-- The record of a mailbox that its host has back (R145). -/
def Box.returned (b : Box) : Box := { b with owned := false, taken := false, flipQp := none }

namespace State
variable {s : State} (p : PartId) (m : BoxId) {a b o n : Nat} {bs : Bytes}

theorem ctrlWrite_ctrl : (s.ctrlWrite p a bs).parts[p.val].ctrl = Mem.write s.parts[p.val].ctrl a bs := by
  simp [ctrlWrite, updPart]

theorem ctrlRead_congr {t : State} (h : t.parts = s.parts) : t.ctrlRead p a n = s.ctrlRead p a n := by
  rw [ctrlRead, ctrlRead, h]

theorem ctrlRead_updBox (f : Box → Box) : (s.updBox p m f).ctrlRead p a n = s.ctrlRead p a n := by
  simp [ctrlRead, updBox, updPart]

theorem box_updBox (f : Box → Box) : (s.updBox p m f).box p m = f (s.box p m) := by
  simp [box, updBox, updPart]

/-- A mailbox given back: its ownership word and its record, whether a notice goes out or not (R145). -/
theorem returnBox_parts : (s.returnBox p m).parts = ((s.ctrlWrite p (boxAt m) (zeros 8)).updBox p m Box.returned).parts := by
  rw [returnBox]
  split
  · rfl
  · exact notice_parts _ _ _

theorem returnBox_box : (s.returnBox p m).box p m = ((s.ctrlWrite p (boxAt m) (zeros 8)).box p m).returned := by
  rw [← box_updBox p m Box.returned, box, returnBox_parts]
  rfl

theorem returnBox_ctrlRead : (s.returnBox p m).ctrlRead p a n = (s.ctrlWrite p (boxAt m) (zeros 8)).ctrlRead p a n :=
  (ctrlRead_congr p (returnBox_parts p m)).trans (ctrlRead_updBox p m _)

section
variable (hs : s.memoryWf)
include hs

theorem ctrlRead_ctrlWrite_within (hn : o + n ≤ bs.length) : (s.ctrlWrite p a bs).ctrlRead p (a + o) n = sub bs o n := by
  rw [ctrlRead, ctrlWrite_ctrl, Mem.read_write_within (hs.2 p) a hn]

theorem ctrlRead_ctrlWrite_apart (hb : b + n ≤ a ∨ a + bs.length ≤ b) :
    (s.ctrlWrite p a bs).ctrlRead p b n = s.ctrlRead p b n := by
  rw [ctrlRead, ctrlWrite_ctrl, Mem.read_write_apart (hs.2 p) a hb, ctrlRead]

theorem sub_header (hn : o + n ≤ 64) : sub (s.header p m) o n = s.ctrlRead p (boxAt m + o) n :=
  Mem.sub_read (hs.2 p) (boxAt m) hn

/-! ## The writes of a reply, one by one -/

theorem returnBox_word : (s.returnBox p m).ctrlRead p (boxAt m) 8 = zeros 8 :=
  (returnBox_ctrlRead p m).trans (ctrlRead_ctrlWrite_within p hs (bs := zeros 8) (o := 0) (Nat.le_refl 8))

theorem returnBox_ctrlRead_beyond (ho : 8 ≤ o) :
    (s.returnBox p m).ctrlRead p (boxAt m + o) n = s.ctrlRead p (boxAt m + o) n :=
  (returnBox_ctrlRead p m).trans (ctrlRead_ctrlWrite_apart p hs (.inr (Nat.add_le_add_left ho _)))

theorem replyBody_ctrlRead_header (r : Result) (hn : o + n ≤ 0x40) :
    (s.replyBody p m r).ctrlRead p (boxAt m + o) n = s.ctrlRead p (boxAt m + o) n := by
  rw [replyBody]
  split
  · exact ctrlRead_ctrlWrite_apart p hs (.inl (by omega))
  · rfl

theorem replyBody_ctrlRead_body {r : Result} (hr : r.status = 0) :
    (s.replyBody p m r).ctrlRead p (boxAt m + 0x40) r.reply.length = r.reply := by
  have hlen : r.reply.length ≤ Nat.max r.reply.length (hdrBodyLen (s.header p m)) := Nat.le_max_left _ _
  rw [replyBody, if_pos hr]
  exact (ctrlRead_ctrlWrite_within p hs (o := 0) ((Nat.zero_add _).symm ▸ length_le_fitBytes hlen)).trans (sub_fitBytes hlen)

variable (tag flip done : Nat) (r : Result)

/-- STATUS and TAG of a reply header (R337). -/
theorem replyHeader_front (hn : o + n ≤ 6) : (s.replyHeader p m tag flip done r).ctrlRead p (boxAt m + (0x0A + o)) n
    = sub (leBytes 2 r.status ++ leBytes 4 tag) o n := by
  have hfront : (leBytes 2 r.status ++ leBytes 4 tag).length = 6 := rfl
  rw [replyHeader, ctrlRead_ctrlWrite_apart p (ctrlWrite_memoryWf hs _ _ _) (.inl (by omega)), ← Nat.add_assoc,
    ctrlRead_ctrlWrite_within p hs (hfront ▸ hn)]

/-- REPLY_LEN to STEP of a reply header (R337). -/
theorem replyHeader_rest (hn : o + n ≤ 40) : (s.replyHeader p m tag flip done r).ctrlRead p (boxAt m + (0x18 + o)) n
    = sub (leBytes 4 r.reply.length ++ leBytes 4 r.detail ++ leBytes 8 flip ++ leBytes 8 done ++ leBytes 4 r.step ++ zeros 12)
        o n := by
  rw [replyHeader, ← Nat.add_assoc]
  exact ctrlRead_ctrlWrite_within p (ctrlWrite_memoryWf hs _ _ _) hn

end

/-! ## The reply -/

section
variable (hs : s.memoryWf) (c : Cmd) (done : Nat) (r : Result)
include hs

/-- Past its ownership word, a mailbox holds after an answer what the reply wrote (R145, R338). -/
theorem answer_ctrlRead (ho : 8 ≤ o) : (s.answer c done r).ctrlRead c.p (boxAt c.m + o) n
    = (((s.returnSlots c.p c.slots).replyHeader c.p c.m c.tag c.flip done r).replyBody c.p c.m r).ctrlRead c.p
        (boxAt c.m + o) n :=
  returnBox_ctrlRead_beyond c.p c.m
    (replyBody_memoryWf (replyHeader_memoryWf (returnSlots_memoryWf hs _ _) _ _ _ _ _ _) _ _ _) ho

theorem answer_sub_header (ho : 8 ≤ o) (hn : o + n ≤ 0x40) : sub ((s.answer c done r).header c.p c.m) o n
    = ((s.returnSlots c.p c.slots).replyHeader c.p c.m c.tag c.flip done r).ctrlRead c.p (boxAt c.m + o) n := by
  rw [sub_header c.p c.m (answer_memoryWf hs c done r) hn, answer_ctrlRead hs c done r ho,
    replyBody_ctrlRead_header c.p c.m (replyHeader_memoryWf (returnSlots_memoryWf hs _ _) _ _ _ _ _ _) r hn]

/-- An answer gives its mailbox back with the reply that the manual lays out (R145, R337, R338). -/
theorem answer_replied : Replied c done r (s.answer c done r) := by
  have hslots := returnSlots_memoryWf hs c.p c.slots
  have hheader := replyHeader_memoryWf hslots c.p c.m c.tag c.flip done r
  have hfront {o n : Nat} (hn : o + n ≤ 6) : leNat (sub ((s.answer c done r).header c.p c.m) (0x0A + o) n)
      = leNat (sub (leBytes 2 r.status ++ leBytes 4 c.tag) o n) := by
    rw [answer_sub_header hs c done r (by omega) (by omega), replyHeader_front c.p c.m hslots _ _ _ _ hn]
  have hrest {o n : Nat} (hn : o + n ≤ 40) : leNat (sub ((s.answer c done r).header c.p c.m) (0x18 + o) n)
      = leNat (sub (leBytes 4 r.reply.length ++ leBytes 4 r.detail ++ leBytes 8 c.flip ++ leBytes 8 done ++ leBytes 4 r.step
          ++ zeros 12) o n) := by
    rw [answer_sub_header hs c done r (by omega) (by omega), replyHeader_rest c.p c.m hslots _ _ _ _ hn]
  exact {
    word := returnBox_word c.p c.m (replyBody_memoryWf hheader c.p c.m r)
    status := (hfront (o := 0) (n := 2) (by decide)).trans (leNat_leBytes_mod 2 _)
    tag := (hfront (o := 2) (n := 4) (by decide)).trans (leNat_leBytes_mod 4 _)
    length := (hrest (o := 0) (n := 2) (by decide)).trans (leNat_leBytes_mod 2 _)
    detail := (hrest (o := 4) (n := 4) (by decide)).trans (leNat_leBytes_mod 4 _)
    flip := (hrest (o := 8) (n := 8) (by decide)).trans (leNat_leBytes_mod 8 _)
    done := (hrest (o := 16) (n := 8) (by decide)).trans (leNat_leBytes_mod 8 _)
    step := (hrest (o := 24) (n := 4) (by decide)).trans (leNat_leBytes_mod 4 _)
    body := fun hr => (answer_ctrlRead hs c done r (by decide)).trans (replyBody_ctrlRead_body c.p c.m hheader hr)
    host := congrArg Box.owned (returnBox_box c.p c.m)
    free := congrArg Box.taken (returnBox_box c.p c.m)
    gone := (cmdAt_answer s c done r c.p c.m).trans (if_pos ⟨rfl, rfl⟩) }

end

end State

end Sys2Proof.Machine
end

section
/-! The rules of KV ships (R221-R226) that the proofs about receiving and sending use: pins, the answer at a ship's mailbox,
and the end of a receive or a send. -/
namespace Sys2Proof.Machine

/-! ## Pins -/

/-- A job after frames of it were pinned or unpinned: its entries marked and its frames tidied (R202, R214). -/
def State.repinned (s : State) (fs : List (Nat × Nat)) (up : Bool) (j : Job) : Job :=
  ((j.pin fs up).markPins (s.mainOf j) (s.draftOf j)).tidy (s.mainOf j) (s.draftOf j)

theorem State.pinFrames_eq (s : State) (h : Nat) (fs : List (Nat × Nat)) (up : Bool) :
    s.pinFrames h fs up = s.updJob h (s.repinned fs up) := rfl

/-- What a ship publishes for a sequence keeps its id, its mark as accepted and its committed length under a change of pins. -/
def DSeq.Kept (e e' : DSeq) : Prop := e'.id = e.id ∧ e'.accepted = e.accepted ∧ e'.main.len = e.main.len

theorem State.repinned_direct (s : State) (fs : List (Nat × Nat)) (up : Bool) {j : Job} {e : DSeq} (he : e ∈ j.direct) :
    ∃ e' ∈ (s.repinned fs up j).direct, e.Kept e' :=
  ⟨_, List.mem_map_of_mem (List.mem_map_of_mem he), rfl, rfl, rfl⟩

theorem State.job_pinFrames {s : State} {h : Nat} {j : Job} (hj : s.job h = some j) (fs : List (Nat × Nat)) (up : Bool) :
    (s.pinFrames h fs up).job h = some (s.repinned fs up j) :=
  State.job_updJob_same (f := s.repinned fs up) (fun _ hx => hx) hj

/-! ## The answer at a mailbox -/

/-- Answer the command that waits in a mailbox, where one waits. -/
def State.answerAt (s : State) (p : PartId) (m : BoxId) (t : Nat) (r : Result) : State :=
  match s.cmdAt p m with
  | none => s
  | some c => s.answer c t r

section
variable (s : State) (p : PartId) (m : BoxId) (t : Nat) (r : Result)

theorem State.answerAt_some {s : State} {p : PartId} {m : BoxId} {c : Cmd} (hc : s.cmdAt p m = some c) (t : Nat) (r : Result) :
    s.answerAt p m t r = s.answer c t r := by
  simp only [State.answerAt, hc]

theorem State.answerAt_shape : ∃ b, s.answerAt p m t r = s.withAnswered b := by
  rw [State.answerAt]
  split
  · exact ⟨s.answered, rfl⟩
  · exact s.answer_shape _ _ _

@[simp] theorem State.answerAt_jobs : (s.answerAt p m t r).jobs = s.jobs := by
  obtain ⟨b, hb⟩ := s.answerAt_shape p m t r
  rw [hb]; rfl
@[simp] theorem State.answerAt_shipsIn : (s.answerAt p m t r).shipsIn = s.shipsIn := by
  obtain ⟨b, hb⟩ := s.answerAt_shape p m t r
  rw [hb]; rfl
@[simp] theorem State.answerAt_shipsOut : (s.answerAt p m t r).shipsOut = s.shipsOut := by
  obtain ⟨b, hb⟩ := s.answerAt_shape p m t r
  rw [hb]; rfl
@[simp] theorem State.answerAt_tb : (s.answerAt p m t r).tb = s.tb := by
  obtain ⟨b, hb⟩ := s.answerAt_shape p m t r
  rw [hb]; rfl

theorem State.cmdAt_answerAt : (s.answerAt p m t r).cmdAt p m = none := by
  cases hc : s.cmdAt p m with
  | none => rw [State.answerAt, hc, hc]
  | some c =>
    obtain ⟨hp, hm⟩ := State.cmdAt_box hc
    rw [State.answerAt_some hc, State.cmdAt_answer, if_pos ⟨hp.symm, hm.symm⟩]

theorem State.answerAt_replied {s : State} {p : PartId} {m : BoxId} {c : Cmd} (hc : s.cmdAt p m = some c) (hs : s.memoryWf)
    (t : Nat) (r : Result) : Replied c t r (s.answerAt p m t r) := by
  rw [State.answerAt_some hc]
  exact State.answer_replied hs c t r

end

/-! ## The end of a receive (R226) -/

section
variable (s : State) (x : ShipRecv) (t : Nat) (r : Result)

theorem State.endShipIn_eq : s.endShipIn x t r
    = (({ s with shipsIn := s.shipsIn.filter (fun y => !(y.p == x.p && y.m == x.m)) } : State).pinFrames x.job x.frames
        false).answerAt x.p x.m t r := rfl

theorem State.endShipIn_shipsIn : ∀ y ∈ (s.endShipIn x t r).shipsIn, ¬ (y.p = x.p ∧ y.m = x.m) := by
  intro y hy
  rw [State.endShipIn_eq, State.answerAt_shipsIn] at hy
  have hkept := (List.mem_filter.mp hy).2
  exact fun ⟨hp, hm⟩ => by simp [hp, hm] at hkept

theorem State.endShipIn_tb : (s.endShipIn x t r).tb = s.tb := by
  rw [State.endShipIn_eq, State.answerAt_tb]
  rfl

theorem State.cmdAt_endShipIn : (s.endShipIn x t r).cmdAt x.p x.m = none := State.cmdAt_answerAt _ _ _ _ _

theorem State.job_endShipIn {j : Job} (hj : s.job x.job = some j) : (s.endShipIn x t r).job x.job
    = some (({ s with shipsIn := s.shipsIn.filter (fun y => !(y.p == x.p && y.m == x.m)) } : State).repinned x.frames false
        j) := by
  rw [State.endShipIn_eq, State.job_congr (State.answerAt_jobs _ _ _ _ _)]
  exact State.job_pinFrames hj x.frames false

theorem State.endShipIn_replied {c : Cmd} (hc : s.cmdAt x.p x.m = some c) (hs : s.memoryWf) :
    Replied c t r (s.endShipIn x t r) := by
  rw [State.endShipIn_eq]
  refine State.answerAt_replied ?_ ?_ t r
  · exact hc
  · exact hs

end

/-! ## The end of a send (R225, R226) -/

section
variable (s : State) (x : ShipOut) (t : Nat) (r : Result)

theorem State.endShipOut_eq : s.endShipOut x t r
    = (({ s with shipsOut := s.shipsOut.filter (fun y => !(y.p == x.p && y.m == x.m)) } : State).pinFrames x.job x.frames
        false).answerAt x.p x.m t r := rfl

theorem State.endShipOut_shipsOut :
    (s.endShipOut x t r).shipsOut = s.shipsOut.filter (fun y => !(y.p == x.p && y.m == x.m)) := by
  rw [State.endShipOut_eq, State.answerAt_shipsOut]
  rfl

theorem State.endShipOut_replied {c : Cmd} (hc : s.cmdAt x.p x.m = some c) (hs : s.memoryWf) :
    Replied c t r (s.endShipOut x t r) := by
  rw [State.endShipOut_eq]
  refine State.answerAt_replied ?_ ?_ t r
  · exact hc
  · exact hs

end

/-! ## A command that is kept -/

/-- A staged command waits in its mailbox (R340). -/
theorem State.cmdAt_stage (s : State) (c : Cmd) : ((s.stage c).cmdAt c.p c.m).isSome = true := by
  rw [State.cmdAt, List.find?_isSome]
  exact ⟨c, List.mem_append_right _ (List.mem_singleton_self c), by simp⟩

end Sys2Proof.Machine
end

section
/-! ACCEPT_KV, the end of its wait, and the stream of a ship (R222-R226). -/
namespace Sys2Proof.Machine

/-! ## ACCEPT_KV (R223) -/

/-- Reserving frames for pages changes nothing of a job but its frames (R223). -/
theorem reservePages_frames {g : Graph} {j : Job} {ps : List (Nat × Nat × Nat)} {r : Job × List (Nat × Nat × Nat × Nat)}
    (hr : reservePages g j ps = some r) : ∃ fs, r.1 = { j with frames := fs } := by
  induction ps generalizing j r with
  | nil =>
    cases hr
    exact ⟨j.frames, rfl⟩
  | cons p ps ih =>
    rw [reservePages] at hr
    split at hr
    · cases hr
    · next f _ =>
      split at hr
      · cases hr
      · next j' fs hrest =>
        cases hr
        obtain ⟨_, htake⟩ := j.take_frames p.2.1 f false
        obtain ⟨gs, hgs⟩ := ih hrest
        exact ⟨gs, by rw [hgs, htake]⟩

section
variable {s : State} {c : Cmd} (hcheck : s.acceptKvCheck c = none)
include hcheck

theorem acceptAcceptKv_open {r : Job × List (Nat × Nat × Nat × Nat)} (hr : s.acceptReserve c = some r) :
    acceptAcceptKv c s = s.openRecv (s.named c) r.1 r.2 := by
  simp only [acceptAcceptKv, hcheck, hr]

theorem acceptAcceptKv_short (hr : s.acceptReserve c = none) :
    acceptAcceptKv c s = s.finish (s.named c) (fail 0x8202) := by
  simp only [acceptAcceptKv, hcheck, hr]

end

theorem exec_acceptKv {s : State} {p : PartId} {m : BoxId} (hdue : Due s p m 0x36) :
    exec (.acceptKv p m) s = .next (acceptAcceptKv (s.flipped p m) s) :=
  congrArg Host.Outcome.next (State.serveIf_due hdue rfl acceptAcceptKv)

/-- The frames that an ACCEPT_KV reserves in its job (R223). -/
theorem State.acceptReserve_of {s : State} {c : Cmd} {j : Job} {g : Graph} (hj : s.job c.job = some j)
    (hg : s.mainOf j = some g) : s.acceptReserve c = reservePages g j (j.openPages g) := by
  simp only [State.acceptReserve, hj, hg]

/-- The job of a receive that opens holds its frames, pinned (R143, R223). -/
theorem State.job_openRecv {s : State} {c : Cmd} {j j' : Job} (hj : s.job c.job = some j)
    (hframes : ∃ fs, j' = { j with frames := fs }) (fs : List (Nat × Nat × Nat × Nat)) :
    (s.openRecv c j' fs).job c.job = some (j'.pin (fs.map (fun f => (f.2.1, f.2.2.2))) true) := by
  have hhandle : j'.handle = c.job := by
    have hsource := State.job_handle hj
    obtain ⟨fs', rfl⟩ := hframes
    exact hsource
  exact State.job_updJob_same (s := s.stage c) (f := fun _ => j'.pin (fs.map (fun f => (f.2.1, f.2.2.2))) true)
    (fun _ _ => hhandle) hj

/-! ## The wait for a manifest (R224) -/

/-- An open receive whose wait has run out by an instant to which the timebase comes fails there with 0x8405 (R224). -/
theorem exec_acceptKvOpenWaitExpiry {s : State} {p : PartId} {m : BoxId} {t : Nat} {x : ShipRecv}
    (hx : s.shipsIn.find? (fun x => x.p == p && x.m == m && !x.arrived) = some x) (hnow : (advance t s).now = t)
    (hwait : x.openTime + x.wait ≤ t) :
    exec (.acceptKvOpenWaitExpiry p m t) s = .next ((advance t s).endShipIn x t (fail 0x8405)) := by
  have hfound : (advance t s).shipsIn.find? (fun x => x.p == p && x.m == m && !x.arrived) = some x := hx
  refine congrArg Host.Outcome.next ?_
  simp only [State.acceptTimeout, hfound, hnow, if_pos hwait]

theorem advance_now_of_running {s : State} {t : Nat} (hrun : s.tb.running = true) (hlt : s.tb.time < t) (ht : t < 2 ^ 64) :
    (advance t s).now = t := congrArg Timebase.time (if_pos ⟨hrun, hlt, ht⟩ : s.tb.advance t = _)

/-! ## The stream of a ship (R222, R225) -/

/-- What a receive publishes is its destination's sequence, accepted, at the length of the manifest (R225). -/
theorem State.publishShip_job {s : State} {x : ShipRecv} {j : Job} (hj : s.job x.job = some j) :
    ∃ j' e, (s.publishShip x).job x.job = some j' ∧ e ∈ j'.direct ∧ e.id = x.seq ∧ e.accepted = true
      ∧ e.main.len = x.length := by
  simp only [State.publishShip, hj]
  exact ⟨_, _, State.job_updJob_same (fun _ hx => hx) hj, List.mem_append_right _ (List.mem_singleton_self _), rfl, rfl, rfl⟩

/-- An ACCEPT_KV that commits publishes its ship, ends its receive and acknowledges it (R225). -/
theorem State.commitAccept_spec {s : State} {x : ShipRecv} {j : Job} (hj : s.job x.job = some j) (t : Nat) :
    ∃ j' e, (s.commitAccept x t).job x.job = some j' ∧ e ∈ j'.direct ∧ e.id = x.seq ∧ e.accepted = true
      ∧ e.main.len = x.length ∧ (s.commitAccept x t).cmdAt x.p x.m = none
      ∧ Out.shipAck x.shipId ∈ (s.commitAccept x t).out
      ∧ (∀ y ∈ (s.commitAccept x t).shipsIn, ¬ (y.p = x.p ∧ y.m = x.m)) := by
  obtain ⟨j', e, hj', he, hid, hacc, hlen⟩ := State.publishShip_job hj
  obtain ⟨e', he', hid', hacc', hlen'⟩ := State.repinned_direct _ x.frames false he
  exact ⟨_, e', State.job_endShipIn _ x t (ok []) hj', he', hid'.trans hid, hacc'.trans hacc, hlen'.trans hlen,
    State.cmdAt_endShipIn _ x t (ok []), List.mem_append_right _ (List.mem_singleton_self _),
    State.endShipIn_shipsIn _ x t (ok [])⟩

/-- Filling frames changes nothing of a job but its frames (R200). -/
theorem Job.foldl_fill_handle (fs : List (Nat × Nat)) (j : Job) :
    (fs.foldl (fun j f => j.fill f.1 f.2 16) j).handle = j.handle := by
  obtain ⟨_, hfill⟩ := Job.foldl_frames (f := fun (j : Job) (f : Nat × Nat) => j.fill f.1 f.2 16) (fun _ _ => ⟨_, rfl⟩) fs j
  rw [hfill]

/-- A stream that agrees with a suspended job commits its receive, once its pages are in their frames (R225). -/
theorem State.shipArrive_agrees {s : State} {x : ShipRecv} {ship : ShipIn} {j : Job} {g : Graph} (hj : s.job x.job = some j)
    (hg : s.mainOf j = some g) (hwhole : ship.cutShort = false) (hid : u32 ship.manifest 0 = x.shipId)
    (hok : manifestOk j g ship = true) (hidle : s.active ≠ some x.job) (t : Nat) :
    ∃ (u : State) (j' : Job), s.shipArrive x ship t = u.commitAccept (x.take ship) t ∧ u.job x.job = some j' := by
  have hfilled := State.job_updJob_same (s := { s with
      hbm := storePages j (x.take ship).frames ship.pages s.hbm,
      shipsIn := updIf (fun z => z.p == x.p && z.m == x.m) (fun _ => x.take ship) s.shipsIn })
    (f := fun j => (x.take ship).frames.foldl (fun j f => j.fill f.1 f.2 16) j)
    (fun j hx => (Job.foldl_fill_handle _ j).trans hx) hj
  have hagrees : ¬ (u32 ship.manifest 0 ≠ x.shipId ∨ manifestOk j g ship = false) := by simp [hid, hok]
  simp only [State.shipArrive, hj, hg, hwhole, if_neg hagrees, Bool.false_eq_true, if_false]
  rw [if_neg]
  · exact ⟨_, _, rfl, State.job_pinFrames hfilled _ _⟩
  · exact fun hactive => hidle (beq_iff_eq.mp hactive)

theorem exec_shipStream {s : State} {id : Nat} {x : ShipRecv} (hx : s.openReceive id = some x) (ship : ShipIn) :
    exec (.shipStream id ship) s = .next (s.shipArrive x ship s.now) := by
  simp only [exec, execShipStream, hx]

/-! ## The statement -/

/-- Settles O12: an ACCEPT_KV opens a receive or fails for want of frames, its wait ends in the failure of the receive, and a
stream that agrees ends in its commit. -/
theorem shipsReceived : Obligations.ShipsReceived := by
  unfold Obligations.ShipsReceived
  refine ⟨?_, ?_, ?_, ?_⟩
  · intro s p m j g r hdue hcheck hj hg hr
    have hreserve := (State.acceptReserve_of hj hg).trans hr
    have hopen := acceptAcceptKv_open (c := s.flipped p m) hcheck hreserve
    exact ⟨_, _, (exec_acceptKv hdue).trans (congrArg _ hopen), rfl, rfl, rfl, rfl, rfl, rfl, rfl, rfl, rfl,
      State.job_openRecv hj (reservePages_frames hr) r.2, s.cmdAt_stage (s.asked p m), rfl⟩
  · intro s p m hdue hcheck hshort
    exact (exec_acceptKv hdue).trans (congrArg _ (acceptAcceptKv_short (c := s.flipped p m) hcheck hshort))
  · intro s p m t x hx hrun hlt ht hwait
    have hnow := advance_now_of_running hrun hlt ht
    obtain ⟨⟨rfl, rfl⟩, -⟩ : (x.p = p ∧ x.m = m) ∧ x.arrived = false := by simpa using List.find?_some hx
    refine ⟨_, exec_acceptKvOpenWaitExpiry hx hnow hwait, State.endShipIn_shipsIn _ x _ _, State.cmdAt_endShipIn _ x _ _, ?_,
      fun c hc hs => State.endShipIn_replied (advance t s) x _ _ hc hs⟩
    rw [State.endShipIn_tb]
    exact hnow
  · intro s id ship x j g hx hj hg hwhole hid hok hidle
    obtain ⟨u, j', harrive, hj'⟩ := State.shipArrive_agrees hj hg hwhole hid hok hidle s.now
    have hspec := State.commitAccept_spec (x := x.take ship) hj' s.now
    rw [← harrive] at hspec
    obtain ⟨j'', e, hjob, hmem, hseq, hacc, hlen, hgone, hack, hclosed⟩ := hspec
    exact ⟨_, j'', e, exec_shipStream hx ship, hjob, hmem, hseq, hacc, hlen, hgone, hack, hclosed⟩

end Sys2Proof.Machine
end

section
/-! SHIP_KV and the acknowledgement of its ship (R225). -/
namespace Sys2Proof.Machine

/-! ## Checks that pass -/

/-- A fold that never goes back to none from a value ends in one. -/
theorem isSome_foldl {α β : Type} {f : Option β → α → Option β} (hf : ∀ b x, (f (some b) x).isSome = true) (xs : List α)
    (b : β) : (xs.foldl f (some b)).isSome = true := by
  induction xs generalizing b with
  | nil => rfl
  | cons x xs ih =>
    obtain ⟨c, hc⟩ := Option.isSome_iff_exists.mp (hf b x)
    rw [List.foldl_cons, hc]
    exact ih c

/-- A broken check is reported (R339). -/
theorem firstBad_cons_false {x : Nat × Bool} (hx : x.2 = false) (xs : List (Nat × Bool)) :
    (firstBad (x :: xs)).isSome = true := by
  rw [firstBad, List.foldl_cons, if_neg (ne_true_of_eq_false hx)]
  exact isSome_foldl (fun b y => by split <;> rfl) xs x.1

/-- No check is broken where none is reported (R339). -/
theorem firstBad_eq_none {xs : List (Nat × Bool)} (h : firstBad xs = none) : ∀ x ∈ xs, x.2 = true := by
  induction xs with
  | nil => exact fun _ hx => absurd hx List.not_mem_nil
  | cons x xs ih =>
    cases hx : x.2 with
    | true =>
      rw [firstBad, List.foldl_cons, if_pos hx] at h
      exact List.forall_mem_cons.mpr ⟨hx, ih h⟩
    | false =>
      have hbad := firstBad_cons_false hx xs
      rw [h] at hbad
      cases hbad

theorem bodyFault_eq_none {body : Bytes} {f : Fields} {checks : List (Nat × Bool)} (h : bodyFault body f checks = none) :
    ∀ x ∈ checks, x.2 = true := by
  rw [bodyFault] at h
  split at h
  · cases h
  · exact firstBad_eq_none (Option.map_eq_none_iff.mp h)

/-- A sequence that SHIP_KV may name has committed positions (R225, R345). -/
theorem State.shipKvCheck_len {s : State} {c : Cmd} {j : Job} {k : KvState} (hcheck : s.shipKvCheck c = none)
    (hj : s.job c.job = some j) (hk : j.kvOf (u32 c.body 4) = some k) : 0 < k.len := by
  rw [State.shipKvCheck, firstFault, List.findSome?_eq_none_iff] at hcheck
  have hbody := bodyFault_eq_none (hcheck _ (List.mem_cons_of_mem _ List.mem_cons_self))
  have hholds := hbody _ (List.mem_append_left _ (List.mem_cons_of_mem _ List.mem_cons_self))
  simpa [hj, hk] using hholds

/-! ## The start of a send (R225) -/

theorem shipManifest_length (g : Graph) (j : Job) (shipId seq len scaleBytes pageBytes : Nat) :
    (shipManifest g j shipId seq len scaleBytes pageBytes).length = 64 := by
  simp [shipManifest, leBytes_length, zeros]

/-- What went out before a message on a stream stays out. -/
theorem State.mem_out_transmit {s : State} {o : Out} (ho : o ∈ s.out) (k : StreamKey) (ranks : Nat × Nat)
    (payloads : List Bytes) : o ∈ (s.transmit k ranks payloads).out := by
  rw [State.transmit]
  split
  · exact ho
  · exact List.mem_append_left _ ho

/-- Where no send of its mailbox is under way, a SHIP_KV that commits starts one (R225). -/
theorem commitShipKv_none {s : State} {c : Cmd} (hnone : s.shipsOut.find? (fun x => x.p == c.p && x.m == c.m) = none)
    (t : Nat) : commitShipKv c t s = s.shipStart c t := by
  simp only [commitShipKv, hnone]

/-- SHIP_KV names no slots (R341, R345). -/
theorem State.named_shipKv (s : State) {c : Cmd} (hcode : c.code = 0x35) : s.named c = { c with slots := [] } := by
  have hareas : s.areas c.p c.code c.body = [] := by
    rw [hcode]
    rfl
  rw [State.named, hareas]
  rfl

/-- A SHIP_KV accepted for a suspended job starts its send where its mailbox has none under way (R225, R340). -/
theorem exec_shipKv_start {s : State} {p : PartId} {m : BoxId} (hdue : Due s p m 0x35)
    (hcheck : s.shipKvCheck (s.asked p m) = none) (hidle : s.active ≠ some (s.asked p m).job)
    (hnone : s.shipsOut.find? (fun x => x.p == p && x.m == m) = none) :
    exec (.shipKv p m) s = .next ((s.stage (s.asked p m)).shipStart (s.asked p m) s.now) := by
  have hserve : s.serve p m 0x35 acceptShipKv = acceptShipKv (s.flipped p m) s := State.serveIf_due hdue rfl _
  have hnamed : (s.stage (s.named (s.flipped p m))).named (s.flipped p m) = s.named (s.flipped p m) :=
    (State.named_shipKv _ hdue.code).trans (State.named_shipKv _ hdue.code).symm
  have hpass : s.shipKvCheck (s.flipped p m) = none := hcheck
  have hsuspended : ¬ (s.stage (s.named (s.flipped p m))).isActive (s.flipped p m).job = true :=
    fun hactive => hidle (beq_iff_eq.mp hactive)
  have hstart := commitShipKv_none (s := s.stage (s.asked p m)) (c := s.asked p m) hnone s.now
  refine congrArg Host.Outcome.next (hserve.trans (Eq.trans ?_ hstart))
  simp only [acceptShipKv, hpass, if_neg hsuspended, hnamed]
  rfl

/-- The pages of a sequence as a ship brings them (R222). -/
def State.shipBytes (s : State) (j : Job) (g : Graph) (k : KvState) : Bytes :=
  (shipPages g j.nRanks j.rank (ceilDiv k.len 16)).flatMap (fun p => s.pageBytes j k p.1 p.2.1 p.2.2)

/-- The manifest of the ship of a sequence (R222). -/
def State.manifestOf (s : State) (c : Cmd) (j : Job) (g : Graph) (k : KvState) : Bytes :=
  shipManifest g j (u32 c.body 0) (u32 c.body 4) k.len (scaleRecord g k.num).length (s.shipBytes j g k).length

/-- The send that a SHIP_KV of a sequence stages, its length the committed one (R225). -/
def Cmd.shipOf (c : Cmd) (j : Job) (g : Graph) (k : KvState) : ShipOut :=
  ⟨u32 c.body 0, c.p, c.m, j.handle, u32 c.body 4, u32 c.body 8, memberAt c.body 0x10, k.len, bit (u8 c.body 0x0C) 0,
    (k.pt.filter (fun e => e.valid && decide (e.page < ceilDiv k.len 16))).map (fun e => (j.kvB (some g) e.desc, e.frame)),
    false⟩

/-- A send to another module under way: its pages pinned, its offer and its stream out (R225). -/
def State.sending (s : State) (x : ShipOut) (mf sc bs : Bytes) : State :=
  let s : State := { s with draws := s.draws + bs.length, shipsOut := s.shipsOut ++ [x] }
  let s := s.pinFrames x.job x.frames true
  { s with out := s.out ++ [.shipOffer x.shipId, .shipStream x.shipId mf sc bs] }

/-- The send of a sequence to another module goes out at once (R225). -/
theorem State.shipStart_other {s : State} {c : Cmd} {j : Job} {g : Graph} {k : KvState} (hj : s.job c.job = some j)
    (hg : s.mainOf j = some g) (hk : j.kvOf (u32 c.body 4) = some k) (hlen : 0 < k.len)
    (hother : memberAt c.body 0x10 ≠ s.coord.member)
    (hgood : (k.pt.filter (fun e => e.valid && decide (e.page < ceilDiv k.len 16))).any
      (fun e => s.badPage j (j.kvB (some g) e.desc) e) = false) (t : Nat) :
    ∃ mf bs key ranks payloads, mf.length = 64 ∧ s.shipStart c t
      = (s.sending (c.shipOf j g k) mf (scaleRecord g k.num) bs).transmit key ranks payloads := by
  have hothers : (memberAt c.body 0x10 == s.coord.member) = false := beq_false_of_ne hother
  refine ⟨s.manifestOf c j g k, s.shipBytes j g k, ⟨0, (memberAt c.body 0x10).code, 5⟩, (j.rank, j.rank),
    s.manifestOf c j g k :: (objPayloads (scaleRecord g k.num) ++ objPayloads (s.shipBytes j g k)),
    shipManifest_length _ _ _ _ _ _ _, ?_⟩
  simp only [State.shipStart, hj, hg, hk, if_neg (Nat.ne_of_gt hlen), hothers, hgood, Bool.false_eq_true, false_and, if_false]
  rfl

/-! ## The acknowledgement (R225) -/

/-- A send that its destination has acknowledged (R225). -/
def ShipOut.acknowledged (x : ShipOut) : ShipOut := { x with acked := true }

/-- The sends of a module after an acknowledgement (R225). -/
def acknowledge (id : Nat) (xs : List ShipOut) : List ShipOut :=
  xs.map (fun y => if y.shipId == id then { y with acked := true } else y)

section
variable {xs : List ShipOut} {x : ShipOut} (honly : ∀ y ∈ xs, y.shipId = x.shipId → y = x)
include honly

/-- A send of the id that was acknowledged is the one send of that id. -/
theorem eq_of_mem_acknowledge {y : ShipOut} (hy : y ∈ acknowledge x.shipId xs) (hid : y.shipId = x.shipId) :
    y = x.acknowledged := by
  obtain ⟨z, hz, rfl⟩ := List.mem_map.mp hy
  by_cases hzid : z.shipId = x.shipId
  · rw [honly z hz hzid, if_pos (beq_self_eq_true _)]
    rfl
  · rw [if_neg (by simpa using hzid)] at hid
    exact absurd hid hzid

theorem find?_acknowledge (hx : x ∈ xs) :
    (acknowledge x.shipId xs).find? (fun y => y.shipId == x.shipId) = some x.acknowledged := by
  have hmem : x.acknowledged ∈ acknowledge x.shipId xs :=
    List.mem_map.mpr ⟨x, hx, if_pos (beq_self_eq_true _)⟩
  cases hfind : (acknowledge x.shipId xs).find? (fun y => y.shipId == x.shipId) with
  | none => exact absurd (beq_self_eq_true x.shipId) (List.find?_eq_none.mp hfind x.acknowledged hmem)
  | some y =>
    rw [eq_of_mem_acknowledge honly (List.mem_of_find?_eq_some hfind) (beq_iff_eq.mp (List.find?_some hfind :))]

end

/-- A SHIP_KV that commits is answered with status 0, and its send is over (R225). -/
theorem State.commitShip_spec {s : State} {x : ShipOut} {c : Cmd} (hc : s.cmdAt x.p x.m = some c) (hs : s.memoryWf)
    (t : Nat) : Replied c t (ok []) (s.commitShip x t)
      ∧ (s.commitShip x t).shipsOut = s.shipsOut.filter (fun y => !(y.p == x.p && y.m == x.m)) := by
  rw [State.commitShip]
  split
  · exact ⟨State.endShipOut_replied (s.updJob x.job (fun j => j.releaseSeq x.seq)) x t _ hc hs,
      State.endShipOut_shipsOut _ _ _ _⟩
  · exact ⟨State.endShipOut_replied s x t _ hc hs, State.endShipOut_shipsOut _ _ _ _⟩

/-- The acknowledgement of the one send of its id, of a job that is not active, commits the SHIP_KV (R225). -/
theorem exec_shipCommitAcknowledged {s : State} {x : ShipOut} (hx : x ∈ s.shipsOut) (hidle : s.active ≠ some x.job)
    (honly : ∀ y ∈ s.shipsOut, y.shipId = x.shipId → y = x) : exec (.shipCommitAcknowledged x.shipId) s
      = .next (({ s with shipsOut := acknowledge x.shipId s.shipsOut } : State).commitShip x.acknowledged s.now) := by
  have hfind := find?_acknowledge honly hx
  have hsuspended : ¬ ({ s with shipsOut := acknowledge x.shipId s.shipsOut } : State).isActive x.acknowledged.job = true :=
    fun hactive => hidle (beq_iff_eq.mp hactive)
  refine congrArg Host.Outcome.next ?_
  rw [acknowledge] at hfind hsuspended
  simp only [State.shipAcked, hfind, if_neg hsuspended]
  rfl

/-! ## The statement -/

/-- Settles O13: a SHIP_KV that is accepted starts its send, and the acknowledgement of that send commits it. -/
theorem shipsSent : Obligations.ShipsSent := by
  unfold Obligations.ShipsSent
  refine ⟨?_, ?_⟩
  · intro s p m j g k hdue hsuspended hcheck hg hk hnone hother hgood
    have hlen := State.shipKvCheck_len hcheck hsuspended.found hk
    obtain ⟨mf, bs, key, ranks, payloads, hmf, hsent⟩ :=
      State.shipStart_other (s := s.stage (s.asked p m)) hsuspended.found hg hk hlen hother hgood s.now
    have hstart := exec_shipKv_start hdue hcheck hsuspended.idle hnone
    rw [hsent] at hstart
    refine ⟨_, (s.asked p m).shipOf j g k, mf, bs, hstart, State.transmit_shipsOut _ _ _ _, rfl, rfl, rfl, rfl,
      State.mem_out_transmit ?_ _ _ _, State.mem_out_transmit ?_ _ _ _, hmf, ?_, State.transmit_hbm _ _ _ _,
      State.transmit_graphs _ _ _ _⟩
    · exact List.mem_append_right _ List.mem_cons_self
    · exact List.mem_append_right _ (List.mem_cons_of_mem _ List.mem_cons_self)
    · rw [State.cmdAt, State.transmit_cmds]
      exact s.cmdAt_stage (s.asked p m)
  · intro s x c hx hidle honly hc hs
    obtain ⟨hreplied, hleft⟩ := State.commitShip_spec (s := { s with shipsOut := acknowledge x.shipId s.shipsOut })
      (x := x.acknowledged) hc hs s.now
    refine ⟨_, exec_shipCommitAcknowledged hx hidle honly, hreplied, fun y hy hid => ?_⟩
    rw [hleft] at hy
    obtain ⟨hmem, hbox⟩ := List.mem_filter.mp hy
    rw [eq_of_mem_acknowledge honly hmem hid] at hbox
    simp at hbox

end Sys2Proof.Machine
end

section
/-! ADMIT_SEQUENCE, CANCEL_SEQUENCE, PAUSE_SEQUENCE and RESUME_SEQUENCE of a job that is not active (R233, R234, R243, R340). -/
namespace Sys2Proof.Machine

/-! ## A command of a suspended job (R340) -/

/-- A command of a job that is not active commits at once where its check passes and its areas are good (R146, R340). -/
theorem State.staged_suspended {s : State} {c : Cmd} {check : Option Result} {h : Nat} (hcheck : check = none)
    (hareas : AreasGood s (s.named c)) (hidle : s.active ≠ some h) (commit : Cmd → Nat → State → State) :
    s.staged c check (some h) commit = commit (s.named c) s.now s := by
  have hvet : s.vet (s.named c) check = none := by
    simp [State.vet, firstFault, statusFault, hcheck, hareas.owned, hareas.clean]
  simp only [State.staged, hvet]
  exact if_neg fun hactive => hidle hactive.2

/-- A due command that waits for a boundary of its job commits at once where that job is suspended (R338, R340). -/
theorem State.serve_suspended {s : State} {p : PartId} {m : BoxId} {code : Nat} {j : Job}
    {check : Cmd → State → Option Result} (hdue : Due s p m code) (hsuspended : Suspended s (s.asked p m) j)
    (hcheck : check (s.flipped p m) s = none) (hareas : AreasGood s (s.asked p m)) (commit : Cmd → Nat → State → State) :
    s.serve p m code (fun c s => s.staged c (check c s) (some c.job) commit) = commit (s.asked p m) s.now s :=
  (State.serveIf_due hdue rfl _).trans (State.staged_suspended hcheck hareas hsuspended.idle commit)

/-- Scope and body are the checks of a command of job scope: both pass where the job is the caller's and its body is good
(R339). -/
theorem State.scopeAndBody_pass {s : State} {c : Cmd} {j : Job} {body : Option Result} (hscope : s.scoped c = .ok j)
    (hbody : body = none) : firstFault [scopeFault (s.scoped c), body] = none := by
  rw [hscope, hbody]
  rfl

/-! ## CANCEL, PAUSE and RESUME (R243) -/

/-- An entry cancelled while it holds KV state: it drains (R243). -/
def SeqEntry.cancelled (e : SeqEntry) : SeqEntry :=
  { e with cancel := true, state := .draining, resume := none, times := { e.times with pauseTime := 0 } }

/-- An entry paused at an instant, to go on from a state (R243). -/
def SeqEntry.pausedFrom (st : SeqState) (t : Nat) (e : SeqEntry) : SeqEntry :=
  { e with state := .paused, resume := some st, times := { e.times with pauseTime := t } }

/-- The body of a command of R243 is its SEQUENCE field (R345). -/
theorem State.seqCmdCheck_pass {s : State} {c : Cmd} {j : Job} (hscope : s.scoped c = .ok j) (hlen : 4 ≤ c.body.length) :
    s.seqCmdCheck c = none := by
  refine State.scopeAndBody_pass hscope ?_
  simp [bodyFault, bodyFields, firstBad, hlen]

section
variable {s : State} {c : Cmd} {j : Job} {e : SeqEntry} (hj : s.job c.job = some j)
  (he : j.seqs.find? (fun e => e.req.id == u32 c.body 0) = some e) (t : Nat)
include hj he

theorem State.seqAt_found : s.seqAt c = .ok (j, e) := by
  simp only [State.seqAt, hj, he]

/-- A sequence that has begun, or is paused, drains on a CANCEL (R243). -/
theorem commitCancel_drains (hst : e.state = .prefill ∨ e.state = .decode ∨ e.state = .paused) :
    commitCancel c t s = (s.updJob c.job (fun j => j.updSeq e.req.id SeqEntry.cancelled)).answer c t (ok []) := by
  have hat := State.seqAt_found hj he
  rcases hst with hst | hst | hst <;> simp only [commitCancel, hat, hst] <;> rfl

/-- A sequence that is served pauses, and keeps the state it is to go on from (R243). -/
theorem commitPause_pauses (hst : e.state = .waiting ∨ e.state = .prefill ∨ e.state = .decode) :
    commitPause c t s
      = (s.updJob c.job (fun j => j.updSeq e.req.id (SeqEntry.pausedFrom e.state t))).answer c t (ok []) := by
  have hat := State.seqAt_found hj he
  rcases hst with hst | hst | hst <;> simp only [commitPause, hat, hst] <;> rfl

theorem commitResume_resumes (hst : e.state = .paused) :
    commitResume c t s = (s.updJob c.job (fun j => j.updSeq e.req.id (·.resumed t))).answer c t (ok []) := by
  simp only [commitResume, State.seqAt_found hj he, hst]

end

section
variable {s : State} {p : PartId} {m : BoxId} {j : Job} (hsuspended : Suspended s (s.asked p m) j)
  (hlen : 4 ≤ (s.asked p m).body.length) (hareas : AreasGood s (s.asked p m))
include hsuspended hlen hareas

/-- A command of R243 commits at once where its job is suspended (R340). -/
theorem State.serve_seqCmd_suspended {code : Nat} (hdue : Due s p m code) (commit : Cmd → Nat → State → State) :
    s.serve p m code (fun c s => s.staged c (s.seqCmdCheck c) (some c.job) commit) = commit (s.asked p m) s.now s :=
  State.serve_suspended (check := fun c s => s.seqCmdCheck c) hdue hsuspended
    (State.seqCmdCheck_pass hsuspended.ofCaller hlen) hareas commit

theorem exec_cancelSequence_suspended (hdue : Due s p m 0x32) :
    exec (.cancelSequence p m) s = .next (commitCancel (s.asked p m) s.now s) :=
  congrArg Host.Outcome.next (State.serve_seqCmd_suspended hsuspended hlen hareas hdue commitCancel)

theorem exec_pauseSequence_suspended (hdue : Due s p m 0x33) :
    exec (.pauseSequence p m) s = .next (commitPause (s.asked p m) s.now s) :=
  congrArg Host.Outcome.next (State.serve_seqCmd_suspended hsuspended hlen hareas hdue commitPause)

theorem exec_resumeSequence_suspended (hdue : Due s p m 0x34) :
    exec (.resumeSequence p m) s = .next (commitResume (s.asked p m) s.now s) :=
  congrArg Host.Outcome.next (State.serve_seqCmd_suspended hsuspended hlen hareas hdue commitResume)

end

/-! ## ADMIT_SEQUENCE (R233, R234) -/

theorem exec_admitSequence_suspended {s : State} {p : PartId} {m : BoxId} {j : Job} (hdue : Due s p m 0x31)
    (hsuspended : Suspended s (s.asked p m) j) (hareas : AreasGood s (s.asked p m))
    (hbody : bodyFault (s.asked p m).body (bodyFields 0x31) (admitChecks (s.asked p m).body) = none) :
    exec (.admitSequence p m) s = .next (commitAdmit (s.asked p m) s.now s) :=
  congrArg Host.Outcome.next (State.serve_suspended
    (check := fun c s => firstFault [scopeFault (s.scoped c), bodyFault c.body (bodyFields 0x31) (admitChecks c.body)])
    hdue hsuspended (State.scopeAndBody_pass hsuspended.ofCaller hbody) hareas commitAdmit)

/-- An admission that breaks no condition of R233 is taken into its job's table, and answered with its slot and time (R234). -/
theorem commitAdmit_takesIn {s : State} {c : Cmd} {j : Job} (hj : s.job c.job = some j)
    (hadmit : s.admitFault j (admitReq c.body) (s.promptOf c) = none) (t : Nat) :
    commitAdmit c t s = (s.updJob c.job (fun j => j.takeIn (admitReq c.body) (s.promptOf c) t)).answer c t
      (ok (leBytes 4 j.freeSlot ++ leBytes 8 t)) := by
  simp only [commitAdmit, hj, hadmit]

/-- A table that takes a sequence in grows by its entry, which is WAITING in the free slot and has emitted nothing (R234). -/
theorem Job.takeIn_entry (j : Job) (r : AdmitReq) (prompt : List Nat) (t : Nat) :
    ∃ e ∈ (j.takeIn r prompt t).seqs, e.req = r ∧ e.state = .waiting ∧ e.emitted = 0 ∧ e.times.admitTime = t
      ∧ e.times.accAvg = 0x8000 ∧ e.slot = j.freeSlot :=
  ⟨_, List.mem_append_right _ List.mem_cons_self, rfl, rfl, rfl, rfl, rfl, rfl⟩

theorem Job.takeIn_seqs_length (j : Job) (r : AdmitReq) (prompt : List Nat) (t : Nat) :
    (j.takeIn r prompt t).seqs.length = j.seqs.length + 1 := by
  simp [Job.takeIn]

/-! ## The statement -/

/-- Settles O7: each command passes its checks and commits at once, as one change of its job's sequence table and its
answer. -/
theorem sequencesServed : Obligations.SequencesServed := by
  unfold Obligations.SequencesServed
  refine ⟨?_, ?_, ?_, ?_⟩
  · intro s p m j e hdue hsuspended hlen hareas he hst
    rw [exec_cancelSequence_suspended hsuspended hlen hareas hdue, commitCancel_drains hsuspended.found he _ hst,
      State.job_handle hsuspended.found]
    rfl
  · intro s p m j e hdue hsuspended hlen hareas he hst
    rw [exec_pauseSequence_suspended hsuspended hlen hareas hdue, commitPause_pauses hsuspended.found he _ hst,
      State.job_handle hsuspended.found]
    rfl
  · intro s p m j e hdue hsuspended hlen hareas he hst
    rw [exec_resumeSequence_suspended hsuspended hlen hareas hdue, commitResume_resumes hsuspended.found he _ hst,
      State.job_handle hsuspended.found]
  · intro s p m j hdue hsuspended hbody hareas hadmit
    have hj := hsuspended.found
    obtain ⟨e, hmem, hentry⟩ := j.takeIn_entry (admitReq (s.asked p m).body) (s.promptOf (s.asked p m)) s.now
    obtain ⟨hreq, hwaiting, hemitted, htime, havg, hslot⟩ := hentry
    rw [exec_admitSequence_suspended hdue hsuspended hareas hbody, commitAdmit_takesIn hj hadmit, State.job_handle hj]
    refine ⟨_, _, e, rfl, ?_, hmem, hreq, hwaiting, hemitted, htime, havg, hslot, Job.takeIn_seqs_length _ _ _ _,
      fun h hne => ?_⟩
    · rw [State.job_congr (State.answer_jobs _ _ _ _)]
      exact State.job_updJob_same (fun _ hx => hx) hj
    · rw [State.job_congr (State.answer_jobs _ _ _ _)]
      exact State.job_updJob_other (fun _ hx => hx) hne

end Sys2Proof.Machine
end

section
/-! What no command changes: the commands that wait behind it, and what manufacture wrote into flash (R376, R377). An operation
leaves it where each of its branches does; one lemma an operation says so. -/
namespace Sys2Proof.Machine

/-- What lasts: the commands that wait, and what manufacture wrote into flash (R376, R377). -/
def State.lasting (s : State) : List Instr × BitVec 64 × Nat × Bytes × Bytes × Bool := (s.pending, s.flash.identity)

theorem State.lasting_congr {s t : State} (hpending : t.pending = s.pending) (hflash : t.flash = s.flash) :
    t.lasting = s.lasting := by rw [State.lasting, State.lasting, hpending, hflash]

/-! ## Records

Both rules of `lasting` are rewrites and not definitional unfoldings: the kernel would compare the states themselves first. -/

@[simp] theorem State.lasting_mk (flash plan planLocked board tb coord power fw report cfg parts graphs nextGref blocks jobs active
    cmds shipsOut shipsIn cells fenced fencedDma haltedDma contexts waitingReds moduleSums hbm net counters draws out pending) :
    (State.mk flash plan planLocked board tb coord power fw report cfg parts graphs nextGref blocks jobs active cmds shipsOut
      shipsIn cells fenced fencedDma haltedDma contexts waitingReds moduleSums hbm net counters draws out pending).lasting
      = (pending, flash.identity) := by
  unfold State.lasting
  rfl

@[simp] theorem State.lasting_eta (s : State) : (s.pending, s.flash.identity) = s.lasting := by
  unfold State.lasting
  rfl

@[simp] theorem Flash.identity_mk (serial grade certRsa certSlh rootOk firstA firstB owner config slotB failedBoots imageA imageB
    trips) : (Flash.mk serial grade certRsa certSlh rootOk firstA firstB owner config slotB failedBoots imageA imageB
      trips).identity = (serial, grade, certRsa, certSlh, rootOk) := rfl

@[simp] theorem Flash.identity_eta (f : Flash) : (f.serial, f.grade, f.certRsa, f.certSlh, f.rootOk) = f.identity := rfl

@[simp] theorem Flash.identity_setOther (f : Flash) (x : Image) : (f.setOther x).identity = f.identity := by
  unfold Flash.setOther
  split <;> rfl

/-! ## Branches and folds -/

@[simp] theorem State.lasting_ite (c : Prop) [Decidable c] (s t : State) :
    (if c then s else t).lasting = if c then s.lasting else t.lasting := apply_ite _ _ _ _

@[simp] theorem foldl_lasting {α : Type} {f : State → α → State} (hf : ∀ s x, (f s x).lasting = s.lasting) (xs : List α)
    (s : State) : (xs.foldl f s).lasting = s.lasting := by
  induction xs generalizing s with
  | nil => rfl
  | cons x xs ih => rw [List.foldl_cons, ih, hf]

end Sys2Proof.Machine
end

section
/-! The operations that every family shares, and the ways in which a mailbox command is served: each leaves what lasts. -/
namespace Sys2Proof.Machine

variable (s : State) (p : PartId) (m : BoxId) (c : Cmd) (r : Result)

/-! ## Shared operations -/

@[simp] theorem advance_lasting (t : Nat) : (advance t s).lasting = s.lasting := rfl
@[simp] theorem tick_lasting : (tick s).lasting = s.lasting := rfl
@[simp] theorem State.updPart_lasting (f : Part → Part) : (s.updPart p f).lasting = s.lasting := rfl
@[simp] theorem State.bulkWrite_lasting (v : Nat) (bs : Bytes) : (s.bulkWrite p v bs).lasting = s.lasting := rfl
@[simp] theorem State.emit_lasting (o : Out) : (s.emit o).lasting = s.lasting := rfl
@[simp] theorem State.emitHost_lasting (h : HostPort) (o : Out) : (s.emitHost h o).lasting = s.lasting :=
  State.lasting_congr (s.emitHost_pending h o) (s.emitHost_flash h o)
@[simp] theorem State.emitRoce_lasting (q : Qp) (x : RoceOut) : (s.emitRoce q x).lasting = s.lasting :=
  State.lasting_congr (s.emitRoce_pending q x) (s.emitRoce_flash q x)
@[simp] theorem State.updQp_lasting (k : Nat) (f : Qp → Qp) : (s.updQp k f).lasting = s.lasting := rfl
@[simp] theorem State.notice_lasting (k : Nat) (w : BitVec 32) : (s.notice k w).lasting = s.lasting :=
  State.lasting_congr (s.notice_pending k w) (s.notice_flash k w)
@[simp] theorem State.noticePart_lasting (w : BitVec 32) : (s.noticePart p w).lasting = s.lasting :=
  State.lasting_congr (s.noticePart_pending p w) (s.noticePart_flash p w)
@[simp] theorem State.postTo_lasting (e : Event) : (s.postTo p e).lasting = s.lasting :=
  State.lasting_congr (s.postTo_pending p e) (s.postTo_flash p e)
@[simp] theorem State.postPart_lasting (e : Event) : (s.postPart p e).lasting = s.lasting :=
  State.lasting_congr (s.postPart_pending p e) (s.postPart_flash p e)
@[simp] theorem State.postParts_lasting (ps : List PartId) (e : Event) : (s.postParts ps e).lasting = s.lasting :=
  State.lasting_congr (s.postParts_pending ps e) (s.postParts_flash ps e)
@[simp] theorem State.postModule_lasting (e : Event) : (s.postModule e).lasting = s.lasting :=
  State.lasting_congr (s.postModule_pending e) (s.postModule_flash e)
@[simp] theorem State.postPartBad_lasting (v n : Nat) : (s.postPartBad p v n).lasting = s.lasting := by
  simp [State.postPartBad]
@[simp] theorem State.bulkStore_lasting (v : Nat) (bs : Bytes) : (s.bulkStore p v bs).lasting = s.lasting := by
  simp [State.bulkStore]
@[simp] theorem State.slotWrite_lasting (k : Nat) (bs : Bytes) : (s.slotWrite p k bs).lasting = s.lasting :=
  State.lasting_congr (s.slotWrite_pending p k bs) (s.slotWrite_flash p k bs)
@[simp] theorem State.ctrlWrite_lasting (a : Nat) (bs : Bytes) : (s.ctrlWrite p a bs).lasting = s.lasting := rfl
@[simp] theorem State.updBox_lasting (f : Box → Box) : (s.updBox p m f).lasting = s.lasting := rfl
@[simp] theorem State.returnSlot_lasting (k : Nat) : (s.returnSlot p k).lasting = s.lasting := by simp [State.returnSlot]
@[simp] theorem State.returnSlots_lasting (ks : List Nat) : (s.returnSlots p ks).lasting = s.lasting :=
  State.lasting_congr (s.returnSlots_pending p ks) (s.returnSlots_flash p ks)
@[simp] theorem State.replyHeader_lasting (tag flip done : Nat) :
    (s.replyHeader p m tag flip done r).lasting = s.lasting := by
  simp [State.replyHeader]
@[simp] theorem State.replyBody_lasting : (s.replyBody p m r).lasting = s.lasting := by simp [State.replyBody]
@[simp] theorem State.returnBox_lasting : (s.returnBox p m).lasting = s.lasting :=
  State.lasting_congr (s.returnBox_pending p m) (s.returnBox_flash p m)
@[simp] theorem State.answer_lasting (done : Nat) : (s.answer c done r).lasting = s.lasting :=
  State.lasting_congr (s.answer_pending c done r) (s.answer_flash c done r)
@[simp] theorem State.updJob_lasting (h : Nat) (f : Job → Job) : (s.updJob h f).lasting = s.lasting := rfl
@[simp] theorem State.updCells_lasting (p : Cell → Bool) (f : Cell → Cell) : (s.updCells p f).lasting = s.lasting := rfl
@[simp] theorem State.updCell_lasting (n : CellId) (f : Cell → Cell) : (s.updCell n f).lasting = s.lasting := rfl
@[simp] theorem State.tidyJob_lasting (h : Nat) : (s.tidyJob h).lasting = s.lasting := rfl
@[simp] theorem State.transmit_lasting (k : StreamKey) (ranks : Nat × Nat) (payloads : List Bytes) :
    (s.transmit k ranks payloads).lasting = s.lasting :=
  State.lasting_congr (s.transmit_pending k ranks payloads) (s.transmit_flash k ranks payloads)
@[simp] theorem State.sendOn_lasting (os : List Out) (k : StreamKey) : (s.sendOn os k).lasting = s.lasting := by
  simp [State.sendOn]
@[simp] theorem State.send_lasting (os : List Out) : (s.send os).lasting = s.lasting :=
  State.lasting_congr (s.send_pending os) (s.send_flash os)
@[simp] theorem State.control_lasting (job : Nat) (ranks : List Nat) (kind rank reason step boundary : Nat) :
    (s.control job ranks kind rank reason step boundary).lasting = s.lasting :=
  State.lasting_congr (s.control_pending job ranks kind rank reason step boundary)
    (s.control_flash job ranks kind rank reason step boundary)
@[simp] theorem State.abandonStep_lasting (j : Job) (x : Step) (cause : Nat) :
    (s.abandonStep j x cause).lasting = s.lasting :=
  State.lasting_congr (s.abandonStep_pending j x cause) (s.abandonStep_flash j x cause)
@[simp] theorem State.killStep_lasting (h cause : Nat) (tell : Bool) : (s.killStep h cause tell).lasting = s.lasting :=
  State.lasting_congr (s.killStep_pending h cause tell) (s.killStep_flash h cause tell)
@[simp] theorem State.killSteps_lasting (hs : List Nat) (cause : Nat) : (s.killSteps hs cause).lasting = s.lasting :=
  State.lasting_congr (s.killSteps_pending hs cause) (s.killSteps_flash hs cause)

/-! ## Serving a mailbox -/

@[simp] theorem State.finish_lasting : (s.finish c r).lasting = s.lasting := by simp [State.finish]
@[simp] theorem State.refuse_lasting (bad : Option Nat) : (s.refuse c bad r).lasting = s.lasting := by
  fun_cases State.refuse s c bad r <;> simp

@[simp] theorem State.immediate_lasting (check : Option Result) {run : Cmd → State → State × Result}
    (hrun : ∀ c s, (run c s).1.lasting = s.lasting) : (s.immediate c check run).lasting = s.lasting := by
  simp only [State.immediate]
  split <;> simp [hrun]

@[simp] theorem State.stage_lasting : (s.stage c).lasting = s.lasting := rfl

@[simp] theorem State.staged_lasting (check : Option Result) (job : Option Nat) {commit : Cmd → Nat → State → State}
    (hcommit : ∀ c t s, (commit c t s).lasting = s.lasting) : (s.staged c check job commit).lasting = s.lasting := by
  simp only [State.staged]
  split <;> simp [hcommit]

@[simp] theorem State.serveIf_lasting (code : Nat) (test : Bytes → Bool) {accept : Cmd → State → State}
    (haccept : ∀ c s, (accept c s).lasting = s.lasting) : (s.serveIf p m code test accept).lasting = s.lasting := by
  simp [State.serveIf, haccept]

@[simp] theorem State.serve_lasting (code : Nat) {accept : Cmd → State → State}
    (haccept : ∀ c s, (accept c s).lasting = s.lasting) : (s.serve p m code accept).lasting = s.lasting := by
  simp [State.serve, haccept]

end Sys2Proof.Machine
end

section
/-! Mailbox commands leave what lasts: reports, placement, configuration sets, loads, ships, the life of a job and its
sequences. -/
namespace Sys2Proof.Machine

variable (s : State) (c : Cmd) (h t : Nat) (j : Job)

/-! ## Places in HBM -/

@[simp] theorem State.settle_lasting : s.settle.lasting = s.lasting := by simp [State.settle]
@[simp] theorem State.fixW_lasting : s.fixW.lasting = s.lasting := by simp [State.fixW]
@[simp] theorem State.clearBlocks_lasting (bs : List Block) : (s.clearBlocks bs).lasting = s.lasting := by
  simp [State.clearBlocks]
@[simp] theorem State.dropBlocks_lasting (p : Block → Bool) : (s.dropBlocks p).lasting = s.lasting := by
  simp [State.dropBlocks]
@[simp] theorem State.dropStaged_lasting : (s.dropStaged c).lasting = s.lasting := by simp [State.dropStaged]
@[simp] theorem State.storeBlocks_lasting (bs : List (Block × Bytes)) : (s.storeBlocks bs).lasting = s.lasting := by
  simp [State.storeBlocks]
@[simp] theorem State.refetchBlocks_lasting (old bs : List Block) : (s.refetchBlocks old bs).lasting = s.lasting := by
  simp [State.refetchBlocks]
@[simp] theorem State.commitBlocks_lasting (bs : List Block) : (s.commitBlocks bs).lasting = s.lasting := by
  simp [State.commitBlocks]
@[simp] theorem State.updJobHbm_lasting (f : Job → Hbm → Job × Hbm) : (s.updJobHbm h f).lasting = s.lasting := by
  fun_cases State.updJobHbm s h f <;> simp +zetaDelta

/-! ## Reports -/

@[simp] theorem acceptQueryModule_lasting : (acceptQueryModule c s).lasting = s.lasting := by simp [acceptQueryModule]

@[simp] theorem acceptReadCounters_lasting : (acceptReadCounters c s).lasting = s.lasting := by
  unfold acceptReadCounters
  extract_lets check asked
  refine State.immediate_lasting _ _ _ fun c s => ?_
  split <;> simp

@[simp] theorem acceptReadEvents_lasting : (acceptReadEvents c s).lasting = s.lasting := by simp [acceptReadEvents]
@[simp] theorem State.reportPlacement_lasting : (s.reportPlacement h t).lasting = s.lasting := by
  simp [State.reportPlacement]

@[simp] theorem acceptQueryPlacement_lasting : (acceptQueryPlacement c s).lasting = s.lasting := by
  unfold acceptQueryPlacement
  refine State.immediate_lasting _ _ _ fun c s => ?_
  split <;> simp

@[simp] theorem acceptAttest_lasting : (acceptAttest c s).lasting = s.lasting := by simp [acceptAttest]
@[simp] theorem commitDebugArm_lasting : (commitDebugArm c t s).lasting = s.lasting := by simp [commitDebugArm]
@[simp] theorem acceptDebugArm_lasting : (acceptDebugArm c s).lasting = s.lasting := by simp [acceptDebugArm]

@[simp] theorem acceptDebugRead_lasting : (acceptDebugRead c s).lasting = s.lasting := by
  unfold acceptDebugRead
  refine State.immediate_lasting _ _ _ fun c s => ?_
  split <;> simp

@[simp] theorem acceptDebugClear_lasting : (acceptDebugClear c s).lasting = s.lasting := by
  unfold acceptDebugClear
  exact State.immediate_lasting _ _ _ fun c s => s.updPart_lasting c.p _

@[simp] theorem acceptDebug_lasting : (acceptDebug c s).lasting = s.lasting := by simp [acceptDebug]
@[simp] theorem State.violate_lasting (p : PartId) (m : BoxId) : (s.violate p m).lasting = s.lasting := by
  fun_cases State.violate s p m <;> simp

/-! ## Placement (R164-R167) -/

@[simp] theorem acceptPreview_lasting : (acceptPreview c s).lasting = s.lasting := by
  simp only [acceptPreview]
  split <;> simp

@[simp] theorem State.answerPlaces_lasting (places : List (PartId × BoxId)) (epoch outcome : Nat) :
    (s.answerPlaces j places t epoch outcome).lasting = s.lasting :=
  foldl_lasting (fun s x => by split <;> simp) places s

@[simp] theorem State.dropPages_lasting (r : Repl) : (s.dropPages h r).lasting = s.lasting := by simp [State.dropPages]
@[simp] theorem State.dropCopies_lasting (r : Repl) : (s.dropCopies h r).lasting = s.lasting := by simp [State.dropCopies]
@[simp] theorem State.abandonRepl_lasting : (s.abandonRepl h t).lasting = s.lasting := by
  fun_cases State.abandonRepl s h t <;> simp +zetaDelta
@[simp] theorem State.moveCopies_lasting (r : Repl) : (s.moveCopies h r).lasting = s.lasting := by simp [State.moveCopies]
@[simp] theorem State.installRepl_lasting : (s.installRepl h t).lasting = s.lasting := by
  fun_cases State.installRepl s h t <;> simp +zetaDelta
@[simp] theorem State.startRepl_lasting (l : Layout) (places : List (PartId × BoxId)) (byPlace : Bool) :
    (s.startRepl j l places byPlace).lasting = s.lasting := by
  simp [State.startRepl]
@[simp] theorem State.windowEnd_lasting (spreads : List (Nat × Nat)) : (s.windowEnd h spreads).lasting = s.lasting := by
  fun_cases State.windowEnd s h spreads <;> simp
@[simp] theorem State.copyAll_lasting (r : Repl) : (s.copyAll h r).lasting = s.lasting := by simp [State.copyAll]
@[simp] theorem State.copiesDone_lasting : (s.copiesDone h).lasting = s.lasting := by
  fun_cases State.copiesDone s h <;> simp
@[simp] theorem acceptRequest_lasting : (acceptRequest c s).lasting = s.lasting := by
  fun_cases acceptRequest c s <;> simp
@[simp] theorem acceptPlace_lasting : (acceptPlace c s).lasting = s.lasting := by simp [acceptPlace]

/-! ## Configuration sets (R348) -/

@[simp] theorem State.applySet_lasting (job : Nat) (b : Bytes) : (s.applySet job b).lasting = s.lasting := by
  simp [State.applySet]
@[simp] theorem State.replModeCheck_lasting (job : Nat) : (s.replModeCheck job t).lasting = s.lasting := by
  fun_cases State.replModeCheck s job t <;> simp
@[simp] theorem commitConfigSet_lasting : (commitConfigSet c t s).lasting = s.lasting := by
  fun_cases commitConfigSet c t s <;> simp
@[simp] theorem acceptConfigSet_lasting : (acceptConfigSet c s).lasting = s.lasting := by simp [acceptConfigSet]

/-! ## Loads (R115-R118, R137, R138) -/

@[simp] theorem State.commitGraph_lasting (p : PartId) (g : Graph) (data : List (Block × Bytes)) :
    (s.commitGraph p g data).lasting = s.lasting := by
  simp only [State.commitGraph]
  split <;> simp
@[simp] theorem acceptLoadGraph_lasting : (acceptLoadGraph c s).lasting = s.lasting := by
  fun_cases acceptLoadGraph c s <;> simp
@[simp] theorem commitLoadWeights_lasting : (commitLoadWeights c t s).lasting = s.lasting := by
  fun_cases commitLoadWeights c t s <;> simp +zetaDelta
@[simp] theorem acceptLoadWeights_lasting : (acceptLoadWeights c s).lasting = s.lasting := by
  fun_cases acceptLoadWeights c s <;> simp +zetaDelta

/-! ## Ships (R221-R226) -/

@[simp] theorem State.pinFrames_lasting (fs : List (Nat × Nat)) (up : Bool) : (s.pinFrames h fs up).lasting = s.lasting := by
  simp [State.pinFrames]
@[simp] theorem State.endShipOut_lasting (x : ShipOut) (r : Result) : (s.endShipOut x t r).lasting = s.lasting := by
  fun_cases State.endShipOut s x t r <;> simp +zetaDelta
@[simp] theorem State.endShipIn_lasting (x : ShipRecv) (r : Result) : (s.endShipIn x t r).lasting = s.lasting := by
  fun_cases State.endShipIn s x t r <;> simp +zetaDelta
@[simp] theorem State.failSend_lasting (x : ShipOut) (r : Result) : (s.failSend x t r).lasting = s.lasting := by
  simp [State.failSend]
@[simp] theorem State.failRecv_lasting (y : ShipRecv) (r : Result) : (s.failRecv y t r).lasting = s.lasting := by
  simp [State.failRecv]
@[simp] theorem State.failShipping_lasting : (s.failShipping h t).lasting = s.lasting := by simp [State.failShipping]
@[simp] theorem State.failReceives_lasting : (s.failReceives h t).lasting = s.lasting := by simp [State.failReceives]
@[simp] theorem State.failShips_lasting : (s.failShips h t).lasting = s.lasting := by simp [State.failShips]
@[simp] theorem State.publishShip_lasting (x : ShipRecv) : (s.publishShip x).lasting = s.lasting := by
  fun_cases State.publishShip s x <;> simp
@[simp] theorem State.commitAccept_lasting (x : ShipRecv) : (s.commitAccept x t).lasting = s.lasting := by
  simp [State.commitAccept]
@[simp] theorem State.shipArrive_lasting (x : ShipRecv) (ship : ShipIn) : (s.shipArrive x ship t).lasting = s.lasting := by
  fun_cases State.shipArrive s x ship t <;> simp +zetaDelta
@[simp] theorem State.acceptTimeout_lasting (p : PartId) (m : BoxId) : (s.acceptTimeout p m).lasting = s.lasting := by
  fun_cases State.acceptTimeout s p m <;> simp
@[simp] theorem State.openRecv_lasting (fs : List (Nat × Nat × Nat × Nat)) : (s.openRecv c j fs).lasting = s.lasting := by
  simp [State.openRecv]
@[simp] theorem acceptAcceptKv_lasting : (acceptAcceptKv c s).lasting = s.lasting := by
  fun_cases acceptAcceptKv c s <;> simp

@[simp] theorem State.shipStart_lasting : (s.shipStart c t).lasting = s.lasting := by
  have hfail (xs : List ShipRecv) : (xs.foldl (fun s y => s.failRecv y t (fail 0x8405)) s).lasting = s.lasting :=
    foldl_lasting (fun s y => s.failRecv_lasting t y _) xs s
  fun_cases State.shipStart s c t <;> simp +zetaDelta [hfail, -Option.foldl_toList]

@[simp] theorem State.commitShip_lasting (x : ShipOut) : (s.commitShip x t).lasting = s.lasting := by simp [State.commitShip]
@[simp] theorem commitShipKv_lasting : (commitShipKv c t s).lasting = s.lasting := by
  fun_cases commitShipKv c t s <;> simp
@[simp] theorem commitAcceptKv_lasting : (commitAcceptKv c t s).lasting = s.lasting := by
  fun_cases commitAcceptKv c t s <;> simp
@[simp] theorem acceptShipKv_lasting : (acceptShipKv c s).lasting = s.lasting := by
  fun_cases acceptShipKv c s <;> simp +zetaDelta
@[simp] theorem State.shipAcked_lasting (shipId : Nat) : (s.shipAcked shipId).lasting = s.lasting := by
  fun_cases State.shipAcked s shipId <;> simp +zetaDelta

/-! ## Jobs (R351-R355) -/

@[simp] theorem State.idleCells_lasting : (s.idleCells h t).lasting = s.lasting := by simp [State.idleCells]
@[simp] theorem State.streamIn_lasting : (s.streamIn h t).lasting = s.lasting := by
  fun_cases State.streamIn s h t <;> simp +zetaDelta
@[simp] theorem State.clearSelections_lasting : s.clearSelections.lasting = s.lasting := by simp [State.clearSelections]
@[simp] theorem State.switchOut_lasting : (s.switchOut h t).lasting = s.lasting := by simp [State.switchOut]
@[simp] theorem State.switchTo_lasting : (s.switchTo h t).lasting = s.lasting := by
  unfold State.switchTo
  split <;> simp
@[simp] theorem commitSwitch_lasting : (commitSwitch c t s).lasting = s.lasting := by simp [commitSwitch]
@[simp] theorem acceptSwitch_lasting : (acceptSwitch c s).lasting = s.lasting := by
  fun_cases acceptSwitch c s <;> simp
@[simp] theorem State.openJob_lasting (switch : Bool) : (s.openJob c t switch).lasting = s.lasting := by
  fun_cases State.openJob s c t switch <;> simp +zetaDelta
@[simp] theorem commitOpen_lasting : (commitOpen c t s).lasting = s.lasting := by simp [commitOpen]
@[simp] theorem acceptOpen_lasting : (acceptOpen c s).lasting = s.lasting := by
  fun_cases acceptOpen c s <;> simp
@[simp] theorem State.endCmds_lasting (cs : List Cmd) (r : Result) : (s.endCmds cs t r).lasting = s.lasting := by
  simp [State.endCmds]
@[simp] theorem State.freeJob_lasting : (s.freeJob h t).lasting = s.lasting := by simp [State.freeJob]
@[simp] theorem commitClose_lasting : (commitClose c t s).lasting = s.lasting := by simp [commitClose]
@[simp] theorem acceptClose_lasting : (acceptClose c s).lasting = s.lasting := by simp [acceptClose]
@[simp] theorem State.streamed_lasting : s.streamed.lasting = s.lasting := by
  fun_cases State.streamed s <;> simp

/-! ## Sequences (R233, R234, R243) -/

@[simp] theorem acceptRunStep_lasting : (acceptRunStep c s).lasting = s.lasting := by
  fun_cases acceptRunStep c s <;> simp
@[simp] theorem State.seqEnd_lasting (e : SeqEntry) (reason step : Nat) :
    (s.seqEnd j e reason step t).lasting = s.lasting := by
  simp [State.seqEnd]
@[simp] theorem State.seqLeave_lasting (e : SeqEntry) (reason step : Nat) :
    (s.seqLeave j e reason step t).lasting = s.lasting := by
  simp [State.seqLeave]
@[simp] theorem commitAdmit_lasting : (commitAdmit c t s).lasting = s.lasting := by
  fun_cases commitAdmit c t s <;> simp
@[simp] theorem acceptAdmit_lasting : (acceptAdmit c s).lasting = s.lasting := by simp [acceptAdmit]
@[simp] theorem commitCancel_lasting : (commitCancel c t s).lasting = s.lasting := by
  fun_cases commitCancel c t s <;> simp
@[simp] theorem commitPause_lasting : (commitPause c t s).lasting = s.lasting := by
  fun_cases commitPause c t s <;> simp
@[simp] theorem commitResume_lasting : (commitResume c t s).lasting = s.lasting := by
  fun_cases commitResume c t s <;> simp
@[simp] theorem acceptCancel_lasting : (acceptCancel c s).lasting = s.lasting := by simp [acceptCancel]
@[simp] theorem acceptPause_lasting : (acceptPause c s).lasting = s.lasting := by simp [acceptPause]
@[simp] theorem acceptResume_lasting : (acceptResume c s).lasting = s.lasting := by simp [acceptResume]

end Sys2Proof.Machine
end

section
/-! The launch and the run of a step leave what lasts. -/
namespace Sys2Proof.Machine

variable (s : State) (h t : Nat) (j : Job) (x : Step)

/-! ## Launch (R146) -/

@[simp] theorem State.installCells_lasting : (s.installCells h t).lasting = s.lasting := by
  fun_cases State.installCells s h t <;> simp
@[simp] theorem State.testMode_lasting (on : Bool) : (s.testMode on).lasting = s.lasting := by simp [State.testMode]
@[simp] theorem State.launchCells_lasting (g : Graph) (draft : Bool) (lens : List LenRec) (staged : List (Nat × Pte))
    (number : BitVec 32) (credit : Bool) :
    (s.launchCells g j draft lens staged number credit t).lasting = s.lasting := by
  simp [State.launchCells]
@[simp] theorem State.serviceMode_lasting : (s.serviceMode h).lasting = s.lasting := by simp [State.serviceMode]
@[simp] theorem State.freshFrames_lasting (g : Graph) (pages : List (Nat × Pte)) :
    (s.freshFrames j g pages).lasting = s.lasting := by
  simp [State.freshFrames]
@[simp] theorem State.startStep_lasting (g : Graph) (kind : StepKind) (draft : Bool) (toks : List Tok) (lens : List LenRec)
    (prefill : List Nat) (pages : List (Nat × Pte)) :
    (s.startStep j g kind draft toks lens prefill pages t).lasting = s.lasting := by
  simp [State.startStep]
@[simp] theorem State.restartStep_lasting (g : Graph) (pages : List (Nat × Pte)) :
    (s.restartStep j g x pages t).lasting = s.lasting := by
  simp [State.restartStep]

/-! ## The step in flight (R147, R313-R316) -/

@[simp] theorem State.countBad_lasting (xs : List BadPage) : (s.countBad xs).lasting = s.lasting := by simp [State.countBad]
@[simp] theorem State.updStep_lasting (f : Step → Step) : (s.updStep h f).lasting = s.lasting := rfl
@[simp] theorem State.sendStats_lasting (ranks : List Nat) (step : Nat) (down : Bool) (b : StatsBody) :
    (s.sendStats h ranks step down b).lasting = s.lasting := by
  simp [State.sendStats]
@[simp] theorem State.holdStats_lasting (b : StatsBody) : (s.holdStats j x b).lasting = s.lasting := by
  simp [State.holdStats]
@[simp] theorem State.tryStats_lasting : (s.tryStats h).lasting = s.lasting := by
  fun_cases State.tryStats s h <;> simp
@[simp] theorem State.statsArrive_lasting (job rank step : Nat) (down : Bool) (b : StatsBody) :
    (s.statsArrive job rank step down b).lasting = s.lasting := by
  fun_cases State.statsArrive s job rank step down b <;> simp
@[simp] theorem State.sendNew_lasting (os : List Out) : (s.sendNew j x os).lasting = s.lasting := by simp [State.sendNew]
@[simp] theorem State.storeRoutes_lasting (draft : Bool) (rs : List (Nat × Nat × Bytes)) :
    (s.storeRoutes j draft rs).lasting = s.lasting := by
  simp [State.storeRoutes]
@[simp] theorem State.stageResults_lasting (r : Results) : (s.stageResults j r).lasting = s.lasting := by
  simp [State.stageResults]
@[simp] theorem State.runOn_lasting : (s.runOn j x).lasting = s.lasting := by
  fun_cases State.runOn s j x <;> simp +zetaDelta
@[simp] theorem State.offerSums_lasting : (s.offerSums j x).lasting = s.lasting := by simp [State.offerSums]
@[simp] theorem State.runOnReady_lasting : (s.runOnReady h).lasting = s.lasting := by
  fun_cases State.runOnReady s h <;> simp
@[simp] theorem State.completeStep_lasting : (s.completeStep h).lasting = s.lasting := by
  fun_cases State.completeStep s h <;> simp
@[simp] theorem State.failLost_lasting : (s.failLost h t).lasting = s.lasting := by simp [State.failLost]
@[simp] theorem State.loseJob_lasting (why : Nat) : (s.loseJob j why).lasting = s.lasting := by simp [State.loseJob]
@[simp] theorem State.stepDone_lasting (job rank step boundary : Nat) :
    (s.stepDone job rank step boundary).lasting = s.lasting := by
  fun_cases State.stepDone s job rank step boundary <;> simp
@[simp] theorem State.killArrive_lasting (job step reason : Nat) : (s.killArrive job step reason).lasting = s.lasting := by
  fun_cases State.killArrive s job step reason <;> simp

end Sys2Proof.Machine
end

section
/-! HBM, the scratchpads and the arrays leave what lasts. -/
namespace Sys2Proof.Machine

variable (s : State) (d : Disturb) (n : CellId)

/-! ## HBM (R255-R280) -/

@[simp] theorem State.checkWord_lasting (w : UnitClass × Nat) : (s.checkWord w d).1.lasting = s.lasting := by
  simp [State.checkWord]

@[simp] theorem State.checkWords_lasting (ws : List (UnitClass × Nat)) :
    (State.checkWords d s ws).1.lasting = s.lasting := by
  induction ws generalizing s with
  | nil => rfl
  | cons w ws ih => exact (ih _).trans (State.checkWord_lasting _ _ _)

@[simp] theorem State.killActive_lasting (cause : Nat) : (s.killActive cause).lasting = s.lasting :=
  State.lasting_congr (s.killActive_pending cause) (s.killActive_flash cause)
@[simp] theorem State.addressFault_lasting (who : Agent) (a : Nat) : (s.addressFault who a).lasting = s.lasting :=
  State.lasting_congr (s.addressFault_pending who a) (s.addressFault_flash who a)
@[simp] theorem State.abandonFor_lasting (p : Job → Repl → Bool) : (s.abandonFor p).lasting = s.lasting := by
  simp [State.abandonFor]
@[simp] theorem State.poisonBlock_lasting (b : Block) : (s.poisonBlock b).lasting = s.lasting := by simp [State.poisonBlock]
@[simp] theorem State.badW_lasting (l : Nat) : (s.badW l).lasting = s.lasting := by simp [State.badW]
@[simp] theorem State.loseStates_lasting (j : Job) (xs : List (Nat × Nat × Nat × Nat)) :
    (s.loseStates j xs).lasting = s.lasting := by
  simp [State.loseStates]
@[simp] theorem State.badFrame_lasting (who : Agent) (j : Job) (b frame : Nat) :
    (s.badFrame who j b frame).lasting = s.lasting := by
  simp [State.badFrame]
@[simp] theorem State.badS_lasting (who : Agent) (b : Nat) : (s.badS who b).lasting = s.lasting := by
  fun_cases State.badS s who b <;> simp
@[simp] theorem State.badA_lasting (l : Nat) : (s.badA l).lasting = s.lasting := by
  fun_cases State.badA s l <;> simp
@[simp] theorem State.badWord_lasting (who : Agent) (w : UnitClass × Nat) : (s.badWord who w).lasting = s.lasting := by
  fun_cases State.badWord who s w <;> simp
@[simp] theorem State.hbmRead_lasting (who : Agent) (a n : Nat) : (s.hbmRead who a n d).lasting = s.lasting := by
  simp [State.hbmRead]
@[simp] theorem State.writeWord_lasting (a : Nat) (bs : Bytes) (w : UnitClass × Nat) :
    (s.writeWord a bs d w).1.lasting = s.lasting := by
  fun_cases State.writeWord a bs d s w <;> simp +zetaDelta

@[simp] theorem State.writeWords_lasting (a : Nat) (bs : Bytes) (ws : List (UnitClass × Nat)) :
    (State.writeWords a bs d s ws).1.lasting = s.lasting := by
  induction ws generalizing s with
  | nil => rfl
  | cons w ws ih => exact (ih _).trans (State.writeWord_lasting _ _ _ _ _)

@[simp] theorem State.writeW_lasting (a : Nat) (bs : Bytes) (l : Nat) : (s.writeW a bs d l).lasting = s.lasting := by
  simp [State.writeW]
@[simp] theorem State.hbmWrite_lasting (who : Agent) (a : Nat) (bs : Bytes) :
    (s.hbmWrite who a bs d).lasting = s.lasting := by
  fun_cases State.hbmWrite s who a bs d <;> simp +zetaDelta
@[simp] theorem State.hbmNarrow_lasting (who : Agent) (a : Nat) (write : Option Bytes) :
    (s.hbmNarrow who a write d).lasting = s.lasting := by
  fun_cases State.hbmNarrow s who a write d <;> simp
@[simp] theorem State.addLanes_lasting (w : UnitClass × Nat) (a : Nat) (ty : AddType) (mask : Nat) (ops : Bytes) :
    (s.addLanes w a ty mask ops).lasting = s.lasting := by
  simp [State.addLanes]
@[simp] theorem State.hbmAdd_lasting (a : Nat) (ty : AddType) (mask : Nat) (ops : Bytes) :
    (s.hbmAdd a ty mask ops d).lasting = s.lasting := by
  simp [State.hbmAdd]
@[simp] theorem State.rebuildLine_lasting (a : Nat) : (s.rebuildLine a).lasting = s.lasting := by simp [State.rebuildLine]
@[simp] theorem State.setPoison_lasting (b : Block) (x : Poison) : (s.setPoison b x).lasting = s.lasting := by
  simp [State.setPoison]
@[simp] theorem State.commitWaiting_lasting (b : Block) : (s.commitWaiting b).lasting = s.lasting := by
  simp [State.commitWaiting]
@[simp] theorem State.repairBlock_lasting (g : Graph) (b : Block) : (s.repairBlock g b).lasting = s.lasting := by
  simp [State.repairBlock]
@[simp] theorem State.scrubLine_lasting (pc n : Nat) : (s.scrubLine pc n d).lasting = s.lasting := by simp [State.scrubLine]
@[simp] theorem State.scrubOnce_lasting (pc : Nat) : (s.scrubOnce pc d).lasting = s.lasting := by
  fun_cases State.scrubOnce s pc d <;> simp +zetaDelta
@[simp] theorem State.updGen_lasting (c : Nat) (f : Gen → Gen) : (s.updGen c f).lasting = s.lasting := rfl
@[simp] theorem State.startGen_lasting (c : ChannelId) : (s.startGen c).lasting = s.lasting := by simp [State.startGen]
@[simp] theorem State.stopGen_lasting (c : ChannelId) : (s.stopGen c).lasting = s.lasting := by simp [State.stopGen]
@[simp] theorem State.endGen_lasting (c : ChannelId) (r : GenRun) (stopped : Bool) (x : GenFound) :
    (s.endGen c r stopped x).lasting = s.lasting := by
  simp [State.endGen]

/-! ## Lines of the scratchpad (R260) -/

@[simp] theorem State.onCell_lasting (f : Cell → Cell) : (s.onCell n f).lasting = s.lasting := rfl
@[simp] theorem State.killCell_lasting (cause : Nat) : (s.killCell n cause).lasting = s.lasting := by
  fun_cases State.killCell s n cause <;> simp
@[simp] theorem State.postCell_lasting (e : Event) : (s.postCell n e).lasting = s.lasting := by
  fun_cases State.postCell s n e <;> simp
@[simp] theorem State.cellMemory_lasting (cls addr : Nat) : (s.cellMemory n cls addr).lasting = s.lasting := by
  simp [State.cellMemory]
@[simp] theorem State.cellFixed_lasting (k : Nat) : (s.cellFixed k).lasting = s.lasting := by simp [State.cellFixed]

/-! ## The array (R48-R68, R105-R110) -/

@[simp] theorem State.weightError_lasting (w : Work) (b : Block) (off : Nat) :
    (s.weightError n w b off).lasting = s.lasting := by
  simp [State.weightError]
@[simp] theorem State.outlierError_lasting : (s.outlierError n).lasting = s.lasting := by simp [State.outlierError]
@[simp] theorem State.accError_lasting (t : TileId) (err : Option AccUpset) : (s.accError n t err).lasting = s.lasting := by
  simp [State.accError]
@[simp] theorem State.tidySums_lasting : s.tidySums.lasting = s.lasting := by simp [State.tidySums]
@[simp] theorem State.restCell_lasting (w : Work) : (s.restCell n w).lasting = s.lasting := by simp [State.restCell]
@[simp] theorem State.releaseGroup_lasting (w : Work) (g : Group) : (s.releaseGroup n w g).lasting = s.lasting := by
  fun_cases State.releaseGroup s n w g <;> simp
@[simp] theorem State.formSums_lasting : s.formSums.lasting = s.lasting := by simp [State.formSums]
@[simp] theorem State.admitReds_lasting : s.admitReds.lasting = s.lasting := by simp [State.admitReds]

@[simp] theorem State.runReds_lasting (k : Nat) : (State.runReds k s).lasting = s.lasting := by
  induction k generalizing s with
  | zero => exact s.formSums_lasting
  | succ k ih => exact (ih _).trans (by simp)

@[simp] theorem State.startRed_lasting (w : Work) (die : Fin 2) (r : Reduction) :
    (s.startRed w die r).lasting = s.lasting := by
  simp [State.startRed]

end Sys2Proof.Machine
end

section
/-! The commit of a step, the launch of the next, and the peers of the fabric leave what lasts. -/
namespace Sys2Proof.Machine

variable (s : State) (h t : Nat) (j : Job) (x : Step)

/-! ## The commit (R144-R147) -/

@[simp] theorem State.storeKv_lasting (r : Results) : (s.storeKv j x r).lasting = s.lasting :=
  foldl_lasting (fun s e => by simp only []; split <;> simp) r.kv s

@[simp] theorem State.commitCounts_lasting (r : Results) : (s.commitCounts j x r t).lasting = s.lasting := by
  simp [State.commitCounts]
@[simp] theorem State.stepOver_lasting : (s.stepOver h x).lasting = s.lasting := by simp [State.stepOver]
@[simp] theorem State.commitDirect_lasting (r : Results) (p : PartId) (m : BoxId) (slot : Nat) :
    (s.commitDirect j x r p m slot t).lasting = s.lasting := by
  fun_cases State.commitDirect s j x r p m slot t <;> simp +zetaDelta

@[simp] theorem State.commitRound_lasting (r : Results) : (s.commitRound j x r t).lasting = s.lasting := by
  simp only [State.commitRound]
  refine (foldl_lasting (fun s o => ?_) _ _).trans ?_
  · split
    · rfl
    · split <;> simp
  · simp only [State.returnSlots_lasting, State.tidyJob_lasting, State.stepOver_lasting, State.commitCounts_lasting]
    exact (foldl_lasting (fun s o => by split <;> simp) _ _).trans (State.updJob_lasting _ _ _)

@[simp] theorem State.commitDraft_lasting (r : Results) : (s.commitDraft j x r t).lasting = s.lasting := by
  simp [State.commitDraft]
@[simp] theorem State.commitStep_lasting (r : Results) : (s.commitStep j x r t).lasting = s.lasting := by
  fun_cases State.commitStep s j x r t <;> simp +zetaDelta
@[simp] theorem State.sendDone_lasting : (s.sendDone h t).lasting = s.lasting := by
  fun_cases State.sendDone s h t <;> simp

/-! ## The next step (R235-R246) -/

@[simp] theorem State.launchDirect_lasting (c : Cmd) : (s.launchDirect h t c).lasting = s.lasting := by
  fun_cases State.launchDirect s h t c <;> simp
@[simp] theorem State.launchDirects_lasting : (s.launchDirects h t).lasting = s.lasting := by simp [State.launchDirects]
@[simp] theorem State.buildRound_lasting (x : Option Step) (now : Nat) : (s.buildRound h x now).lasting = s.lasting := by
  fun_cases State.buildRound s h x now <;> simp
@[simp] theorem State.launchRound_lasting (g : Graph) (kind : StepKind) (draft : Bool) (ds : Nat → List Nat) (rs : List Resolved)
    (rest : List RoundItem) :
    (s.launchRound j g kind draft ds rs rest t).lasting = s.lasting := by
  simp [State.launchRound]
@[simp] theorem State.launchBuilt_lasting (g : Graph) (is_ : List RoundItem) :
    (s.launchBuilt j g is_ t).lasting = s.lasting := by
  fun_cases State.launchBuilt s j g is_ t <;> simp
@[simp] theorem State.launchVerify_lasting (g : Graph) : (s.launchVerify j g t).lasting = s.lasting := by
  simp [State.launchVerify]
@[simp] theorem State.launchSeq_lasting : (s.launchSeq h t).lasting = s.lasting := by
  fun_cases State.launchSeq s h t <;> simp
@[simp] theorem State.discardStep_lasting : (s.discardStep j x t).lasting = s.lasting := by
  fun_cases State.discardStep s j x t <;> simp +zetaDelta
@[simp] theorem State.rerunStep_lasting : (s.rerunStep j x t).lasting = s.lasting := by
  fun_cases State.rerunStep s j x t <;> simp
@[simp] theorem State.launchNext_lasting : (s.launchNext h t).lasting = s.lasting := by
  fun_cases State.launchNext s h t <;> simp +zetaDelta

/-! ## Peers (R304, R311, R312) -/

@[simp] theorem State.failFabric_lasting : (s.failFabric h).lasting = s.lasting := by
  fun_cases State.failFabric s h <;> simp +zetaDelta
@[simp] theorem State.quarantine_lasting (peer count reason : Nat) (tell : Bool) :
    (s.quarantine h peer count reason tell).lasting = s.lasting := by
  fun_cases State.quarantine s h peer count reason tell <;> simp +zetaDelta
@[simp] theorem State.violation_lasting (peer reason : Nat) : (s.violation h peer reason).lasting = s.lasting := by
  simp [State.violation]
@[simp] theorem State.fabCount_lasting (f : FabCounters → FabCounters) : (s.fabCount f).lasting = s.lasting := rfl
@[simp] theorem State.abortArrive_lasting (job rank : Nat) : (s.abortArrive job rank).lasting = s.lasting := by
  fun_cases State.abortArrive s job rank <;> simp
@[simp] theorem State.badRecord_lasting (job rank cls : Nat) : (s.badRecord job rank cls).lasting = s.lasting := by
  unfold State.badRecord
  split <;> simp
@[simp] theorem State.otherStep_lasting (job rank cls step : Nat) : (s.otherStep job rank cls step).lasting = s.lasting := by
  fun_cases State.otherStep s job rank cls step <;> simp
@[simp] theorem State.reduceArrive_lasting (job : Nat) (r : ReduceRec) : (s.reduceArrive job r).lasting = s.lasting := by
  fun_cases State.reduceArrive s job r <;> simp
@[simp] theorem State.statsRecord_lasting (job rank step : Nat) (down : Bool) (b : StatsBody) :
    (s.statsRecord job rank step down b).lasting = s.lasting := by
  fun_cases State.statsRecord s job rank step down b <;> simp
@[simp] theorem State.gatherArrive_lasting (job : Nat) (r : GatherRec) : (s.gatherArrive job r).lasting = s.lasting := by
  fun_cases State.gatherArrive s job r <;> simp
@[simp] theorem State.termArrive_lasting (job : Nat) (r : GatherRec) : (s.termArrive job r).lasting = s.lasting := by
  fun_cases State.termArrive s job r <;> simp

end Sys2Proof.Machine
end

section
/-! Firmware, instants, power states and boundaries leave what lasts. -/
namespace Sys2Proof.Machine

variable (s : State) (c : Cmd) (h t : Nat)

/-! ## Firmware (R387-R396) -/

@[simp] theorem State.putStaged_lasting (x : Image) (obj : Bytes) : (s.putStaged x obj).lasting = s.lasting := by
  simp [State.putStaged]

@[simp] theorem acceptStageDelta_lasting (sigs : Bytes → Sigs) : (acceptStageDelta sigs c s).lasting = s.lasting := by
  unfold acceptStageDelta
  refine State.immediate_lasting _ _ _ fun c s => ?_
  extract_lets man delta
  split <;> simp

@[simp] theorem acceptForward_lasting : (acceptForward c s).lasting = s.lasting := by
  fun_cases acceptForward c s <;> simp +zetaDelta
@[simp] theorem State.endForward_lasting (r : Result) : (s.endForward r).lasting = s.lasting := by
  fun_cases State.endForward s r <;> simp +zetaDelta
@[simp] theorem State.badFlags_lasting (peer : Nat) : (s.badFlags peer).lasting = s.lasting := by simp [State.badFlags]
@[simp] theorem State.stagedReply_lasting (peer kind _status : Nat) :
    (s.stagedReply peer kind _status).lasting = s.lasting := by
  fun_cases State.stagedReply s peer kind _status <;> simp
@[simp] theorem State.fwAnswer_lasting (peer kind status : Nat) : (s.fwAnswer peer kind status).lasting = s.lasting := by
  simp [State.fwAnswer]
@[simp] theorem State.deltaArrive_lasting (peer : Nat) (hdr obj : Bytes) (sigs : Sigs) :
    (s.deltaArrive peer hdr obj sigs).lasting = s.lasting := by
  fun_cases State.deltaArrive s peer hdr obj sigs <;> simp
@[simp] theorem State.startImage_lasting (x : Image) : (s.startImage x).lasting = s.lasting := by simp [State.startImage]
@[simp] theorem State.newPrograms_lasting : (s.newPrograms t).lasting = s.lasting := by
  fun_cases State.newPrograms s t <;> simp
@[simp] theorem State.activate_lasting : (s.activate c t).lasting = s.lasting := by
  unfold State.activate
  repeat' split
  all_goals simp
@[simp] theorem State.activateDue_lasting : (s.activateDue t).lasting = s.lasting := by simp [State.activateDue]
@[simp] theorem acceptActivate_lasting : (acceptActivate c s).lasting = s.lasting := by
  fun_cases acceptActivate c s <;> simp +zetaDelta
@[simp] theorem State.migrationFails_lasting : (s.migrationFails t).lasting = s.lasting := by
  unfold State.migrationFails
  repeat' split
  all_goals simp

/-! ## Instants (R328-R330) -/

@[simp] theorem acceptOf_lasting (code : Nat) : (acceptOf code c s).lasting = s.lasting := by
  fun_cases acceptOf code c s <;> simp
@[simp] theorem State.runInner_lasting : (s.runInner c).lasting = s.lasting := by simp [State.runInner]
@[simp] theorem acceptSchedule_lasting : (acceptSchedule c s).lasting = s.lasting := by
  fun_cases acceptSchedule c s <;> simp
@[simp] theorem State.runAll_lasting (cs : List Cmd) : (s.runAll cs).lasting = s.lasting := by simp [State.runAll]
@[simp] theorem State.runDue_lasting : (s.runDue t).lasting = s.lasting := by simp [State.runDue]
@[simp] theorem State.runDueAt_lasting : (s.runDueAt h t).lasting = s.lasting := by simp [State.runDueAt]
@[simp] theorem State.queriesDue_lasting : (s.queriesDue h t).lasting = s.lasting := by simp [State.queriesDue]

/-! ## Power states (R401-R408) -/

@[simp] theorem State.setPower_lasting (f : Power → Power) : (s.setPower f).lasting = s.lasting := rfl
@[simp] theorem State.latchPower_lasting (code : Nat) (r : PowReq) : (s.latchPower code r).lasting = s.lasting := by
  fun_cases State.latchPower s code r <;> simp +zetaDelta
@[simp] theorem State.enterLull_lasting : (s.enterLull t).lasting = s.lasting := by simp [State.enterLull]
@[simp] theorem State.leaveLull_lasting : (s.leaveLull t).lasting = s.lasting := by simp [State.leaveLull]
@[simp] theorem State.dropSnaps_lasting : s.dropSnaps.lasting = s.lasting := by simp [State.dropSnaps]
@[simp] theorem State.endInstants_lasting : (s.endInstants t).lasting = s.lasting := by simp [State.endInstants]
@[simp] theorem State.abandonAll_lasting : (s.abandonAll t).lasting = s.lasting := by simp [State.abandonAll]
@[simp] theorem State.enterCalm_lasting : (s.enterCalm t).lasting = s.lasting := by
  unfold State.enterCalm
  split <;> simp
@[simp] theorem State.beginWake_lasting : s.beginWake.lasting = s.lasting := by simp [State.beginWake]
@[simp] theorem State.calmReached_lasting : s.calmReached.lasting = s.lasting := by simp [State.calmReached]
@[simp] theorem State.wake_lasting : (s.wake t).lasting = s.lasting := by simp [State.wake]
@[simp] theorem State.recalibrated_lasting : s.recalibrated.lasting = s.lasting := by
  fun_cases State.recalibrated s <;> simp +zetaDelta
@[simp] theorem State.actPower_lasting : s.actPower.lasting = s.lasting := by
  fun_cases State.actPower s <;> simp
@[simp] theorem State.wakeFlip_lasting : s.wakeFlip.lasting = s.lasting := by
  fun_cases State.wakeFlip s <;> simp
@[simp] theorem State.powerAtBoundary_lasting : (s.powerAtBoundary h t).lasting = s.lasting := by
  fun_cases State.powerAtBoundary s h t <;> simp

/-! ## Boundaries (R146, R323-R328) -/

@[simp] theorem State.loseSeq_lasting (step id : Nat) : (s.loseSeq h step t id).lasting = s.lasting := by
  fun_cases State.loseSeq s h step t id <;> simp
@[simp] theorem State.endLostStep_lasting : (s.endLostStep h t).lasting = s.lasting := by
  fun_cases State.endLostStep s h t <;> simp +zetaDelta
@[simp] theorem State.removeLost_lasting : (s.removeLost h t).lasting = s.lasting := by
  fun_cases State.removeLost s h t <;> simp +zetaDelta

@[simp] theorem State.takeSnaps_lasting (step : Nat) : (s.takeSnaps h step).lasting = s.lasting :=
  foldl_lasting (fun s p => by split <;> simp) allParts s

@[simp] theorem State.commitAt_lasting : (s.commitAt h t).lasting = s.lasting := by
  fun_cases State.commitAt s h t <;> simp
@[simp] theorem State.itemOne_lasting : (s.itemOne h t).lasting = s.lasting := by simp [State.itemOne]
@[simp] theorem commitOf_lasting : (commitOf c t s).lasting = s.lasting := by
  fun_cases commitOf c t s <;> simp
@[simp] theorem State.itemTwo_lasting : (s.itemTwo t).lasting = s.lasting := by simp [State.itemTwo]
@[simp] theorem State.itemThree_lasting : (s.itemThree t).lasting = s.lasting := by simp [State.itemThree]
@[simp] theorem State.installNew_lasting : (s.installNew h t).lasting = s.lasting := by
  fun_cases State.installNew s h t <;> simp
@[simp] theorem State.installStreamed_lasting : (s.installStreamed h t).lasting = s.lasting := by
  fun_cases State.installStreamed s h t <;> simp
@[simp] theorem State.itemFour_lasting : (s.itemFour h t).lasting = s.lasting := by
  fun_cases State.itemFour s h t <;> simp +zetaDelta
@[simp] theorem State.idleBoundary_lasting : (s.idleBoundary h).lasting = s.lasting := by
  fun_cases State.idleBoundary s h <;> simp
@[simp] theorem State.itemFive_lasting : (s.itemFive h t).lasting = s.lasting := by
  fun_cases State.itemFive s h t <;> simp
@[simp] theorem State.fullBoundary_lasting : (s.fullBoundary h t).lasting = s.lasting := by simp [State.fullBoundary]
@[simp] theorem State.calmBoundary_lasting : (s.calmBoundary h t).lasting = s.lasting := by
  fun_cases State.calmBoundary s h t <;> simp
@[simp] theorem State.boundary_lasting : (s.boundary h t).lasting = s.lasting := by simp [State.boundary]
@[simp] theorem State.instant_lasting : s.instant.lasting = s.lasting := by simp [State.instant]

end Sys2Proof.Machine
end

section
/-! Boots and resets, the units of a cell, and recovery mode leave what lasts. -/
namespace Sys2Proof.Machine

variable (s : State) (t : Nat) (n : CellId) (b : BootIn)

/-! ## Boots (R378, R379) -/

@[simp] theorem State.fresh_lasting : s.fresh.lasting = s.lasting := by simp [State.fresh]
@[simp] theorem State.enterRecovery_lasting (pufFailed : Bool) : (s.enterRecovery pufFailed).lasting = s.lasting := by
  simp [State.enterRecovery]
@[simp] theorem State.goReady_lasting (first image : Image) (slot : Bool) :
    (s.goReady b first image slot).lasting = s.lasting := by
  simp [State.goReady]
@[simp] theorem State.postFenced_lasting : (s.postFenced b).lasting = s.lasting := by simp [State.postFenced]
@[simp] theorem State.bootFailed_lasting : s.bootFailed.lasting = s.lasting := by simp [State.bootFailed]

@[simp] theorem State.bootLoop_lasting (k : Nat) : (State.bootLoop b k s).lasting = s.lasting := by
  fun_induction State.bootLoop b k s <;> simp [*]

@[simp] theorem State.boot_lasting : (s.boot b).lasting = s.lasting := by simp [State.boot]
@[simp] theorem State.release_lasting (recovN : Bool) (sa : Fin 8) : (s.release recovN sa b).lasting = s.lasting := by
  simp [State.release]

/-! ## Resets (R412-R414) -/

@[simp] theorem State.endBox_lasting (p : PartId) (m : BoxId) : (s.endBox p m t).lasting = s.lasting := by
  fun_cases State.endBox s p m t <;> simp
@[simp] theorem State.endBoxes_lasting (p : PartId) : (s.endBoxes p t).lasting = s.lasting := by simp [State.endBoxes]
@[simp] theorem State.closeNow_lasting (h : Nat) : (s.closeNow h t).lasting = s.lasting := by simp [State.closeNow]
@[simp] theorem State.clearFlags_lasting (p : PartId) : (s.clearFlags p).lasting = s.lasting := by simp [State.clearFlags]
@[simp] theorem State.anyReset_lasting : s.anyReset.lasting = s.lasting := by simp [State.anyReset]
@[simp] theorem State.partReset_lasting (p : PartId) : (s.partReset p t).lasting = s.lasting := by simp [State.partReset]
@[simp] theorem State.reloadCell_lasting : (s.reloadCell n t).lasting = s.lasting := by
  fun_cases State.reloadCell s n t <;> simp
@[simp] theorem State.cellReset_lasting : (s.cellReset n t).lasting = s.lasting := by
  unfold State.cellReset
  split <;> simp
@[simp] theorem State.endEverything_lasting : (s.endEverything t).lasting = s.lasting := by simp [State.endEverything]

/-- What a warm reset ends first: mailboxes, jobs and flags, and what every reset takes (R414, R415). -/
def State.emptied (s : State) (t : Nat) : State := (allParts.foldl State.clearFlags (s.endEverything t)).anyReset

/-- The module after a warm reset, before its image starts: Active, with no stream and no counter, and every cell that is not
fenced idle (R414-R416). -/
def State.restarted (s : State) (t : Nat) : State :=
  ({ s with
    active := none,
    cfg := s.flash.config.modCfg,
    net := s.net.warm s.flash.config,
    counters := ModCounters.reset,
    parts := s.parts.map (fun q => { q.emptyEvents with evLost := 0 }),
    cells := Vector.ofFn (fun n => if s.fenced.contains n.val then Cell.reset else
      { Cell.reset with base := .idle, stateTime := t }),
    contexts := Vector.replicate 2 [], waitingReds := Vector.replicate 2 [], moduleSums := [], haltedDma := [],
    hbm := { s.hbm with selfRefresh := false },
    fw := { s.fw with forward := none, stagedObj := [] } } : State).setPower (fun q => { q with
      state := .active, entering := false, waking := false, wakeOnFlip := false, wakeAsked := false,
      coreMv := if q.state = .lull then q.activeMv else q.coreMv })

/-- The image of a warm reset verifies: it runs, and no boot has failed (R414). -/
def State.runs (s : State) (x : Image) : State :=
  { s with
    flash := { s.flash with failedBoots := 0 },
    fw := { s.fw with running := some x, mRunning := Config.sha384 x.bytes } }

/-- No image of a warm reset verifies: the module waits for the boot watchdog (R414). -/
def State.awaitsWatchdog (s : State) : State :=
  { s with board := { s.board with bootStage := 3 }, fw := { s.fw with running := none } }

/-- A warm reset ends what runs, starts over, and runs the current image where that verifies (R414). -/
theorem State.warmReset_eq (s : State) (sigs : Sigs) (t : Nat) : s.warmReset sigs t
    = match ((s.emptied t).restarted t).flash.current with
      | some x => if sigsOk sigs = true ∧ x.stands false = true then ((s.emptied t).restarted t).runs x
                  else ((s.emptied t).restarted t).awaitsWatchdog
      | none => ((s.emptied t).restarted t).awaitsWatchdog := by
  unfold State.warmReset
  extract_lets ended cleared emptied
  have hemptied : s.emptied t = emptied := rfl
  rw [hemptied]
  clear_value emptied
  rfl

@[simp] theorem State.warmReset_lasting (sigs : Sigs) : (s.warmReset sigs t).lasting = s.lasting := by
  have hrestarted : ((s.emptied t).restarted t).lasting = s.lasting := by simp [State.restarted, State.emptied]
  rw [State.warmReset_eq]
  split
  · split <;> simp [State.runs, State.awaitsWatchdog, hrestarted]
  · simp [State.awaitsWatchdog, hrestarted]

/-! ## Units of a cell (R89-R102, R359-R361) -/

@[simp] theorem State.markHeld_lasting (src : Option CellId) : (s.markHeld src).lasting = s.lasting := by
  fun_cases State.markHeld s src <;> simp
@[simp] theorem State.unitWrite_lasting (r : RegionId) (by_ : Producer) (src : Option CellId) (line : Bytes) :
    (s.unitWrite n r by_ src line).lasting = s.lasting := by
  simp [State.unitWrite]
@[simp] theorem State.engineWrite_lasting (r : RegionId) (e : EngineId) : (s.engineWrite n r e).lasting = s.lasting := by
  fun_cases State.engineWrite s n r e <;> simp +zetaDelta
@[simp] theorem State.flowStall_lasting (r : RegionId) (ticks : Nat) : (s.flowStall n r ticks).lasting = s.lasting := by
  fun_cases State.flowStall s n r ticks <;> simp +zetaDelta
@[simp] theorem State.recordsFor_lasting (w : Option Work) (x : FetchEntry) : (s.recordsFor w x).lasting = s.lasting := by
  fun_cases State.recordsFor s w x <;> simp
@[simp] theorem State.issueEntry_lasting (e : EngineId) : (s.issueEntry n e).lasting = s.lasting := by
  fun_cases State.issueEntry s n e <;> simp
@[simp] theorem State.fenceCell_lasting (why : Nat) : (s.fenceCell n why).lasting = s.lasting := by simp [State.fenceCell]
@[simp] theorem State.trapCell_lasting (offset syndrome : Nat) : (s.trapCell n offset syndrome).lasting = s.lasting := by
  simp [State.trapCell]
@[simp] theorem State.haltChannel_lasting (chan : Nat) (entry : Nat) : (s.haltChannel chan n entry).lasting = s.lasting := by
  simp [State.haltChannel]
@[simp] theorem State.postHalt_lasting (chan cell entry : Nat) (pass : Bool) :
    (s.postHalt chan cell entry pass).lasting = s.lasting := by
  simp [State.postHalt]

/-! ## Recovery mode (R399) -/

@[simp] theorem State.recoveryAnswer_lasting (status : Option Nat) : (s.recoveryAnswer status).lasting = s.lasting := by
  simp [State.recoveryAnswer]

theorem State.recoveryFlash_lasting {f : Flash} (hf : f.identity = s.flash.identity) :
    (s.recoveryFlash f).lasting = s.lasting := by
  simp [State.recoveryFlash, hf]

@[simp] theorem State.recoverImage_lasting (man im : Bytes) (sigs : Sigs) :
    (s.recoverImage man im sigs).lasting = s.lasting := by
  have hflash (x : Image) (slotB : Bool) : (s.recoveryFlash { s.flash.setOther x with slotB := slotB }).lasting = s.lasting :=
    State.recoveryFlash_lasting s (Flash.identity_setOther s.flash x)
  simp [State.recoverImage, hflash]

@[simp] theorem State.recoverConfig_lasting (block : Bytes) (number : Nat) (sigs : Sigs) :
    (s.recoverConfig block number sigs).lasting = s.lasting := by
  fun_cases State.recoverConfig s block number sigs
  · exact (State.recoveryAnswer_lasting _ _).trans (State.recoveryFlash_lasting s rfl)
  · simp

@[simp] theorem State.recoverOwner_lasting (number : Nat) (digest : BitVec 384) (sigs : Sigs) :
    (s.recoverOwner number digest sigs).lasting = s.lasting := by
  fun_cases State.recoverOwner s number digest sigs
  · exact (State.recoveryAnswer_lasting _ _).trans (State.recoveryFlash_lasting s rfl)
  · simp

@[simp] theorem State.recoverFirst_lasting (man im : Bytes) (sigs : Sigs) :
    (s.recoverFirst man im sigs).lasting = s.lasting := by
  fun_cases State.recoverFirst s man im sigs
  · exact (State.recoveryAnswer_lasting _ _).trans (State.recoveryFlash_lasting s rfl)
  · simp

@[simp] theorem State.restartFlash_lasting : s.restartFlash.lasting = s.lasting := by simp [State.restartFlash]

end Sys2Proof.Machine
end

section
/-! The timebase, the sideband and the ports leave what lasts. -/
namespace Sys2Proof.Machine

variable (s : State) (k : StreamKey) (q : Qp)

/-! ## Timebase and coordinates (R283, R317-R321) -/

@[simp] theorem State.markerEvents_lasting (before : TbState) (d : Int) : (s.markerEvents before d).lasting = s.lasting := by
  simp [State.markerEvents]
@[simp] theorem State.marker_lasting : s.marker.lasting = s.lasting := by simp [State.marker]
@[simp] theorem State.refclk_lasting (ok : Bool) : (s.refclk ok).lasting = s.lasting := by simp [State.refclk]
@[simp] theorem State.commitSeed_lasting : s.commitSeed.lasting = s.lasting := by simp [State.commitSeed]
@[simp] theorem State.seedWrite_lasting (v : Nat) : (s.seedWrite v).lasting = s.lasting := by simp [State.seedWrite]
@[simp] theorem State.commitCoord_lasting : s.commitCoord.lasting = s.lasting := by simp [State.commitCoord]
@[simp] theorem State.coordWrite_lasting (v : Nat) : (s.coordWrite v).lasting = s.lasting := by simp [State.coordWrite]

/-! ## The sideband (R430-R434) -/

@[simp] theorem State.setTap_lasting (f : Tap → Tap) : (s.setTap f).lasting = s.lasting := rfl
@[simp] theorem State.tapInReset_lasting (ir : TapIr) : (s.tapInReset ir).lasting = s.lasting := by simp [State.tapInReset]
@[simp] theorem State.writeCoord_lasting (off : Nat) (data : Bytes) : (s.writeCoord off data).lasting = s.lasting := by
  fun_cases State.writeCoord s off data <;> simp +zetaDelta
@[simp] theorem State.writeTime_lasting (off : Nat) (data : Bytes) : (s.writeTime off data).lasting = s.lasting := by
  fun_cases State.writeTime s off data <;> simp +zetaDelta
@[simp] theorem State.writePower_lasting (off : Nat) (data : Bytes) : (s.writePower off data).lasting = s.lasting := by
  simp [State.writePower]
@[simp] theorem State.writeGen_lasting (off : Nat) (data : Bytes) (c : ChannelId) :
    (s.writeGen off data c).lasting = s.lasting := by
  fun_cases State.writeGen off data s c <;> simp +zetaDelta
@[simp] theorem State.statusWrite_lasting (off : Nat) (data : Bytes) : (s.statusWrite off data).lasting = s.lasting := by
  simp [State.statusWrite]
@[simp] theorem State.mctpRecovery_lasting (hdr obj : Bytes) (sigs : Sigs) :
    (s.mctpRecovery hdr obj sigs).lasting = s.lasting := by
  fun_cases State.mctpRecovery s hdr obj sigs <;> simp +zetaDelta
@[simp] theorem State.mctpReply_lasting (kind : Nat) (data : Bytes) : (s.mctpReply kind data).lasting = s.lasting := by
  simp [State.mctpReply]
@[simp] theorem State.mctp_lasting (msg : MctpMsg) : (s.mctp msg).lasting = s.lasting := by
  fun_cases State.mctp s msg <;> simp

/-! ## Fabric ports (R286, R302-R312) -/

@[simp] theorem State.updFab_lasting (p : FabPort) (f : FPort → FPort) : (s.updFab p f).lasting = s.lasting := rfl
@[simp] theorem State.updHost_lasting (p : HostPort) (f : HPort → HPort) : (s.updHost p f).lasting = s.lasting := rfl
@[simp] theorem State.pumpOne_lasting : (s.pumpOne k).lasting = s.lasting := by
  fun_cases State.pumpOne s k <;> simp
@[simp] theorem State.pumpAll_lasting : s.pumpAll.lasting = s.lasting := by simp [State.pumpAll]
@[simp] theorem State.linkRises_lasting (p : Port) : (s.linkRises p).lasting = s.lasting := by
  fun_cases State.linkRises s p <;> simp
@[simp] theorem State.linkFalls_lasting (p : Port) : (s.linkFalls p).lasting = s.lasting := by
  fun_cases State.linkFalls s p <;> simp
@[simp] theorem State.lldpSend_lasting (p : FabPort) : (s.lldpSend p).lasting = s.lasting := by simp [State.lldpSend]
@[simp] theorem State.lldpSee_lasting (p : FabPort) (f : LldpIn) : (s.lldpSee p f).lasting = s.lasting := by
  simp [State.lldpSee]
@[simp] theorem State.miswire_lasting (p : FabPort) : (s.miswire p).lasting = s.lasting := by simp [State.miswire]
@[simp] theorem State.setRx_lasting (x : RxStream) : (s.setRx x).lasting = s.lasting := by simp [State.setRx]
@[simp] theorem State.sendAck_lasting (x : RxStream) (port : FabPort) : (s.sendAck x port).lasting = s.lasting := by
  simp [State.sendAck]
@[simp] theorem State.nakFrame_lasting (port : FabPort) (x : FabFrame) (reason : Nat) (count : FabCounters → FabCounters) :
    (s.nakFrame port k x reason count).lasting = s.lasting := by
  simp [State.nakFrame]
@[simp] theorem State.updTx_lasting (f : TxStream → TxStream) : (s.updTx k f).lasting = s.lasting := by simp [State.updTx]
@[simp] theorem State.ackArrive_lasting (ack : BitVec 32) : (s.ackArrive k ack).lasting = s.lasting := by
  fun_cases State.ackArrive s k ack <;> simp
@[simp] theorem State.unreachable_lasting (seq : BitVec 32) : (s.unreachable k seq).lasting = s.lasting := by
  fun_cases State.unreachable s k seq <;> simp
@[simp] theorem State.resend_lasting (seq : BitVec 32) : (s.resend k seq).lasting = s.lasting := by
  fun_cases State.resend s k seq <;> simp +zetaDelta
@[simp] theorem State.reverse_lasting (x : FabFrame) : (s.reverse k x).lasting = s.lasting := by
  unfold State.reverse
  split <;> simp
@[simp] theorem State.dataArrive_lasting (port : FabPort) (x : FabFrame) : (s.dataArrive port k x).lasting = s.lasting := by
  fun_cases State.dataArrive s port k x <;> simp +zetaDelta
@[simp] theorem State.frameFrom_lasting (port : FabPort) (x : FabFrame) : (s.frameFrom port k x).lasting = s.lasting := by
  fun_cases State.frameFrom s port k x <;> simp +zetaDelta
@[simp] theorem State.fabArrive_lasting (port : FabPort) (src : BitVec 48) (frame : Bytes) :
    (s.fabArrive port src frame).lasting = s.lasting := by
  fun_cases State.fabArrive s port src frame <;> simp +zetaDelta
@[simp] theorem State.gapExpires_lasting (seq : BitVec 32) : (s.gapExpires k seq).lasting = s.lasting := by
  fun_cases State.gapExpires s k seq <;> simp
@[simp] theorem State.rtoExpires_lasting : (s.rtoExpires k).lasting = s.lasting := by
  fun_cases State.rtoExpires s k <;> simp +zetaDelta
@[simp] theorem State.ackDelay_lasting : (s.ackDelay k).lasting = s.lasting := by
  fun_cases State.ackDelay s k <;> simp

/-! ## Host ports (R287-R301) -/

@[simp] theorem State.hostCount_lasting (p : HostPort) (f : HostCounters → HostCounters) :
    (s.hostCount p f).lasting = s.lasting :=
  rfl
@[simp] theorem State.roceEvent_lasting (port : HostPort) (psn : Nat) (x : RoceFault) :
    (s.roceEvent q port psn x).lasting = s.lasting := by
  simp [State.roceEvent]
@[simp] theorem State.dropFlips_lasting (k : Nat) : (s.dropFlips k).lasting = s.lasting := by
  fun_cases State.dropFlips s k <;> simp
@[simp] theorem State.qpError_lasting (k : Nat) : (s.qpError k).lasting = s.lasting := by simp [State.qpError]
@[simp] theorem State.watch_lasting (k : Nat) (p : PartId) (a n : Nat) : (s.watch k p a n).lasting = s.lasting := by
  simp [State.watch]
@[simp] theorem State.handBox_lasting (k : Nat) (x : PartId × BoxId) : (s.handBox k x).lasting = s.lasting := by
  simp [State.handBox]
@[simp] theorem State.handOver_lasting (k : Nat) : (s.handOver k).lasting = s.lasting := by
  fun_cases State.handOver s k <;> simp +zetaDelta
@[simp] theorem State.placeCtrl_lasting (x : RocePkt) : (s.placeCtrl q x).lasting = s.lasting := by simp [State.placeCtrl]
@[simp] theorem State.placeBulk_lasting (x : RocePkt) : (s.placeBulk q x).lasting = s.lasting := by simp [State.placeBulk]
@[simp] theorem State.runWrite_lasting (x : RocePkt) : (s.runWrite q x).lasting = s.lasting := by simp [State.runWrite]
@[simp] theorem State.runRead_lasting (x : RocePkt) (fresh : Bool) : (s.runRead q x fresh).lasting = s.lasting := by
  simp [State.runRead]
@[simp] theorem State.cnpFor_lasting (x : RocePkt) : (s.cnpFor q x).lasting = s.lasting := by simp [State.cnpFor]
@[simp] theorem State.roceFault_lasting (x : RocePkt) (f : RoceFault) : (s.roceFault x q f).lasting = s.lasting := by
  simp [State.roceFault]
@[simp] theorem State.apply_lasting (x : RocePkt) (v : Verdict) : (s.apply x v).lasting = s.lasting := by
  fun_cases State.apply s x v <;> simp +zetaDelta
@[simp] theorem State.fillBuffer_lasting (p : HostPort) : (s.fillBuffer p).lasting = s.lasting := by simp [State.fillBuffer]
@[simp] theorem State.roceArrive_lasting (x : RocePkt) : (s.roceArrive x).lasting = s.lasting := by simp [State.roceArrive]
@[simp] theorem State.cnpArrive_lasting (k : Nat) : (s.cnpArrive k).lasting = s.lasting := by
  fun_cases State.cnpArrive s k <;> simp
@[simp] theorem State.rateRises_lasting (k : Nat) : (s.rateRises k).lasting = s.lasting := by simp [State.rateRises]
@[simp] theorem State.noticeAnswered_lasting (k : Nat) (how : NoticeAck) : (s.noticeAnswered k how).lasting = s.lasting := by
  fun_cases State.noticeAnswered s k how <;> simp
@[simp] theorem State.noticeExpires_lasting (k : Nat) : (s.noticeExpires k).lasting = s.lasting := by
  fun_cases State.noticeExpires s k <;> simp
@[simp] theorem State.qpRestarts_lasting (k : Nat) : (s.qpRestarts k).lasting = s.lasting := by simp [State.qpRestarts]
@[simp] theorem State.resumePort_lasting (p : HostPort) : (s.resumePort p).lasting = s.lasting := by simp [State.resumePort]
@[simp] theorem State.pfcArrive_lasting (p : HostPort) (prio ticks : Nat) :
    (s.pfcArrive p prio ticks).lasting = s.lasting := by
  simp [State.pfcArrive]
@[simp] theorem State.emitPlain_lasting (p : HostPort) (o : Out) : (s.emitPlain p o).lasting = s.lasting := by
  simp [State.emitPlain]

end Sys2Proof.Machine
end

section
/-! Every row of the command table leaves what lasts, so each step takes one command off the queue (R376, R377). -/
namespace Sys2Proof.Machine

/-- The next state of an outcome, if it has one, keeps what lasts. -/
def KeepsLasting (s : State) (o : Host.Outcome State Fault Refusal) : Prop := ∀ t, o = .next t → t.lasting = s.lasting

@[simp] theorem keepsLasting_next {s t : State} : KeepsLasting s (.next t) ↔ t.lasting = s.lasting :=
  ⟨fun h => h t rfl, fun h _ hu => Host.Outcome.next.inj hu ▸ h⟩

/-! ## Rows that choose between operations -/

section
variable (s : State) (n : CellId) (t : Nat)

theorem execReplWindowEnd_keepsLasting (job : Nat) (tops totals : List (Nat × Nat)) :
    KeepsLasting s (execReplWindowEnd job tops totals s) := by
  simp only [execReplWindowEnd, keepsLasting_next]
  split <;> simp

theorem execShipStream_keepsLasting (shipId : Nat) (ship : ShipIn) : KeepsLasting s (execShipStream shipId ship s) := by
  simp only [execShipStream, keepsLasting_next]
  split <;> simp

theorem execControlKill_keepsLasting (job rank step reason : Nat) :
    KeepsLasting s (execControlKill job rank step reason s) := by
  simp only [execControlKill, keepsLasting_next]
  split <;> simp

theorem execBlockRepairDone_keepsLasting (gref desc entry : Nat) :
    KeepsLasting s (execBlockRepairDone gref desc entry s) := by
  simp only [execBlockRepairDone, keepsLasting_next]
  split <;> simp

theorem execGeneratorRunDone_keepsLasting (c : ChannelId) (bursts errors firstFail : Nat) (dqFail : BitVec 64)
    (sideFail : BitVec 8) : KeepsLasting s (execGeneratorRunDone c bursts errors firstFail dqFail sideFail s) := by
  simp only [execGeneratorRunDone, keepsLasting_next]
  split <;> simp

theorem execGroupOpen_keepsLasting (pass tb tc : Nat) (x : OpenIn) : KeepsLasting s (execGroupOpen n pass tb tc x s) := by
  simp only [execGroupOpen, keepsLasting_next]
  repeat' split
  all_goals simp

theorem execPlaneStep_keepsLasting (l : LaneGroup) (x : PlaneIn) : KeepsLasting s (execPlaneStep n l x s) := by
  simp only [execPlaneStep, keepsLasting_next]
  repeat' split
  all_goals simp

theorem execPartialRetire_keepsLasting (l : LaneGroup) (t : TileId) (side : SideIn) (err : Option AccUpset) :
    KeepsLasting s (execPartialRetire n l t side err s) := by
  simp only [execPartialRetire, keepsLasting_next]
  repeat' split
  all_goals simp

theorem execGroupRequantise_keepsLasting (x : AccRead) : KeepsLasting s (execGroupRequantise n x s) := by
  simp only [execGroupRequantise, keepsLasting_next]
  repeat' split
  all_goals simp

theorem execReductionContextStart_keepsLasting (die : Fin 2) (stage : Nat) (t : TileId) (x : AccRead) :
    KeepsLasting s (execReductionContextStart die stage t n x s) := by
  simp only [execReductionContextStart, keepsLasting_next]
  repeat' split
  all_goals simp

theorem execPartitionReset_keepsLasting (r : PowReq) : KeepsLasting s (execPartitionReset r t s) := by
  simp only [execPartitionReset, keepsLasting_next]
  split <;> simp

theorem execCellReset_keepsLasting (r : PowReq) : KeepsLasting s (execCellReset r t s) := by
  simp only [execCellReset, keepsLasting_next]
  split <;> simp

theorem execWarmReset_keepsLasting (r : PowReq) (sigs : Sigs) : KeepsLasting s (execWarmReset r t sigs s) := by
  simp only [execWarmReset, keepsLasting_next]
  split <;> simp

theorem execRegionLineWrite_keepsLasting (r : RegionId) (by_ : Producer) (src : Option CellId) (line : Bytes) :
    KeepsLasting s (execRegionLineWrite n r by_ src line s) := by
  simp only [execRegionLineWrite, keepsLasting_next]
  split <;> simp

theorem execHeldWriteRelease_keepsLasting (r : RegionId) : KeepsLasting s (execHeldWriteRelease n r t s) := by
  simp only [execHeldWriteRelease, keepsLasting_next]
  repeat' split
  all_goals simp

theorem execRegionLineConsume_keepsLasting (r : RegionId) (u : Upset) : KeepsLasting s (execRegionLineConsume n r u s) := by
  simp only [execRegionLineConsume, keepsLasting_next]
  repeat' split
  all_goals simp

theorem execFlowStall_keepsLasting (r : RegionId) : KeepsLasting s (execFlowStall n r t s) := by
  simp only [execFlowStall, keepsLasting_next]
  repeat' split
  all_goals simp

theorem execMicrocodeReloadDone_keepsLasting : KeepsLasting s (execMicrocodeReloadDone n s) := by
  simp only [execMicrocodeReloadDone, keepsLasting_next]
  repeat' split
  all_goals simp

theorem execChannelPatternDone_keepsLasting (chan : Nat) (pass : Bool) :
    KeepsLasting s (execChannelPatternDone chan n pass s) := by
  simp only [execChannelPatternDone, keepsLasting_next]
  repeat' split
  all_goals simp

theorem execRecoveryBeacon_keepsLasting : KeepsLasting s (execRecoveryBeacon t s) := by
  simp only [execRecoveryBeacon, keepsLasting_next]
  split <;> simp

theorem execSensorRefresh_keepsLasting (v : Sensors) : KeepsLasting s (execSensorRefresh v t s) := by
  simp only [execSensorRefresh, keepsLasting_next]
  split <;> simp

theorem execPfcPauseExpiry_keepsLasting (port : HostPort) : KeepsLasting s (execPfcPauseExpiry port t s) := by
  simp only [execPfcPauseExpiry, keepsLasting_next]
  split <;> simp

end

/-! ## The statement -/

/-- Every row keeps what lasts: it is an operation that does, or a choice between such operations. -/
theorem exec_keepsLasting (i : Instr) (s : State) : KeepsLasting s (exec i s) := by
  cases i with
  | replWindowEnd => exact execReplWindowEnd_keepsLasting _ _ _ _
  | shipStream => exact execShipStream_keepsLasting _ _ _
  | controlKill => exact execControlKill_keepsLasting _ _ _ _ _
  | blockRepairDone => exact execBlockRepairDone_keepsLasting _ _ _ _
  | generatorRunDone => exact execGeneratorRunDone_keepsLasting _ _ _ _ _ _ _
  | groupOpen => exact execGroupOpen_keepsLasting _ _ _ _ _ _
  | planeStep => exact execPlaneStep_keepsLasting _ _ _ _
  | partialRetire => exact execPartialRetire_keepsLasting _ _ _ _ _ _
  | groupRequantise => exact execGroupRequantise_keepsLasting _ _ _
  | reductionContextStart => exact execReductionContextStart_keepsLasting _ _ _ _ _ _
  | partitionReset => exact execPartitionReset_keepsLasting _ _ _
  | cellReset => exact execCellReset_keepsLasting _ _ _
  | warmReset => exact execWarmReset_keepsLasting _ _ _ _
  | regionLineWrite => exact execRegionLineWrite_keepsLasting _ _ _ _ _ _
  | heldWriteRelease => exact execHeldWriteRelease_keepsLasting _ _ _ _
  | regionLineConsume => exact execRegionLineConsume_keepsLasting _ _ _ _
  | flowStall => exact execFlowStall_keepsLasting _ _ _ _
  | microcodeReloadDone => exact execMicrocodeReloadDone_keepsLasting _ _
  | channelPatternDone => exact execChannelPatternDone_keepsLasting _ _ _ _
  | recoveryBeacon => exact execRecoveryBeacon_keepsLasting _ _
  | sensorRefresh => exact execSensorRefresh_keepsLasting _ _ _
  | pfcPauseExpiry => exact execPfcPauseExpiry_keepsLasting _ _ _
  | _ => exact keepsLasting_next.mpr (by simp)

/-- Settles O58: a tick changes the timebase alone, and every row leaves the queue's rest and the identity in flash. -/
theorem queueMovesOn : Obligations.QueueMovesOn := by
  unfold Obligations.QueueMovesOn
  intro s t hstep
  rw [step] at hstep
  split at hstep
  · next hpending =>
    obtain rfl := Host.Outcome.next.inj hstep
    exact ⟨by rw [tick_pending, hpending]; rfl, by rw [tick_flash]⟩
  · next i rest hpending =>
    have hkept := exec_keepsLasting i { s with pending := rest } t hstep
    rw [State.lasting, State.lasting_mk] at hkept
    obtain ⟨hrest, hidentity⟩ := Prod.mk.inj hkept
    exact ⟨by rw [hrest, hpending]; rfl, hidentity⟩

end Sys2Proof.Machine
end

section
/-! The queue, and the test access port beside the module (R434). -/
namespace Sys2Proof.Machine

/-- Settles O1: a step with a command at the front is that command's row on the queue's rest. -/
theorem stepRunsFront : Obligations.StepRunsFront := by
  unfold Obligations.StepRunsFront
  intro c cs s
  rfl

/-! ## The test access port (R434) -/

/-- The code of IDCODE, least significant bit first, spells the number of R434. -/
theorem idCode_bits : sumN (((List.range 32).map (idCode.testBit ·)).zipIdx.map (fun b => if b.1 then 2 ^ b.2 else 0))
    = 0x15B7354B := by decide

/-- The three instructions that wait for MOD_RESET_N to be low are BYPASS otherwise (R434). -/
theorem State.tapInReset_eq (s : State) (ir : TapIr) : s.tapInReset ir
    = { s with board := { s.board with tap := { s.board.tap with ir := if s.board.resetLow then ir else .bypass } } } := rfl

/-- Settles O52: each row changes the port and puts out what it held; the three that drive the pins wait for the reset. -/
theorem tapRules : Obligations.TapRules := by
  unfold Obligations.TapRules
  refine ⟨fun s => rfl, ?_, ?_, ?_, ?_⟩
  · intro s tdi
    exact ⟨_, rfl, rfl, rfl, rfl⟩
  · intro s
    exact ⟨_, (List.range 32).map (idCode.testBit ·), rfl, rfl, List.length_map _, idCode_bits, rfl, rfl⟩
  · intro s captured loaded
    exact ⟨_, rfl, rfl, rfl, rfl⟩
  · intro s x hx
    have hrows : x = (.tapExtest, .extest) ∨ x = (.tapClamp, .clamp) ∨ x = (.tapHighz, .highz) := by simpa using hx
    rcases hrows with rfl | rfl | rfl <;> exact congrArg Host.Outcome.next (s.tapInReset_eq _)

end Sys2Proof.Machine
end

section
/-! Supplies, resets of the whole module, and boots (R378, R379, R397, R411, R424-R426, R436). -/
namespace Sys2Proof.Machine

/-! ## An attempt at a boot (R378, R379) -/

/-- What a boot needs of flash, of the straps and of its self-test to run an image (R375-R379, R383). -/
structure BootGood (s : State) (b : BootIn) (first x : Image) : Prop where
  noEntry : s.board.recovLevel = true
  count : s.flash.failedBoots < 3
  puf : b.pufOk = true
  stage : s.flash.firstStage = some first
  hub : hubMemoryBad b.selfTest = false
  owner : sigsOk s.flash.owner.sigs = true
  config : s.flash.configStands s.flash.config = true
  slot : s.flash.inSlot s.flash.chosen = some x
  stands : x.stands false = true
  version : s.flash.config.minFw ≤ x.manifest.version
  reaches : b.reachesReady = true

section
variable {s : State} {b : BootIn}

theorem State.attempt_ready {first x : Image} (hgood : BootGood s b first x) : s.attempt b = .ready first x s.flash.chosen := by
  have hentry : ¬ (s.board.recovLevel = false ∨ 3 ≤ s.flash.failedBoots) := by
    rw [hgood.noEntry]
    exact fun h => h.elim Bool.noConfusion (Nat.not_le_of_lt hgood.count)
  simp [State.attempt, hentry, hgood.puf, hgood.stage, hgood.hub, hgood.owner, hgood.config, hgood.slot, hgood.stands,
    Nat.not_lt_of_le hgood.version, hgood.reaches]

/-- RECOV_N low, or a third failed boot, leads into recovery mode before anything of flash is read (R397). -/
theorem State.attempt_recovery (hentry : s.board.recovLevel = false ∨ 3 ≤ s.flash.failedBoots) :
    s.attempt b = .recovery false := if_pos hentry

/-! ## The boot that follows -/

/-- The module as a boot finds it: everything but flash at its default, the timebase counting (R411, R426). -/
def State.booting (s : State) : State := { s.fresh with tb := { s.fresh.tb with running := true } }

theorem State.boot_eq (s : State) (b : BootIn) : s.boot b = State.bootLoop b 4 s.booting := rfl

theorem State.boot_ready {first x : Image} (hgood : BootGood s.booting b first x) :
    s.boot b = (s.booting.goReady b first x s.flash.chosen).postFenced b := by
  have hattempt := State.attempt_ready hgood
  rw [State.boot_eq, State.bootLoop, hattempt]
  rfl

theorem State.boot_recovery (hentry : s.board.recovLevel = false ∨ 3 ≤ s.flash.failedBoots) :
    s.boot b = s.booting.enterRecovery false := by
  have hattempt : s.booting.attempt b = .recovery false := State.attempt_recovery hentry
  rw [State.boot_eq, State.bootLoop, hattempt]

end

/-- Posting the cells that the self-test fenced changes event queues and what notices change (R361, R369). -/
theorem State.postFenced_shape (s : State) (b : BootIn) : ∃ d, s.postFenced b = s.withPosted d :=
  foldl_shape State.withPosted _ (fun s => (s.parts, s.net.host, s.net.qps, s.out)) (fun _ => rfl) (fun _ _ _ => rfl)
    (fun s _ => s.postModule_shape _) s.fenced s

/-- The module as a release of MOD_RESET_N leaves it: RECOV_N and SA0-SA2 sampled, no trip latched (R426). -/
def State.released (s : State) (recovN : Bool) (sa : Fin 8) : State :=
  { s with board := { s.board with
    resetLow := false, tripped := false, thermTripLow := false, pgood := true, recovLevel := recovN, sa := sa, bootStage := 2 } }

theorem State.release_eq (s : State) (recovN : Bool) (sa : Fin 8) (b : BootIn) :
    s.release recovN sa b = (s.released recovN sa).boot b := rfl

theorem exec_modResetNRelease {s : State} (hlow : s.board.resetLow = true) (hvin : s.board.vin = true) (recovN : Bool)
    (sa : Fin 8) (b : BootIn) : exec (.modResetNRelease recovN sa b) s = .next ((s.released recovN sa).boot b) :=
  congrArg Host.Outcome.next (if_pos ⟨hlow, hvin⟩)

/-! ## The statement -/

/-- Settles O51: supplies and resets leave everything but flash at its default; a release boots a good flash to READY, and a
low RECOV_N or a third failed boot leads into recovery mode. -/
theorem suppliesAndBoot : Obligations.SuppliesAndBoot := by
  unfold Obligations.SuppliesAndBoot
  refine ⟨?_, ?_, ?_, ?_, ?_, ?_, ?_, ?_, ?_⟩
  · intro s hvin
    exact ⟨_, congrArg Host.Outcome.next (if_neg (ne_true_of_eq_false hvin)), rfl, rfl, rfl, rfl, rfl, rfl, rfl⟩
  · intro s hvin
    exact ⟨_, congrArg Host.Outcome.next (if_neg (ne_false_of_eq_true hvin)), rfl, rfl, rfl, rfl, rfl, rfl, rfl⟩
  · intro s haux
    refine ⟨_, congrArg Host.Outcome.next (if_neg (ne_true_of_eq_false haux)), rfl, rfl, rfl, ?_⟩
    exact (apply_ite Board.bootStage _ _ _).trans (ite_self _)
  · intro s
    cases hvin : s.board.vin with
    | true => exact ⟨_, congrArg Host.Outcome.next (if_pos hvin), rfl, rfl, rfl, rfl⟩
    | false => exact ⟨_, congrArg Host.Outcome.next (if_neg (ne_true_of_eq_false hvin)), rfl, rfl, rfl, rfl⟩
  · intro s hhigh hvin
    refine ⟨_, congrArg Host.Outcome.next (if_neg ?_), rfl, rfl, rfl, rfl, rfl⟩
    rw [hhigh, hvin]
    decide
  · intro s sa b first x hlow hvin hcount hpuf hfirst hhub howner hconfig hslot hstands hversion hready
    have hgood : BootGood (s.released true sa).booting b first x :=
      ⟨rfl, hcount, hpuf, hfirst, hhub, howner, hconfig, hslot, hstands, hversion, hready⟩
    obtain ⟨d, hposted⟩ := ((s.released true sa).booting.goReady b first x s.flash.chosen).postFenced_shape b
    have hboot := (State.boot_ready hgood).trans hposted
    exact ⟨_, (exec_modResetNRelease hlow hvin true sa b).trans (congrArg _ hboot), rfl, rfl, rfl, rfl, rfl, rfl, rfl, rfl,
      rfl, rfl⟩
  · intro s sa b hlow hvin
    have hboot : (s.released false sa).boot b = (s.released false sa).booting.enterRecovery false :=
      State.boot_recovery (.inl rfl)
    exact ⟨_, (exec_modResetNRelease hlow hvin false sa b).trans (congrArg _ hboot), rfl, rfl, rfl, rfl, rfl⟩
  · intro s b hstage hcount
    have hboot : s.bootFailed.boot b = s.bootFailed.booting.enterRecovery false :=
      State.boot_recovery (.inr (Nat.succ_le_succ hcount))
    exact ⟨_, congrArg Host.Outcome.next ((if_pos hstage).trans hboot), rfl, rfl, rfl⟩
  · intro s cause hvin hpgood
    refine ⟨_, congrArg Host.Outcome.next (if_neg ?_), rfl, rfl, rfl, rfl, rfl, rfl, rfl, rfl⟩
    rw [hvin, hpgood]
    decide

end Sys2Proof.Machine
end

section
/-! Recovery mode (R397-R399): an object that stands is written to flash, one that fails changes nothing, and RESTART boots. -/
namespace Sys2Proof.Machine

/-! ## The slots of flash (R377, R399) -/

/-- Flash once an image in the slot that was not current becomes current (R399). -/
def Flash.withCurrent (f : Flash) (x : Image) : Flash := { f.setOther x with slotB := !(f.setOther x).slotB }

theorem Flash.slotB_setOther (f : Flash) (x : Image) : (f.setOther x).slotB = f.slotB := by
  unfold Flash.setOther
  split <;> rfl

theorem Flash.slotB_withCurrent (f : Flash) (x : Image) : (f.withCurrent x).slotB = !f.slotB :=
  congrArg not (f.slotB_setOther x)

theorem Flash.current_withCurrent (f : Flash) (x : Image) : (f.withCurrent x).current = some x := by
  cases hslot : f.slotB <;> simp [Flash.withCurrent, Flash.current, Flash.setOther, hslot]

theorem Flash.other_withCurrent (f : Flash) (x : Image) : (f.withCurrent x).other = f.current := by
  cases hslot : f.slotB <;> simp [Flash.withCurrent, Flash.other, Flash.current, Flash.setOther, hslot]

theorem Flash.identity_withCurrent (f : Flash) (x : Image) : (f.withCurrent x).identity = f.identity :=
  f.identity_setOther x

/-! ## The objects of recovery mode (R399) -/

/-- Flash written in recovery mode, and the object answered as staged (R399). -/
def State.recoveredTo (s : State) (f : Flash) : State := (s.recoveryFlash f).recoveryAnswer none

section
variable {s : State} {sigs : Sigs}

/-- What an image must be in recovery mode: signed, well formed, full, not a first stage, no older than the block in force allows,
and the bytes that its manifest names (R399). -/
def RecoveryImageStands (s : State) (man im : Bytes) (sigs : Sigs) : Prop :=
  sigsOk sigs = true ∧ manifestFormOk man = true ∧ (manifestOf man sigs).full = true
    ∧ (manifestOf man sigs).firstStage = false ∧ s.recoveryMinFw ≤ (manifestOf man sigs).version
    ∧ im.length = (manifestOf man sigs).targetBytes ∧ Config.sha384 im = (manifestOf man sigs).targetDigest
    ∧ headerAgrees (manifestOf man sigs) im = true

/-- An image written in recovery mode: nothing is staged any more (R399). -/
def State.recoveredImage (s : State) (x : Image) : State :=
  ({ s.recoveryFlash (s.flash.withCurrent x) with
    fw := { (s.recoveryFlash (s.flash.withCurrent x)).fw with staged := false, stagedObj := [] } } : State).recoveryAnswer none

theorem recoverImage_stands {man im : Bytes} (h : RecoveryImageStands s man im sigs) :
    s.recoverImage man im sigs = s.recoveredImage ⟨manifestOf man sigs, im⟩ := if_pos h

theorem recoverImage_fails {man im : Bytes} (h : ¬ RecoveryImageStands s man im sigs) :
    s.recoverImage man im sigs = s.emit (.recoveryReply 7 0x8701) := if_neg h

/-- An image's row acts on an object addressed to a module in recovery mode (R392, R399). -/
theorem exec_recoveryImage {serial : Nat} (hrec : s.recovers = true) (hme : s.forMe serial = true) (man im : Bytes) :
    exec (.recoveryImage serial man im sigs) s = .next (s.recoverImage man im sigs) :=
  congrArg Host.Outcome.next (if_pos ⟨hrec, hme⟩)

end

/-! ## The statement -/

/-- Settles O54: each object that passes its checks is one write to flash, and RESTART with RECOV_N low re-enters recovery
mode. -/
theorem recoveryRules : Obligations.RecoveryRules := by
  unfold Obligations.RecoveryRules
  refine ⟨?_, ?_, ?_, ?_, ?_, ?_⟩
  · intro s t hnow hrec hup
    refine congrArg Host.Outcome.next ?_
    simp only [advance_now hnow]
    exact if_pos ⟨hrec, hup⟩
  · intro s serial man im sigs m hrec hme hm
    subst hm
    refine ⟨_, exec_recoveryImage hrec hme man im, ?_, ?_⟩
    · split
      · next hstands =>
        rw [recoverImage_stands hstands]
        exact ⟨s.flash.current_withCurrent _, s.flash.other_withCurrent _, s.flash.slotB_withCurrent _, rfl, rfl⟩
      · next hfails => exact recoverImage_fails hfails
    · by_cases hstands : RecoveryImageStands s man im sigs
      · rw [recoverImage_stands hstands]
        exact ⟨s.flash.identity_withCurrent _, rfl⟩
      · rw [recoverImage_fails hstands]
        exact ⟨rfl, rfl⟩
  · intro s serial n block sigs hrec hme howner hconfig
    have hdone : s.recoverConfig block n sigs = s.recoveredTo { s.flash with config := configOf block n sigs } :=
      if_pos ⟨howner, hconfig⟩
    exact ⟨_, congrArg Host.Outcome.next ((if_pos ⟨hrec, hme⟩).trans hdone), rfl, rfl, rfl⟩
  · intro s serial n digest sigs hrec hme hsigs hroot
    have hdone : s.recoverOwner n digest sigs = s.recoveredTo { s.flash with owner := ⟨n, digest, sigs⟩ } :=
      if_pos ⟨hsigs, hroot⟩
    exact ⟨_, congrArg Host.Outcome.next ((if_pos ⟨hrec, hme⟩).trans hdone), rfl, rfl, rfl⟩
  · intro s serial man im sigs hrec hme hsigs hroot hform hfirst hlength hdigest
    have hdone : s.recoverFirst man im sigs = s.recoveredTo { s.flash with
        firstA := ⟨manifestOf man sigs, im⟩, firstB := ⟨manifestOf man sigs, im⟩ } :=
      if_pos ⟨hsigs, hroot, hform, hfirst, hlength, hdigest⟩
    exact ⟨_, congrArg Host.Outcome.next ((if_pos ⟨hrec, hme⟩).trans hdone), rfl, rfl, rfl⟩
  · intro s serial sa b hrec hme
    have hboot : (s.restartFlash.released false sa).boot b = (s.restartFlash.released false sa).booting.enterRecovery false :=
      State.boot_recovery (.inl rfl)
    exact ⟨_, congrArg Host.Outcome.next ((if_pos ⟨hrec, hme⟩).trans hboot), rfl, rfl, rfl, rfl⟩

end Sys2Proof.Machine
end

section
/-! Firmware: deltas staged, forwarded and acknowledged (R390-R393), and activations (R394-R396). -/
namespace Sys2Proof.Machine

/-! ## Checks that pass (R335, R339) -/

theorem firstFault_cons {x : Option Result} {xs : List (Option Result)} (hx : x = none) (hxs : firstFault xs = none) :
    firstFault (x :: xs) = none := by
  rw [hx]
  exact hxs

theorem noScope_pass {c : Cmd} (hjob : c.job = 0) : noScope c = none := if_pos hjob

theorem State.moduleRight_pass {s : State} {p : PartId} (hright : (s.planRec p).moduleCfg = true) : s.moduleRight p = none :=
  if_pos hright

/-- The body of FW_STAGE_DELTA is its three fields (R346). -/
theorem stageDelta_bodyFault {body : Bytes} (hlen : 12 ≤ body.length) : bodyFault body (bodyFields 0x60) [] = none := by
  have hfields : 4 ≤ body.length ∧ 8 ≤ body.length := by omega
  simp [bodyFault, bodyFields, firstBad, hlen, hfields]

/-! ## Staging (R390) -/

theorem Flash.other_setOther (f : Flash) (x : Image) : (f.setOther x).other = some x := by
  cases hslot : f.slotB <;> simp [Flash.other, Flash.setOther, hslot]

theorem Flash.current_setOther (f : Flash) (x : Image) : (f.setOther x).current = f.current := by
  cases hslot : f.slotB <;> simp [Flash.current, Flash.setOther, hslot]

/-- The object that FW_STAGE_DELTA names: its manifest, then its delta (R390). -/
def State.stagedObject (s : State) (c : Cmd) : Bytes :=
  s.slotRead c.p (u32 c.body 8) manifestBytes ++ s.slotRead c.p (u32 c.body 0) (u32 c.body 4)

/-- What a FW_STAGE_DELTA that passes its checks does (R390). -/
def State.stageDelta (s : State) (sigs : Bytes → Sigs) (c : Cmd) : State × Result :=
  let man := s.slotRead c.p (u32 c.body 8) manifestBytes
  let delta := s.slotRead c.p (u32 c.body 0) (u32 c.body 4)
  match s.stageImage man delta (sigs man) with
  | .error st => (s, fail st)
  | .ok x => (s.putStaged x (man ++ delta), ok [])

theorem State.stageDelta_good {s : State} {sigs : Bytes → Sigs} {c : Cmd} {x : Image}
    (hx : s.stageImage (s.slotRead c.p (u32 c.body 8) manifestBytes) (s.slotRead c.p (u32 c.body 0) (u32 c.body 4))
      (sigs (s.slotRead c.p (u32 c.body 8) manifestBytes)) = .ok x) :
    s.stageDelta sigs c = (s.putStaged x (s.stagedObject c), ok []) := by
  simp only [State.stageDelta, hx, State.stagedObject]

theorem acceptStageDelta_eq (sigs : Bytes → Sigs) (c : Cmd) (s : State) :
    acceptStageDelta sigs c s = s.immediate c
      (firstFault [noScope c, bodyFault c.body (bodyFields 0x60) [], s.moduleRight c.p]) (fun c s => s.stageDelta sigs c) :=
  rfl

/-- An accepted FW_STAGE_DELTA whose delta verifies stages the image, and keeps the object for FW_FORWARD (R390, R391). -/
theorem acceptStageDelta_stages {s : State} {p : PartId} {m : BoxId} {sigs : Sigs} {x : Image}
    (hjob : (s.asked p m).job = 0) (hlen : 12 ≤ (s.asked p m).body.length) (hright : (s.planRec p).moduleCfg = true)
    (hareas : AreasGood s (s.asked p m))
    (hx : s.stageImage (s.slotRead p (u32 (s.asked p m).body 8) manifestBytes)
      (s.slotRead p (u32 (s.asked p m).body 0) (u32 (s.asked p m).body 4)) sigs = .ok x) :
    acceptStageDelta (fun _ => sigs) (s.flipped p m) s
      = (s.putStaged x (s.stagedObject (s.asked p m))).finish (s.asked p m) (ok []) := by
  have hcheck : firstFault [noScope (s.flipped p m), bodyFault (s.flipped p m).body (bodyFields 0x60) [],
      s.moduleRight (s.flipped p m).p] = none :=
    firstFault_cons (noScope_pass hjob)
      (firstFault_cons (stageDelta_bodyFault hlen) (firstFault_cons (State.moduleRight_pass hright) rfl))
  have hstage : s.stageDelta (fun _ => sigs) (s.named (s.flipped p m)) = (s.putStaged x (s.stagedObject (s.asked p m)), ok []) :=
    State.stageDelta_good hx
  rw [acceptStageDelta_eq, State.immediate_good hcheck hareas, hstage]
  rfl

theorem exec_fwStageDelta {s : State} {p : PartId} {m : BoxId} {sigs : Sigs} {x : Image} (hdue : Due s p m 0x60)
    (hjob : (s.asked p m).job = 0) (hlen : 12 ≤ (s.asked p m).body.length) (hright : (s.planRec p).moduleCfg = true)
    (hareas : AreasGood s (s.asked p m))
    (hx : s.stageImage (s.slotRead p (u32 (s.asked p m).body 8) manifestBytes)
      (s.slotRead p (u32 (s.asked p m).body 0) (u32 (s.asked p m).body 4)) sigs = .ok x) :
    exec (.fwStageDelta p m sigs) s
      = .next ((s.putStaged x (s.stagedObject (s.asked p m))).finish (s.asked p m) (ok [])) :=
  congrArg Host.Outcome.next
    ((State.serveIf_due hdue rfl _).trans (acceptStageDelta_stages hjob hlen hright hareas hx))

/-! ## Forwarding (R391-R393) -/

/-- FW_FORWARD under way: its command waits, and the staged object has gone to the next module of the chain (R391). -/
def State.forwarding (s : State) (c : Cmd) (n : Member) : State :=
  ({ s.stage c with fw := { s.fw with forward := some (c.p, c.m, n) } } : State).emit (.fwMessage n 1 0 s.fw.stagedObj)

/-- An accepted FW_FORWARD of a staged object goes to the next module of the image's chain (R391). -/
theorem acceptForward_forwards {s : State} {p : PartId} {m : BoxId} {x : Image} {n : Member}
    (hjob : (s.asked p m).job = 0) (hright : (s.planRec p).moduleCfg = true) (hstaged : s.fw.staged = true)
    (hobj : s.fw.stagedObj ≠ []) (hx : s.flash.other = some x) (hnext : successor s.coord.member x.manifest.chain = some n)
    (hhere : s.memberLost n = false) : ∃ key ranks payloads,
      acceptForward (s.flipped p m) s = (s.forwarding (s.asked p m) n).transmit key ranks payloads := by
  have hobject : (if (s.fw.staged && !s.fw.stagedObj.isEmpty) = true then none else some (fail 0x8703)) = none :=
    if_pos (by simpa [hstaged] using hobj)
  have hcheck : firstFault [noScope (s.named (s.flipped p m)), s.moduleRight (s.named (s.flipped p m)).p,
      if s.fw.staged && !s.fw.stagedObj.isEmpty then none else some (fail 0x8703)] = none :=
    firstFault_cons (noScope_pass hjob) (firstFault_cons (State.moduleRight_pass hright) (firstFault_cons hobject rfl))
  unfold acceptForward
  simp only [hcheck, hx, hnext, hhere, Bool.false_eq_true, if_false]
  exact ⟨_, _, _, rfl⟩

theorem exec_fwForward {s : State} {p : PartId} {m : BoxId} (hdue : Due s p m 0x62) :
    exec (.fwForward p m) s = .next (acceptForward (s.flipped p m) s) :=
  congrArg Host.Outcome.next (State.serveIf_due hdue rfl _)

/-- A forwarded delta in order that verifies is staged, and the reverse stream says so (R392, R393). -/
theorem exec_fwDeltaMessage {s : State} {peer : Nat} {hdr obj : Bytes} {sigs : Sigs} {x : Image} (hkind : u8 hdr 0 = 1)
    (hheader : fwHeaderOk hdr obj = true) (hme : u64 hdr 0x10 = 0 ∨ u64 hdr 0x10 = s.flash.serial.toNat)
    (hx : s.stageImage (obj.take manifestBytes) (obj.drop manifestBytes) sigs = .ok x) :
    exec (.fwDeltaMessage peer hdr obj sigs) s = .next ((s.putStaged x obj).fwAnswer peer 6 0) := by
  have horder : ¬ (u8 hdr 0 ≠ 1 ∨ fwHeaderOk hdr obj = false) := by simp [hkind, hheader]
  have hmine : ¬ (u64 hdr 0x10 ≠ 0 ∧ u64 hdr 0x10 ≠ s.flash.serial.toNat) := by tauto
  refine congrArg Host.Outcome.next ?_
  rw [State.deltaArrive, if_neg horder, if_neg hmine, hx]

/-- The state in which no forward is pending. -/
def State.forwarded (s : State) : State := { s with fw := { s.fw with forward := none } }

theorem State.forwarded_cmdAt (s : State) (p : PartId) (m : BoxId) : s.forwarded.cmdAt p m = s.cmdAt p m := rfl

theorem State.endForward_pending {s : State} {p : PartId} {m : BoxId} {n : Member} {c : Cmd}
    (hforward : s.fw.forward = some (p, m, n)) (hc : s.cmdAt p m = some c) (r : Result) :
    s.endForward r = s.forwarded.answer c s.now r := by
  have hwaits : s.forwarded.cmdAt p m = some c := hc
  have hend : s.endForward r = match s.forwarded.cmdAt p m with | none => s.forwarded | some c => s.forwarded.finish c r := by
    rw [State.endForward, hforward]
    rfl
  rw [hend, hwaits]
  rfl

/-- STAGED from the module that a forward goes to ends the FW_FORWARD with success (R391, R393). -/
theorem exec_fwStagedReply {s : State} {p : PartId} {m : BoxId} {n : Member} {c : Cmd}
    (hforward : s.fw.forward = some (p, m, n)) (hc : s.cmdAt p m = some c) (st : Nat) :
    exec (.fwStagedReply n.code 6 st) s = .next (s.forwarded.answer c s.now (ok [])) := by
  have hreply : s.stagedReply n.code 6 st = s.endForward (ok []) := by
    rw [State.stagedReply, hforward]
    exact if_pos ⟨rfl, rfl⟩
  exact congrArg Host.Outcome.next (hreply.trans (State.endForward_pending hforward hc _))

/-! ## The statement on deltas -/

/-- Settles O21: a delta that verifies goes into the slot that is not current; a forward waits for the reply that ends it. -/
theorem deltasStage : Obligations.DeltasStage := by
  unfold Obligations.DeltasStage
  refine ⟨?_, ?_, ?_, ?_⟩
  · intro s p m sigs x hdue hjob hlen hright hareas hx
    refine ⟨_, exec_fwStageDelta hdue hjob hlen hright hareas hx, ?_⟩
    simp only [State.finish, State.answer_flash, State.answer_fw]
    refine ⟨s.flash.other_setOther x, s.flash.current_setOther x, s.flash.slotB_setOther x, rfl, rfl, ?_,
      s.flash.identity_setOther x⟩
    rw [State.cmdAt_answer, if_pos ⟨rfl, rfl⟩]
  · intro s p m x n hdue hjob hright hstaged hobj hx hnext hhere
    obtain ⟨key, ranks, payloads, haccept⟩ := acceptForward_forwards hjob hright hstaged hobj hx hnext hhere
    refine ⟨_, (exec_fwForward hdue).trans (congrArg _ haccept), ?_,
      State.mem_out_transmit (List.mem_append_right _ List.mem_cons_self) _ _ _, ?_, ?_, ?_⟩
    · rw [State.transmit_fw]
      rfl
    · rw [State.cmdAt, State.transmit_cmds]
      exact s.cmdAt_stage (s.asked p m)
    · rw [State.transmit_flash]
      rfl
    · rw [State.transmit_hbm]
      rfl
  · intro s peer hdr obj sigs x hkind hheader hme hx
    refine ⟨_, exec_fwDeltaMessage hkind hheader hme hx, ?_⟩
    simp only [State.fwAnswer, State.transmit_flash, State.transmit_fw, State.transmit_hbm]
    exact ⟨s.flash.other_setOther x, rfl, rfl, State.mem_out_transmit (List.mem_append_right _ List.mem_cons_self) _ _ _,
      s.flash.current_setOther x, rfl, s.flash.identity_setOther x⟩
  · intro s p m n st c hwf hforward hc
    refine ⟨_, exec_fwStagedReply hforward hc st, ?_, State.answer_replied (s := s.forwarded) hwf c s.now (ok []), ?_⟩
    · rw [State.answer_fw]
      rfl
    · rw [State.answer_flash]
      rfl

/-! ## Activation (R394-R396) -/

/-- FW_ACTIVATE_AT names no slots (R341, R346). -/
theorem State.named_fwActivateAt (s : State) {c : Cmd} (hcode : c.code = 0x61) : s.named c = { c with slots := [] } := by
  have hareas : s.areas c.p c.code c.body = [] := by
    rw [hcode]
    rfl
  rw [State.named, hareas]
  rfl

/-- An answer that hands no slot back leaves HBM (R341). -/
theorem State.answer_hbm_noSlots (s : State) {c : Cmd} (hslots : c.slots = []) (done : Nat) (r : Result) :
    (s.answer c done r).hbm = s.hbm := by
  obtain ⟨ps, hps⟩ := ((s.returnSlots c.p c.slots).replyHeader c.p c.m c.tag c.flip done r).replyBody_shape c.p c.m r
  rw [State.answer, State.returnBox_hbm, hps, hslots]
  rfl

/-- The activations that have reached an instant (R394). -/
theorem State.stage_activations {s : State} {c : Cmd} (hcode : c.code = 0x61)
    (hothers : s.cmds.all (fun c => c.code != 0x61) = true) {t : Nat} (hdue : u64 c.body 0 ≤ t) :
    (s.stage c).cmds.filter (fun c => c.code == 0x61 && decide (u64 c.body 0 ≤ t)) = [c] := by
  have hnone : (s.cmds.filter (fun d => !(d.p == c.p && d.m == c.m))).filter
      (fun d => d.code == 0x61 && decide (u64 d.body 0 ≤ t)) = [] := by
    refine List.filter_eq_nil_iff.mpr fun d hd => ?_
    have hother := List.all_eq_true.mp hothers d (List.mem_of_mem_filter hd)
    simp_all
  have hown : [c].filter (fun d => d.code == 0x61 && decide (u64 d.body 0 ≤ t)) = [c] := by simp [hcode, hdue]
  calc (s.stage c).cmds.filter (fun c => c.code == 0x61 && decide (u64 c.body 0 ≤ t))
      = _ := List.filter_append _ _
    _ = [c] := by rw [hnone, hown, List.nil_append]

/-- A FW_ACTIVATE_AT that waits alone is the one due at an instant it has reached (R394). -/
theorem State.activateDue_stage {s : State} {c : Cmd} (hcode : c.code = 0x61)
    (hothers : s.cmds.all (fun c => c.code != 0x61) = true) {t : Nat} (hdue : u64 c.body 0 ≤ t) :
    (s.stage c).activateDue t = (s.stage c).activate c t := by
  rw [State.activateDue, State.stage_activations hcode hothers hdue]
  rfl

/-- With no job active an activation of the staged image starts it (R395). -/
theorem State.activate_staged {s : State} {c : Cmd} {x : Image} (hversion : s.stagedVersion = some (u32 c.body 0x0C))
    (hx : s.flash.other = some x) (hidle : s.active = none) (t : Nat) :
    s.activate c t = (s.startImage x).answer c t (ok []) := by
  have hprograms : (s.startImage x).newPrograms t = s.startImage x := by
    have hstill : (s.startImage x).active = none := hidle
    simp only [State.newPrograms, hstill]
  have hright : ¬ s.stagedVersion ≠ some (u32 c.body 0x0C) := not_not.mpr hversion
  simp only [State.activate, if_neg hright, hx, hidle, hprograms]

/-- With no job active a failed activation is answered and nothing else (R396). -/
theorem State.migrationFails_idle {s : State} {c : Cmd} {t : Nat} (hdue : s.activationDue t = some c)
    (hversion : s.stagedVersion = some (u32 c.body 0x0C)) (hidle : s.active = none) :
    s.migrationFails t = s.answer c t (fail 0x8701) := by
  simp only [State.migrationFails, hdue, if_neg (not_not.mpr hversion), hidle]

/-- FW_ACTIVATE_AT that has reached its instant, with no job active, starts the staged image (R394, R395). -/
theorem acceptActivate_late {s : State} {p : PartId} {m : BoxId} {x : Image} (hdue : Due s p m 0x61)
    (hjob : (s.asked p m).job = 0)
    (hbody : bodyFault (s.asked p m).body activateFields (activateChecks (s.asked p m).body) = none)
    (hright : (s.planRec p).moduleCfg = true) (hinstant : s.instantCheck (s.asked p m) = none) (hidle : s.active = none)
    (hreached : u64 (s.asked p m).body 0 ≤ s.now) (hothers : s.cmds.all (fun c => c.code != 0x61) = true)
    (hx : s.flash.other = some x) (hversion : s.stagedVersion = some (u32 (s.asked p m).body 0x0C)) :
    acceptActivate (s.flipped p m) s
      = ((s.stage (s.asked p m)).startImage x).answer (s.asked p m) s.now (ok []) := by
  have hcheck : firstFault [noScope (s.asked p m), bodyFault (s.asked p m).body activateFields
      (activateChecks (s.asked p m).body), s.moduleRight (s.asked p m).p, s.instantCheck (s.asked p m)] = none :=
    firstFault_cons (noScope_pass hjob) (firstFault_cons hbody
      (firstFault_cons (State.moduleRight_pass hright) (firstFault_cons hinstant rfl)))
  have hstill : (s.stage (s.asked p m)).active.isNone = true := by
    rw [show (s.stage (s.asked p m)).active = none from hidle]
    rfl
  have hcode : (s.asked p m).code = 0x61 := hdue.code
  have haccept : acceptActivate (s.flipped p m) s
      = match firstFault [noScope (s.asked p m), bodyFault (s.asked p m).body activateFields
          (activateChecks (s.asked p m).body), s.moduleRight (s.asked p m).p, s.instantCheck (s.asked p m)] with
        | some r => s.finish (s.asked p m) r
        | none => if (s.stage (s.asked p m)).active.isNone then (s.stage (s.asked p m)).activateDue s.now
          else s.stage (s.asked p m) := rfl
  calc acceptActivate (s.flipped p m) s
      = (s.stage (s.asked p m)).activateDue s.now := by
        rw [haccept, hcheck]
        exact if_pos hstill
    _ = (s.stage (s.asked p m)).activate (s.asked p m) s.now := State.activateDue_stage hcode hothers hreached
    _ = _ := State.activate_staged (s := s.stage (s.asked p m)) hversion hx hidle s.now

theorem exec_fwActivateAt {s : State} {p : PartId} {m : BoxId} (hdue : Due s p m 0x61) :
    exec (.fwActivateAt p m) s = .next (acceptActivate (s.flipped p m) s) :=
  congrArg Host.Outcome.next (State.serveIf_due hdue rfl _)

/-- Settles O22: a failed activation is only answered; one that acts late moves the slot selector. -/
theorem activationRules : Obligations.ActivationRules := by
  unfold Obligations.ActivationRules
  refine ⟨?_, ?_⟩
  · intro s t c htime hdue hversion hidle
    have hexec : exec (.fwMigrationTimeout t) s = .next ((advance t s).migrationFails (advance t s).now) := rfl
    rw [hexec, advance_now htime, show s.now = t from htime, State.migrationFails_idle hdue hversion hidle]
  · intro s p m x hdue hjob hbody hright hinstant hidle hreached hothers hx hversion
    have hnamed : s.asked p m = { s.flipped p m with slots := [] } := s.named_fwActivateAt (c := s.flipped p m) hdue.code
    have hslots : (s.asked p m).slots = [] := by rw [hnamed]
    refine ⟨_, (exec_fwActivateAt hdue).trans (congrArg _
      (acceptActivate_late hdue hjob hbody hright hinstant hidle hreached hothers hx hversion)), ?_⟩
    rw [State.answer_fw, State.answer_flash, State.answer_jobs, State.answer_hbm_noSlots _ hslots, State.cmdAt_answer]
    exact ⟨rfl, rfl, rfl, rfl, if_pos ⟨rfl, rfl⟩, rfl, rfl⟩

end Sys2Proof.Machine
end

section
/-! Ending commands and jobs: what every operation of it leaves, and what it only takes away. A reset and the entry to Calm are
chains of such operations (R406, R412-R414). -/
namespace Sys2Proof.Machine

/-- What ending commands and jobs leaves. -/
structure Standing where
  flash : Flash
  plan : List PartRec
  board : Board
  tb : Timebase
  coord : Coord
  power : Power
  graphs : List Graph
  blocks : List Block

def State.standing (s : State) : Standing := ⟨s.flash, s.plan, s.board, s.tb, s.coord, s.power, s.graphs, s.blocks⟩

/-- From one state to a later one commands and jobs have only ended: no job has come, no mailbox has been taken, and HBM stands as
well as it did. -/
structure State.Subsides (s t : State) : Prop where
  standing : t.standing = s.standing
  jobs : ∀ j ∈ t.jobs, ∃ i ∈ s.jobs, i.part = j.part ∧ i.handle = j.handle
  boxes : ∀ p m, (s.box p m).owned = false → (t.box p m).owned = false
  memory : s.memoryWf → t.memoryWf
  side : s.hbm.side = [] → t.hbm.side = []

namespace State.Subsides

theorem refl (s : State) : s.Subsides s := ⟨rfl, fun j hj => ⟨j, hj, rfl, rfl⟩, fun _ _ h => h, id, id⟩

theorem trans {s t u : State} (hst : s.Subsides t) (htu : t.Subsides u) : s.Subsides u where
  standing := htu.standing.trans hst.standing
  jobs j hj := by
    obtain ⟨i, hi, hpart, hhandle⟩ := htu.jobs j hj
    obtain ⟨k, hk, hpart', hhandle'⟩ := hst.jobs i hi
    exact ⟨k, hk, hpart'.trans hpart, hhandle'.trans hhandle⟩
  boxes p m h := htu.boxes p m (hst.boxes p m h)
  memory h := htu.memory (hst.memory h)
  side h := htu.side (hst.side h)

theorem foldl {α : Type} {f : State → α → State} (hf : ∀ s x, State.Subsides s (f s x)) (xs : List α) (s : State) :
    s.Subsides (xs.foldl f s) := by
  induction xs generalizing s with
  | nil => exact refl s
  | cons x xs ih => exact (hf s x).trans (ih (f s x))

theorem flash {s t : State} (h : s.Subsides t) : t.flash = s.flash := congrArg Standing.flash h.standing
theorem plan {s t : State} (h : s.Subsides t) : t.plan = s.plan := congrArg Standing.plan h.standing
theorem board {s t : State} (h : s.Subsides t) : t.board = s.board := congrArg Standing.board h.standing
theorem tb {s t : State} (h : s.Subsides t) : t.tb = s.tb := congrArg Standing.tb h.standing
theorem coord {s t : State} (h : s.Subsides t) : t.coord = s.coord := congrArg Standing.coord h.standing
theorem power {s t : State} (h : s.Subsides t) : t.power = s.power := congrArg Standing.power h.standing
theorem graphs {s t : State} (h : s.Subsides t) : t.graphs = s.graphs := congrArg Standing.graphs h.standing
theorem blocks {s t : State} (h : s.Subsides t) : t.blocks = s.blocks := congrArg Standing.blocks h.standing

/-- A change of none of what is spoken of. -/
theorem of_eq {s t : State} (hstanding : t.standing = s.standing) (hjobs : t.jobs = s.jobs) (hparts : t.parts = s.parts)
    (hhbm : t.hbm = s.hbm) : s.Subsides t where
  standing := hstanding
  jobs j hj := ⟨j, hjobs ▸ hj, rfl, rfl⟩
  boxes p m h := by rwa [State.box, hparts]
  memory h := State.memoryWf_of_eq h (congrArg Hbm.mem hhbm) hparts
  side h := by rwa [hhbm]

/-- A change of HBM alone. -/
theorem of_hbm {s : State} {hb : Hbm} (hmemory : Mem.wf s.hbm.mem = true → Mem.wf hb.mem = true)
    (hside : s.hbm.side = [] → hb.side = []) : s.Subsides { s with hbm := hb } :=
  ⟨rfl, fun j hj => ⟨j, hj, rfl, rfl⟩, fun _ _ h => h, fun h => ⟨hmemory h.1, h.2⟩, hside⟩

/-- A change of jobs that leaves each its partition and its handle. -/
theorem updJob (s : State) (h : Nat) {f : Job → Job}
    (hf : ∀ j, (f j).part = j.part ∧ (f j).handle = j.handle := by exact fun _ => ⟨rfl, rfl⟩) : s.Subsides (s.updJob h f) where
  standing := rfl
  jobs j hj := by
    obtain ⟨i, hi, rfl⟩ := List.mem_map.mp hj
    refine ⟨i, hi, ?_⟩
    split
    · exact ⟨(hf i).1.symm, (hf i).2.symm⟩
    · exact ⟨rfl, rfl⟩
  boxes _ _ h := h
  memory := id
  side := id

/-- A change of one partition that takes no mailbox and keeps its control window in its form. -/
theorem updPart (s : State) (p : PartId) {f : Part → Part}
    (hboxes : ∀ (q : Part) (m : BoxId), q.boxes[m.val].owned = false → (f q).boxes[m.val].owned = false)
    (hctrl : ∀ q : Part, Mem.wf q.ctrl = true → Mem.wf (f q).ctrl = true) : s.Subsides (s.updPart p f) where
  standing := rfl
  jobs j hj := ⟨j, hj, rfl, rfl⟩
  boxes q m h := by
    rw [State.box, State.updPart, Vector.getElem_set]
    split
    · next hpq => exact hboxes _ m (by simpa only [State.box, hpq] using h)
    · exact h
  memory h := ⟨h.1, fun q => by
    rw [State.updPart, Vector.getElem_set]
    split
    · exact hctrl _ (h.2 p)
    · exact h.2 q⟩
  side := id

/-- A change of every partition that takes no mailbox and leaves every control window. -/
theorem mapParts (s : State) {f : Part → Part} (hboxes : ∀ q, (f q).boxes = q.boxes) (hctrl : ∀ q, (f q).ctrl = q.ctrl) :
    s.Subsides { s with parts := s.parts.map f } where
  standing := rfl
  jobs j hj := ⟨j, hj, rfl, rfl⟩
  boxes p m h := by simpa only [State.box, Vector.getElem_map, hboxes] using h
  memory h := ⟨h.1, fun q => by simpa only [Vector.getElem_map, hctrl] using h.2 q⟩
  side := id

end State.Subsides

/-! ## HBM -/

theorem sPoison_zero : sPoison 0 = false := by decide
theorem wPoison_zero : wPoison 0 = false := by decide

theorem Hbm.sWrite_side {h : Hbm} (hside : h.side = []) (a : Nat) (bs : Bytes) : (h.sWrite a bs).side = [] := by
  simp [Hbm.sWrite, hside]

theorem bulkPut_side (addr : Nat → Nat) (xs : List (Nat × Nat)) (bs : Bytes) {h : Hbm} (hside : h.side = []) :
    (bulkPut addr xs bs h).side = [] := by
  induction xs generalizing bs h with
  | nil => exact hside
  | cons x xs ih => exact ih _ (Hbm.sWrite_side hside _ _)

theorem Hbm.wBad_clean {h : Hbm} (hside : h.side = []) (l : Nat) : h.wBad l = false := by
  rw [Hbm.wBad, hside]
  exact wPoison_zero

theorem Hbm.mend_clean {h : Hbm} (hside : h.side = []) (l : Nat) : h.mend l = h := by
  rw [Hbm.mend, Hbm.wBad_clean hside]
  rfl

theorem Hbm.wLine_side {h : Hbm} (hside : h.side = []) (a : Nat) (bs : Bytes) : (h.wLine a bs).side = [] := by
  simp [Hbm.wLine, Hbm.mend_clean hside, Hbm.wBad_clean hside, Hbm.clean, hside]

theorem Hbm.wLines_side (fuel a : Nat) (bs : Bytes) {h : Hbm} (hside : h.side = []) : (Hbm.wLines fuel a bs h).side = [] := by
  induction fuel generalizing a bs h with
  | zero => exact hside
  | succ fuel ih =>
    rw [Hbm.wLines]
    split
    · exact hside
    · exact ih _ _ (Hbm.wLine_side hside _ _)

theorem Hbm.foldl_side {α : Type} {f : Hbm → α → Hbm} (hf : ∀ h x, h.side = [] → (f h x).side = []) (xs : List α) {h : Hbm}
    (hside : h.side = []) : (xs.foldl f h).side = [] := by
  induction xs generalizing h with
  | nil => exact hside
  | cons x xs ih => exact ih (hf h x hside)

theorem Hbm.clearRun_side {h : Hbm} (hside : h.side = []) (r : GenRun) (c : Nat) : (h.clearRun r c).side = [] := by
  rw [Hbm.clearRun]
  split
  · exact hside
  · simp [hside]

theorem Hbm.endGens_side {h : Hbm} (hside : h.side = []) : h.endGens.side = [] := by
  refine Hbm.foldl_side (fun h g hside => ?_) h.gens hside
  split
  · split
    · exact Hbm.clearRun_side hside _ _
    · exact hside
  · exact hside

/-! ## Shared operations -/

section
variable (s : State)

theorem State.clearBlocks_subsides (bs : List Block) : s.Subsides (s.clearBlocks bs) :=
  .of_hbm (fun h => Hbm.foldl_wf _ (fun _ _ hx => Hbm.wPut_wf hx _ _) _ h)
    (Hbm.foldl_side (fun _ _ hside => Hbm.wLines_side _ _ _ hside) _)

theorem State.settle_subsides : s.Subsides s.settle :=
  .of_hbm (fun h => Hbm.wipeUnits_wf h _ _) (fun hside => by simp [Hbm.wipeUnits, hside])

theorem State.fixW_subsides : s.Subsides s.fixW := by
  rw [State.fixW]
  split
  · exact s.settle_subsides
  · exact .refl s

theorem State.dropStaged_subsides (c : Cmd) : s.Subsides (s.dropStaged c) :=
  (s.clearBlocks_subsides c.blocks).trans (State.fixW_subsides _)

theorem State.withSent_subsides (b : Vector HPort 4 × List Qp × List Out) : s.Subsides (s.withSent b) := .of_eq rfl rfl rfl rfl

theorem State.noticePart_subsides (p : PartId) (w : BitVec 32) : s.Subsides (s.noticePart p w) := by
  obtain ⟨b, hb⟩ := s.noticePart_shape p w
  rw [hb]
  exact s.withSent_subsides b

theorem State.notice_subsides (k : Nat) (w : BitVec 32) : s.Subsides (s.notice k w) := by
  obtain ⟨b, hb⟩ := s.notice_shape k w
  rw [hb]
  exact s.withSent_subsides b

theorem State.ctrlWrite_subsides (p : PartId) (a : Nat) (bs : Bytes) : s.Subsides (s.ctrlWrite p a bs) :=
  .updPart s p (fun _ _ h => h) (fun _ h => Mem.write_wf h a bs)

theorem State.updBox_subsides (p : PartId) (m : BoxId) {f : Box → Box} (hf : ∀ b, b.owned = false → (f b).owned = false) :
    s.Subsides (s.updBox p m f) := by
  refine .updPart s p (fun q k h => ?_) (fun _ h => h)
  rw [Vector.getElem_set]
  split
  · next hmk => exact hf _ (by simpa only [hmk] using h)
  · exact h

theorem Part.post_boxes (q : Part) (p : Nat) (e : Event) : (q.post p e).boxes = q.boxes := by
  fun_cases Part.post q p e <;> rfl

theorem State.postTo_subsides (p : PartId) (e : Event) : s.Subsides (s.postTo p e) := by
  have hpost : s.Subsides (s.updPart p (fun q => q.post p.val e)) :=
    .updPart s p (fun q m h => by rwa [Part.post_boxes]) (fun q h => by rwa [Part.post_ctrl])
  rw [State.postTo]
  split
  · dsimp only
    split
    · exact hpost.trans (State.noticePart_subsides _ _ _)
    · exact hpost
  · exact .refl s

theorem State.postModule_subsides (e : Event) : s.Subsides (s.postModule e) :=
  .foldl (fun s p => s.postTo_subsides p _) allParts s

theorem State.bulkWrite_subsides (p : PartId) (v : Nat) (bs : Bytes) : s.Subsides (s.bulkWrite p v bs) :=
  .of_hbm (bulkPut_wf _ _ _) (bulkPut_side _ _ _)

theorem State.bulkStore_subsides (p : PartId) (v : Nat) (bs : Bytes) : s.Subsides (s.bulkStore p v bs) :=
  (State.Subsides.foldl (fun s _ => s.postModule_subsides _) _ s).trans (State.bulkWrite_subsides _ _ _ _)

/-! ## Answers -/

theorem State.returnSlot_subsides (p : PartId) (k : Nat) : s.Subsides (State.returnSlot p s k) := by
  rw [State.returnSlot]
  split
  · exact (s.bulkStore_subsides p k [0]).trans (State.noticePart_subsides _ _ _)
  · exact .refl s

theorem State.returnSlots_subsides (p : PartId) (ks : List Nat) : s.Subsides (s.returnSlots p ks) :=
  .foldl (State.returnSlot_subsides · p) _ s

theorem State.replyHeader_subsides (p : PartId) (m : BoxId) (tag flip done : Nat) (r : Result) :
    s.Subsides (s.replyHeader p m tag flip done r) :=
  (s.ctrlWrite_subsides p _ _).trans (State.ctrlWrite_subsides _ p _ _)

theorem State.replyBody_subsides (p : PartId) (m : BoxId) (r : Result) : s.Subsides (s.replyBody p m r) := by
  rw [State.replyBody]
  split
  · exact s.ctrlWrite_subsides p _ _
  · exact .refl s

theorem State.returnBox_subsides (p : PartId) (m : BoxId) : s.Subsides (s.returnBox p m) := by
  have hgiven : s.Subsides ((s.ctrlWrite p (boxAt m) (zeros 8)).updBox p m
      (fun b => { b with owned := false, taken := false, flipQp := none })) :=
    (s.ctrlWrite_subsides p _ _).trans (State.updBox_subsides _ p m (fun _ _ => rfl))
  rw [State.returnBox]
  split
  · exact hgiven
  · exact hgiven.trans (State.notice_subsides _ _ _)

theorem State.answer_subsides (c : Cmd) (done : Nat) (r : Result) : s.Subsides (s.answer c done r) :=
  ((((s.returnSlots_subsides c.p c.slots).trans (State.replyHeader_subsides _ c.p c.m c.tag c.flip done r)).trans
    (State.replyBody_subsides _ c.p c.m r)).trans (State.returnBox_subsides _ c.p c.m)).trans (.of_eq rfl rfl rfl rfl)

/-! ## Steps -/

theorem State.tidyJob_subsides (h : Nat) : s.Subsides (s.tidyJob h) := .updJob s h

theorem State.pinFrames_subsides (h : Nat) (fs : List (Nat × Nat)) (up : Bool) : s.Subsides (s.pinFrames h fs up) :=
  .updJob s h

theorem State.control_subsides (job : Nat) (ranks : List Nat) (kind rank reason step boundary : Nat) :
    s.Subsides (s.control job ranks kind rank reason step boundary) := by
  obtain ⟨b, hb⟩ := s.control_shape job ranks kind rank reason step boundary
  rw [hb]
  exact .of_eq rfl rfl rfl rfl

theorem State.abandonStep_subsides (j : Job) (x : Step) (cause : Nat) : s.Subsides (s.abandonStep j x cause) := by
  have htidy : s.Subsides ((s.updJob j.handle Job.dropRound).tidyJob j.handle) :=
    .trans (.updJob s j.handle) (State.tidyJob_subsides _ _)
  rw [State.abandonStep]
  dsimp only
  split
  · split
    · exact htidy
    · exact (htidy.trans (State.answer_subsides _ _ _ _)).trans (State.postTo_subsides _ _ _)
  · exact htidy.trans (State.postTo_subsides _ _ _)

/-- The state in which a step's kill stands in its job and its cells (R97, R148). -/
def State.killing (h : Nat) (x : Step) (cause : Nat) : State :=
  (({ s with counters := { s.counters with kills := satInc s.counters.kills } } : State).updCells
    (fun c => c.job == some h) (Cell.kill s.now)).updJob h
      (fun j => { j.unstage with step := some (x.killed cause (causeCounts cause)) })

theorem State.killStep_subsides (h cause : Nat) (tell : Bool) : s.Subsides (s.killStep h cause tell) := by
  rw [State.killStep]
  split
  · exact .refl s
  · next j _ =>
    split
    · exact .refl s
    · next x _ =>
      split
      · exact .refl s
      · dsimp only
        have hkilled : s.Subsides (s.killing h x cause) := by
          refine .trans ?_ (.updJob _ h)
          exact .of_eq rfl rfl rfl rfl
        have htold := hkilled.trans (State.control_subsides _ h j.others 2 j.rank cause x.number.toNat 0)
        split
        · split
          · exact htold.trans (State.abandonStep_subsides _ _ _ _)
          · exact hkilled.trans (State.abandonStep_subsides _ _ _ _)
        · split
          · exact htold
          · exact hkilled

/-! ## Ships -/

theorem State.answerAt_subsides (p : PartId) (m : BoxId) (t : Nat) (r : Result) : s.Subsides (s.answerAt p m t r) := by
  rw [State.answerAt]
  split
  · exact .refl s
  · exact s.answer_subsides _ t r

theorem State.endShipOut_subsides (x : ShipOut) (t : Nat) (r : Result) : s.Subsides (s.endShipOut x t r) := by
  rw [State.endShipOut_eq]
  refine .trans ?_ (State.answerAt_subsides _ _ _ _ _)
  refine .trans ?_ (State.pinFrames_subsides _ _ _ _)
  exact .of_eq rfl rfl rfl rfl

theorem State.endShipIn_subsides (x : ShipRecv) (t : Nat) (r : Result) : s.Subsides (s.endShipIn x t r) := by
  rw [State.endShipIn_eq]
  refine .trans ?_ (State.answerAt_subsides _ _ _ _ _)
  refine .trans ?_ (State.pinFrames_subsides _ _ _ _)
  exact .of_eq rfl rfl rfl rfl

theorem State.failSend_subsides (x : ShipOut) (t : Nat) (r : Result) : s.Subsides (s.failSend x t r) :=
  (s.endShipOut_subsides x t r).trans (.foldl (fun s y => s.endShipIn_subsides y t r) _ _)

theorem State.failRecv_subsides (y : ShipRecv) (t : Nat) (r : Result) : s.Subsides (s.failRecv y t r) :=
  (s.endShipIn_subsides y t r).trans (.foldl (fun s x => s.endShipOut_subsides x t r) _ _)

theorem State.failShipping_subsides (h t : Nat) : s.Subsides (s.failShipping h t) :=
  (State.Subsides.foldl (fun s x => s.failSend_subsides x t _) _ s).trans (.foldl (fun s y => s.failRecv_subsides y t _) _ _)

theorem State.failReceives_subsides (h t : Nat) : s.Subsides (s.failReceives h t) :=
  (s.failShipping_subsides h t).trans (.foldl (fun s y => s.failRecv_subsides y t _) _ _)

theorem State.failShips_subsides (h t : Nat) : s.Subsides (s.failShips h t) :=
  (s.failReceives_subsides h t).trans (.foldl (fun s c => s.answer_subsides c t _) _ _)

/-! ## Re-placements and jobs -/

theorem State.answerPlaces_subsides (j : Job) (places : List (PartId × BoxId)) (t epoch outcome : Nat) :
    s.Subsides (s.answerPlaces j places t epoch outcome) := by
  refine .foldl (fun s x => ?_) places s
  split
  · exact .refl s
  · exact s.answer_subsides _ t _

theorem State.dropCopies_subsides (h : Nat) (r : Repl) : s.Subsides (s.dropCopies h r) := by
  refine .trans ?_ (State.fixW_subsides _)
  refine .trans ?_ (State.tidyJob_subsides _ h)
  exact .trans (s.clearBlocks_subsides _) (.updJob _ h)

theorem State.abandonRepl_subsides (h t : Nat) : s.Subsides (s.abandonRepl h t) := by
  cases hj : s.job h with
  | none =>
    simp only [State.abandonRepl, hj]
    exact .refl s
  | some j =>
    cases hr : j.layout.pending with
    | none =>
      simp only [State.abandonRepl, hj, hr]
      exact .refl s
    | some r =>
      rw [State.abandonRepl_pending hj hr]
      refine .trans ?_ (State.answerPlaces_subsides _ _ _ _ _ _)
      exact .trans (.updJob s h) (State.dropCopies_subsides _ h r)

/-- A job's ranges, wiped and left: HBM stands as well as it did. -/
theorem Hbm.wipe_side {h : Hbm} (hside : h.side = []) (rs : List URange) : (h.wipe rs).side = [] := by
  simp [Hbm.wipe, hside]

/-- A partition whose snapshot selection of a job ends (R354). -/
def Part.unselect (h : Nat) (q : Part) : Part :=
  match q.snapSel with
  | some x => if x.job = h then { q with snapSel := none } else q
  | none => q

theorem Part.unselect_boxes (h : Nat) (q : Part) : (q.unselect h).boxes = q.boxes := by
  fun_cases Part.unselect h q <;> rfl

theorem Part.unselect_ctrl (h : Nat) (q : Part) : (q.unselect h).ctrl = q.ctrl := by
  fun_cases Part.unselect h q <;> rfl

/-- The state after a job's share of it has gone, before changes of class take effect (R354). -/
def State.without (s : State) (h t : Nat) : State :=
  let mine := s.hbm.ranges.filter (fun r => r.job == h)
  { s.idleCells h t with
    jobs := s.jobs.filter (fun j => j.handle != h),
    active := if s.active = some h then none else s.active,
    hbm := { s.hbm.wipe mine with
      ranges := updIf (fun r => r.job == h) (fun r => { r with job := 0, use := .leaving }) s.hbm.ranges },
    shipsOut := s.shipsOut.filter (fun x => x.job != h),
    shipsIn := s.shipsIn.filter (fun x => x.job != h),
    parts := s.parts.map (Part.unselect h),
    net := { s.net with
      tx := s.net.tx.filter (fun x => x.key.job != h), rx := s.net.rx.filter (fun x => x.key.job != h),
      viols := s.net.viols.filter (fun v => v.1 != h), quarantined := s.net.quarantined.filter (fun v => v.1 != h) } }

theorem State.freeJob_eq (h t : Nat) : s.freeJob h t = (s.without h t).fixW := rfl

theorem State.freeJob_subsides (h t : Nat) : s.Subsides (s.freeJob h t) := by
  have hparts : s.Subsides { s with parts := s.parts.map (Part.unselect h) } :=
    .mapParts s (Part.unselect_boxes h) (Part.unselect_ctrl h)
  rw [State.freeJob_eq]
  refine .trans ?_ (State.fixW_subsides _)
  exact {
    standing := rfl
    jobs := fun j hj => ⟨j, List.mem_of_mem_filter hj, rfl, rfl⟩
    boxes := fun p m hbox => hparts.boxes p m hbox
    memory := fun hmemory => ⟨Mem.filter_wf hmemory.1 _, (hparts.memory hmemory).2⟩
    side := fun hside => Hbm.wipe_side hside _ }

/-- A freed job is gone (R354). -/
theorem State.freeJob_gone (h t : Nat) : ∀ j ∈ (s.freeJob h t).jobs, j.handle ≠ h := by
  intro j hj
  obtain ⟨hb, hfix⟩ := (s.without h t).fixW_hbm
  rw [State.freeJob_eq, hfix] at hj
  simpa using (List.mem_filter.mp hj).2

theorem State.closeNow_subsides (h t : Nat) : s.Subsides (s.closeNow h t) :=
  ((s.killStep_subsides h 10 true).trans (State.failReceives_subsides _ h t)).trans (State.freeJob_subsides _ h t)

end

end Sys2Proof.Machine
end

section
/-! Power requests as the block latches and acts on them, the power controller and the sensors (R401-R410, R432). -/
namespace Sys2Proof.Machine

/-- An instant that TIME has reached changes nothing of it. -/
theorem advance_past {s : State} {t : Nat} (h : t ≤ s.tb.time) : advance t s = s := by
  have hstand : s.tb.advance t = s.tb := if_neg fun ⟨_, hlt, _⟩ => absurd hlt (Nat.not_lt.mpr h)
  rw [advance, hstand]

/-! ## Latching a request (R402-R404) -/

/-- The power controller with a request of software pending (R404). -/
def Power.asked (q : Power) (code : Nat) (r : PowReq) (k : PowKind) : Power :=
  { q with reqLow := powLow r code, go := true, pending := some (k, r.atTime), result := 1,
           wakeOnFlip := decide (code = 3) && r.wakeOnFlip }

/-- The state with a request of software pending. -/
def State.asking (s : State) (code : Nat) (r : PowReq) (k : PowKind) : State := s.setPower (fun q => q.asked code r k)

/-- A request that the block takes, refuses nothing of and does not have in force yet is pending (R403, R404). -/
theorem State.latchPower_pending {s : State} {code : Nat} {r : PowReq} {k : PowKind} (hanswers : s.powerAnswers = true)
    (hgo : s.power.go = false) (hfault : s.powerFault code r = none) (hkind : powKind r code = some k)
    (hforce : s.power.inForce k = false) : s.latchPower code r = s.asking code r k := by
  have htaken : ¬ (s.powerAnswers = false ∨ s.power.go = true) := by simp [hanswers, hgo]
  have hgood : (s.setPower (fun q => { q with reqLow := powLow r code })).powerFault code r = none := hfault
  have hnew : (s.setPower (fun q => { q with reqLow := powLow r code })).power.inForce k = false := hforce
  rw [State.latchPower, if_neg htaken]
  simp only [hgood, hkind, hnew, Bool.false_eq_true, if_false]
  rfl

/-- Active, Lull and Calm are asked for without a key (R402, R403). -/
theorem State.powerFault_none {s : State} {code : Nat} {r : PowReq} (hcode : code < 4) (hreserved : r.reservedNonzero = false)
    (hquiet : code = 1 ∨ s.generating = false) : s.powerFault code r = none := by
  have hform : ¬ (r.reservedNonzero = true ∨ 6 < code ∨ (4 ≤ code ∧ r.key ≠ 0x5254)
      ∨ (code = 5 ∧ (s.plan.getD r.partition PartRec.empty).enabled = false) ∨ (code = 6 ∧ 128 ≤ r.cell)) := by
    simp only [hreserved, Bool.false_eq_true, false_or]
    omega
  have hidle : ¬ ((code = 2 ∨ code = 3) ∧ s.generating = true) := by
    rcases hquiet with rfl | hquiet
    · simp
    · simp [hquiet]
  have hcell : ¬ (code = 6 ∧ (s.fenced.contains r.cell = true ∨ s.power.state = .calm)) := fun h => by omega
  rw [State.powerFault, if_neg hform, if_neg hidle, if_neg hcell]

/-! ## Acting on it (R404) -/

/-- A pending request acts when TIME has reached AT and no job is active (R404). -/
theorem State.actPower_due {s : State} {code : Nat} {r : PowReq} {k : PowKind} (hidle : s.active = none)
    (hdue : r.atTime ≤ s.now) (hentered : s.power.entering = false) : (s.asking code r k).actPower
      = match k with
        | .lull => if s.power.state = .active then (s.asking code r k).enterLull s.now else s.asking code r k
        | .calm => if s.power.state = .calm then s.asking code r k else (s.asking code r k).enterCalm s.now
        | .active =>
          if s.power.state = .lull then (s.asking code r k).leaveLull s.now
          else if s.power.state = .calm ∧ s.power.waking = false then (s.asking code r k).beginWake else s.asking code r k
        | _ => s.asking code r k := by
  have hacts : ¬ (s.active.isSome = true ∨ s.now < r.atTime ∨ s.power.entering = true) := by
    simp [hidle, hentered, hdue]
  exact if_neg hacts

section
variable {s : State} {r : PowReq} {t : Nat} (htime : s.tb.time = t) (hanswers : s.powerAnswers = true)
  (hgo : s.power.go = false) (hreserved : r.reservedNonzero = false) (hdue : r.atTime ≤ t) (hidle : s.active = none)
  (hentered : s.power.entering = false)
include htime hanswers hgo hreserved hdue hidle hentered

theorem exec_powerRequestLull (hactive : s.power.state = .active) (hquiet : s.generating = false) :
    exec (.powerRequestLull r t) s = .next ((s.asking 2 r .lull).enterLull t) := by
  have hforce : s.power.inForce .lull = false := by simp [Power.inForce, hactive]
  have hlatch : s.latchPower 2 r = s.asking 2 r .lull :=
    State.latchPower_pending hanswers hgo (State.powerFault_none (by decide) hreserved (.inr hquiet)) rfl hforce
  have hexec : exec (.powerRequestLull r t) s = .next ((advance t s).latchPower 2 r).actPower := rfl
  have hnow : s.now = t := htime
  rw [hexec, advance_now htime, hlatch, State.actPower_due hidle (hnow ▸ hdue) hentered, hnow]
  exact congrArg _ (if_pos hactive)

theorem exec_powerRequestActive (hlull : s.power.state = .lull) :
    exec (.powerRequestActive r t) s = .next ((s.asking 1 r .active).leaveLull t) := by
  have hforce : s.power.inForce .active = false := by simp [Power.inForce, hlull]
  have hlatch : s.latchPower 1 r = s.asking 1 r .active :=
    State.latchPower_pending hanswers hgo (State.powerFault_none (by decide) hreserved (.inl rfl)) rfl hforce
  have hexec : exec (.powerRequestActive r t) s = .next ((advance t s).latchPower 1 r).actPower := rfl
  have hnow : s.now = t := htime
  rw [hexec, advance_now htime, hlatch, State.actPower_due hidle (hnow ▸ hdue) hentered, hnow]
  exact congrArg _ (if_pos hlull)

theorem exec_powerRequestCalm (hstate : s.power.state ≠ .calm) (hquiet : s.generating = false) :
    exec (.powerRequestCalm r t) s = .next ((s.asking 3 r .calm).enterCalm t) := by
  have hforce : s.power.inForce .calm = false := by simp [Power.inForce, hstate]
  have hlatch : s.latchPower 3 r = s.asking 3 r .calm :=
    State.latchPower_pending hanswers hgo (State.powerFault_none (by decide) hreserved (.inr hquiet)) rfl hforce
  have hexec : exec (.powerRequestCalm r t) s = .next ((advance t s).latchPower 3 r).actPower := rfl
  have hnow : s.now = t := htime
  rw [hexec, advance_now htime, hlatch, State.actPower_due hidle (hnow ▸ hdue) hentered, hnow]
  exact congrArg _ (if_neg hstate)

end

/-! ## Lull (R405) -/

@[simp] theorem Cell.setBase_base (b : CellBase) (t : Nat) (c : Cell) : (c.setBase b t).base = b := by
  rw [Cell.setBase]
  split
  · assumption
  · rfl

theorem State.enterLull_base (s : State) (t : Nat) (n : CellId) :
    (s.enterLull t).cells[n.val].base = if s.cells[n.val].base = .off then .off else .parked := by
  have hcell : (s.enterLull t).cells[n.val]
      = if s.cells[n.val].base != .off then s.cells[n.val].setBase .parked t else s.cells[n.val] :=
    Vector.getElem_map ..
  rw [hcell]
  by_cases hoff : s.cells[n.val].base = .off <;> simp [hoff]

theorem State.unparkBase_ne (s : State) (c : Cell) : s.unparkBase c ≠ .parked := by
  fun_cases State.unparkBase s c <;> simp

theorem State.leaveLull_base (s : State) (t : Nat) (n : CellId) : (s.leaveLull t).cells[n.val].base ≠ .parked := by
  have hcell : (s.leaveLull t).cells[n.val]
      = if s.cells[n.val].base = .parked then s.cells[n.val].setBase (s.unparkBase s.cells[n.val]) t else s.cells[n.val] :=
    Vector.getElem_map ..
  rw [hcell]
  split
  · rw [Cell.setBase_base]
    exact s.unparkBase_ne _
  · assumption

/-! ## Calm (R406-R408) -/

/-- What the entry to Calm does once the instants, the re-placements and the ships have ended (R406). -/
def State.calmed (s : State) (t : Nat) : State :=
  ({ s.dropSnaps with
    jobs := s.jobs.map (fun j => { j with prog := .none, credit := false }),
    cells := s.cells.map (Cell.powerOff t),
    hbm := s.hbm.endGens } : State).setPower (fun q => { q with
      state := .calm, entering := true, waking := false, doneTime := BitVec.ofNat 64 t,
      coreMv := if q.state = .lull then q.activeMv else q.coreMv })

theorem State.enterCalm_idle {s : State} (hidle : s.active = none) (t : Nat) :
    s.enterCalm t = ((s.endInstants t).abandonAll t).calmed t := by
  rw [State.enterCalm, hidle]
  rfl

theorem State.endInstants_subsides (s : State) (t : Nat) : s.Subsides (s.endInstants t) :=
  .foldl (fun s c => s.answer_subsides c t _) _ s

theorem State.abandonAll_subsides (s : State) (t : Nat) : s.Subsides (s.abandonAll t) :=
  State.Subsides.foldl (fun s (j : Job) => (s.abandonRepl_subsides j.handle t).trans (State.failShips_subsides _ j.handle t)) _ s

theorem State.calmed_snap (s : State) (t : Nat) (p : PartId) : (s.calmed t).parts[p.val].snap = none := by
  have hpart : (s.calmed t).parts[p.val] = { s.parts[p.val] with snapSel := none, snap := none } := Vector.getElem_map ..
  rw [hpart]

theorem State.calmed_base (s : State) (t : Nat) (n : CellId) : (s.calmed t).cells[n.val].base = .off := by
  have hcell : (s.calmed t).cells[n.val] = s.cells[n.val].powerOff t := Vector.getElem_map ..
  rw [hcell]
  rfl

theorem State.calmed_prog (s : State) (t : Nat) : ∀ j ∈ (s.calmed t).jobs, j.prog = .none := by
  intro j hj
  obtain ⟨i, -, rfl⟩ := List.mem_map.mp hj
  rfl

theorem Hbm.endGens_gens (h : Hbm) : h.endGens.gens = [] := rfl

/-- The module with HBM in self-refresh (R406). -/
def State.refreshing (s : State) : State := { s with hbm := { s.hbm with selfRefresh := true } }

theorem State.calmReached_enters {s : State} (hcalm : s.power.state = .calm) (hentered : s.power.entering = true)
    (hasleep : s.power.wakeAsked = false) :
    s.calmReached = s.refreshing.setPower (fun q => { q with entering := false, go := false, pending := none, result := 2 }) := by
  rw [State.calmReached, if_pos ⟨hcalm, hentered⟩]
  exact if_neg fun hasked => Bool.false_ne_true (hasleep.symm.trans hasked)

/-- The module with HBM out of self-refresh and its cells under power again (R408). -/
def State.repowered (s : State) : State :=
  { s with
    hbm := { s.hbm with selfRefresh := false },
    cells := Vector.ofFn (fun n => if s.fenced.contains n.val then s.cells[n] else
      { Cell.reset with base := .idle, stateTime := s.now, traps := s.cells[n].traps }) }

theorem State.wake_repowered_jobs (s : State) : (s.repowered.wake s.now).jobs = s.jobs := by
  unfold State.wake State.setPower State.repowered
  rfl

theorem State.recalibrated_idle {s : State} (hwaking : s.power.waking = true) (hrefresh : s.hbm.selfRefresh = true)
    (hidle : s.active = none) : s.recalibrated = s.repowered.wake s.now := by
  have hdone : s.recalibrated
      = match s.active with | none => s.repowered.wake s.now | some h => s.repowered.streamIn h s.now :=
    if_pos ⟨hwaking, hrefresh⟩
  rw [hdone, hidle]

theorem State.repowered_base {s : State} {n : CellId} (hfenced : n.val ∉ s.fenced) : s.repowered.cells[n.val].base = .idle := by
  have hcell : s.repowered.cells[n.val] = if s.fenced.contains n.val then s.cells[n.val] else
      { Cell.reset with base := .idle, stateTime := s.now, traps := s.cells[n.val].traps } := Vector.getElem_ofFn ..
  rw [hcell, if_neg (by simpa using hfenced)]

/-! ## The power controller (R409, R410) -/

theorem Power.sample_samples (q : Power) (watts : Nat) (tj : Int) : (q.sample watts tj).samples.length ≤ 8 := by
  have hlast : (q.sample watts tj).samples = (q.samples ++ [watts]).drop ((q.samples ++ [watts]).length - 8) := rfl
  rw [hlast, List.length_drop]
  omega

/-- The next voltage in Active: 5 mV down, 5 mV up or as it was, within 0.55 V and 0.70 V (R409). -/
theorem Power.sample_coreMv {q : Power} (hactive : q.state = .active) (watts : Nat) (tj : Int) (hlow : 550 ≤ q.coreMv.toNat)
    (hhigh : q.coreMv.toNat ≤ 700) :
    550 ≤ (q.sample watts tj).coreMv.toNat ∧ (q.sample watts tj).coreMv.toNat ≤ 700
      ∧ (800 < tj → (q.sample watts tj).coreMv.toNat = Nat.max 550 (q.coreMv.toNat - 5)) := by
  obtain ⟨above, up, hmv⟩ : ∃ above up : Bool, (q.sample watts tj).coreMv = BitVec.ofNat 16
      (if above || decide (800 < tj) then Nat.max 550 (q.coreMv.toNat - 5)
       else if up then Nat.min 700 (q.coreMv.toNat + 5) else q.coreMv.toNat) := ⟨_, _, if_pos hactive⟩
  have hdown : 550 ≤ Nat.max 550 (q.coreMv.toNat - 5) ∧ Nat.max 550 (q.coreMv.toNat - 5) ≤ 700 :=
    ⟨Nat.le_max_left _ _, Nat.max_le.mpr ⟨by omega, by omega⟩⟩
  have hup : 550 ≤ Nat.min 700 (q.coreMv.toNat + 5) ∧ Nat.min 700 (q.coreMv.toNat + 5) ≤ 700 :=
    ⟨Nat.le_min.mpr ⟨by omega, by omega⟩, Nat.min_le_left _ _⟩
  have hfits {n : Nat} (h : n ≤ 700) : (BitVec.ofNat 16 n).toNat = n := by
    rw [BitVec.toNat_ofNat, Nat.mod_eq_of_lt (by omega)]
  rw [hmv]
  split
  · rw [hfits hdown.2]
    exact ⟨hdown.1, hdown.2, fun _ => rfl⟩
  · next hcool =>
    have hcold : ¬ 800 < tj := fun h => hcool (by simp [h])
    split
    · rw [hfits hup.2]
      exact ⟨hup.1, hup.2, fun h => absurd h hcold⟩
    · rw [hfits hhigh]
      exact ⟨hlow, hhigh, fun h => absurd h hcold⟩

theorem exec_powerSample {s : State} {t : Nat} (htime : s.tb.time = t) (hready : s.ready = true) (watts : Nat) (tj : Int) :
    exec (.powerSample watts tj t) s = .next (s.setPower (fun q => q.sample watts tj)) := by
  have hexec : exec (.powerSample watts tj t) s
      = .next (if (advance t s).ready then (advance t s).setPower (fun q => q.sample watts tj) else advance t s) := rfl
  rw [hexec, advance_now htime, if_pos hready]

/-! ## The statement -/

/-- Settles O49: power requests with no active job, the end of streaming, the power controller and the sensors. -/
theorem powerRules : Obligations.PowerRules := by
  unfold Obligations.PowerRules
  refine ⟨?_, ?_, ?_, ?_, ?_, ?_, ?_, ?_⟩
  · intro s r t htime hanswers hgo hreserved hdue hidle hentered hactive hquiet
    exact ⟨_, exec_powerRequestLull htime hanswers hgo hreserved hdue hidle hentered hactive hquiet, rfl, rfl, rfl, rfl, rfl,
      (s.asking 2 r .lull).enterLull_base t, rfl, rfl⟩
  · intro s r t htime hanswers hgo hreserved hdue hidle hentered hlull
    exact ⟨_, exec_powerRequestActive htime hanswers hgo hreserved hdue hidle hentered hlull, rfl, rfl, rfl, rfl,
      (s.asking 1 r .active).leaveLull_base t, rfl, rfl⟩
  · intro s r t htime hanswers hgo hreserved hdue hidle hentered hstate hquiet
    have hnot : s.power.state ≠ .calm := by rcases hstate with h | h <;> simp [h]
    have hsub : (s.asking 3 r .calm).Subsides (((s.asking 3 r .calm).endInstants t).abandonAll t) :=
      (State.endInstants_subsides _ t).trans (State.abandonAll_subsides _ t)
    have hpower := hsub.power
    refine ⟨_, exec_powerRequestCalm htime hanswers hgo hreserved hdue hidle hentered hnot hquiet, ?_⟩
    rw [State.enterCalm_idle (s := s.asking 3 r .calm) hidle]
    exact ⟨rfl, rfl, congrArg Power.result hpower, congrArg Power.go hpower, State.calmed_base _ t, State.calmed_prog _ t,
      State.calmed_snap _ t, rfl, hsub.plan⟩
  · intro s hcalm hentered hasleep
    exact ⟨_, congrArg Host.Outcome.next (State.calmReached_enters hcalm hentered hasleep), rfl, rfl, rfl, rfl, rfl,
      rfl, rfl, rfl⟩
  · intro s hwaking hrefresh hidle
    exact ⟨_, congrArg Host.Outcome.next (State.recalibrated_idle hwaking hrefresh hidle), rfl, rfl, rfl, rfl, rfl,
      s.wake_repowered_jobs, fun n hn => State.repowered_base hn⟩
  · intro s t h j hactive hj hprog
    have hexec : exec (.streamingComplete t) s = .next ((advance t s).updJob h
        (fun j => if j.prog = .streaming then { j with prog := .streamed } else j)) := by
      refine congrArg Host.Outcome.next ?_
      rw [State.streamed, show (advance t s).active = some h from hactive]
    refine ⟨_, hexec, ?_, rfl, rfl, rfl⟩
    rw [State.job_updJob_same (fun i hi => by split <;> exact hi) (show (advance t s).job h = some j from hj)]
    exact congrArg some (if_pos hprog)
  · intro s watts t tj htime hready hactive hlow hhigh
    obtain ⟨hmin, hmax, hhot⟩ := Power.sample_coreMv hactive watts tj hlow hhigh
    exact ⟨_, exec_powerSample htime hready watts tj, hmin, hmax, rfl, hhot,
      (s.power.sample_samples watts tj).trans (Nat.le_max_left _ _), rfl, rfl, rfl⟩
  · intro s v t htime hon
    have hexec : exec (.sensorRefresh v t) s = .next (if (advance t s).board.statusOn then
        { advance t s with board := { (advance t s).board with sensors := v } } else advance t s) := rfl
    rw [hexec, advance_now htime, if_pos hon]

end Sys2Proof.Machine
end

section
/-! Resets by request: of one partition, of one cell, of the module (R412-R416). -/
namespace Sys2Proof.Machine

/-! ## Requests for a reset (R402-R404) -/

theorem State.powerAnswers_of_ready {s : State} (hready : s.ready = true) : s.powerAnswers = true := by
  have hstage : s.board.bootStage = 4 := by simpa [State.ready] using hready
  rw [State.powerAnswers, hstage]
  rfl

section
variable {s : State} {r : PowReq} (hready : s.ready = true) (hgo : s.power.go = false) (hreserved : r.reservedNonzero = false)
  (hkey : r.key = 0x5254)
include hready hgo hreserved hkey

theorem State.latchPower_warm : s.latchPower 4 r = s.asking 4 r .warm := by
  have hfault : s.powerFault 4 r = none := by simp [State.powerFault, hreserved, hkey]
  exact State.latchPower_pending (State.powerAnswers_of_ready hready) hgo hfault rfl rfl

theorem State.latchPower_part {p : PartId} (hpart : r.partition = p.val) (hon : s.enabled p = true) :
    s.latchPower 5 r = s.asking 5 r (.part p.val) := by
  have henabled : (s.plan.getD r.partition PartRec.empty).enabled = true := by
    rw [hpart]
    exact hon
  have hfault : s.powerFault 5 r = none := by simp [-List.getD_eq_getElem?_getD, State.powerFault, hreserved, hkey, henabled]
  exact State.latchPower_pending (State.powerAnswers_of_ready hready) hgo hfault (hpart ▸ rfl) rfl

theorem State.latchPower_cell {n : CellId} (hcell : r.cell = n.val) (hfenced : n.val ∉ s.fenced)
    (hcalm : s.power.state ≠ .calm) : s.latchPower 6 r = s.asking 6 r (.cell n.val) := by
  have hin : ¬ 128 ≤ n.val := Nat.not_le.mpr n.isLt
  have hfault : s.powerFault 6 r = none := by
    simp [State.powerFault, hreserved, hkey, hcell, hfenced, hcalm, hin]
  exact State.latchPower_pending (State.powerAnswers_of_ready hready) hgo hfault (hcell ▸ rfl) rfl

section
variable {t : Nat} (htime : s.tb.time = t) (hdue : r.atTime ≤ t)
include htime hdue

theorem exec_partitionReset {p : PartId} (hpart : r.partition = p.val) (hon : s.enabled p = true) :
    exec (.partitionReset r t) s = .next (((s.asking 5 r (.part p.val)).partReset p t).setPower (fun q => q.done t)) := by
  have hexec : exec (.partitionReset r t) s = execPartitionReset r t s := rfl
  have hup : (s.asking 5 r (.part p.val)).ready = true := hready
  have hnow : (s.asking 5 r (.part p.val)).now = t := htime
  have hp : partOf p.val = p := Fin.ext (Nat.mod_eq_of_lt p.isLt)
  rw [hexec, execPartitionReset, advance_now htime, State.latchPower_part hready hgo hreserved hkey hpart hon]
  refine congrArg Host.Outcome.next ?_
  show (if (advance r.atTime (s.asking 5 r (.part p.val))).ready then _ else _) = _
  rw [advance_past (s := s.asking 5 r (.part p.val)) (htime ▸ hdue), if_pos hup, hnow, hp]

theorem exec_cellReset {n : CellId} (hcell : r.cell = n.val) (hfenced : n.val ∉ s.fenced)
    (hcalm : s.power.state ≠ .calm) :
    exec (.cellReset r t) s = .next (((s.asking 6 r (.cell n.val)).cellReset n t).setPower (fun q => q.done t)) := by
  have hexec : exec (.cellReset r t) s = execCellReset r t s := rfl
  have hup : (s.asking 6 r (.cell n.val)).ready = true := hready
  have hnow : (s.asking 6 r (.cell n.val)).now = t := htime
  have hn : (⟨n.val % 128, Nat.mod_lt _ (by decide)⟩ : CellId) = n := Fin.ext (Nat.mod_eq_of_lt n.isLt)
  rw [hexec, execCellReset, advance_now htime, State.latchPower_cell hready hgo hreserved hkey hcell hfenced hcalm]
  refine congrArg Host.Outcome.next ?_
  show (if (advance r.atTime (s.asking 6 r (.cell n.val))).ready then _ else _) = _
  rw [advance_past (s := s.asking 6 r (.cell n.val)) (htime ▸ hdue), if_pos hup, hnow, hn]

theorem exec_warmReset (hpending : s.power.pending = none) (sigs : Sigs) :
    exec (.warmReset r t sigs) s = .next (((s.asking 4 r .warm).warmReset sigs t).setPower (fun q => q.done t)) := by
  have hexec : exec (.warmReset r t sigs) s = execWarmReset r t sigs s := rfl
  have hup : (s.asking 4 r .warm).ready = true := hready
  have hnow : (s.asking 4 r .warm).now = t := htime
  rw [hexec, execWarmReset, advance_now htime]
  dsimp only
  rw [State.latchPower_warm hready hgo hreserved hkey]
  refine congrArg Host.Outcome.next ?_
  show (if (advance r.atTime (s.asking 4 r .warm)).ready then _ else _) = _
  rw [advance_past (s := s.asking 4 r .warm) (htime ▸ hdue), if_pos hup, hnow, hpending]
  rfl

end

end

/-! ## Flags cleared (R412) -/

theorem Hbm.sWrite_mem {h : Hbm} (hside : h.side = []) (a : Nat) (bs : Bytes) : (h.sWrite a bs).mem = Mem.write h.mem a bs := by
  have hclean (b : Nat) : h.sBad b = false := by
    rw [Hbm.sBad, hside]
    exact sPoison_zero
  simp [Hbm.sWrite, hclean]

theorem zeros_getD (n k : Nat) : (zeros n).getD k 0 = 0 := by
  simp [zeros, List.getD_eq_getElem?_getD, List.getElem?_replicate]
  split <;> rfl

/-- Where 0 stands, a write of zeros leaves 0. -/
theorem bulkPut_zero_stays (addr : Nat → Nat) (xs : List (Nat × Nat)) (n : Nat) {h : Hbm} (hside : h.side = []) {x : Nat}
    (hx : Mem.get h.mem x = 0) : Mem.get (bulkPut addr xs (zeros n) h).mem x = 0 := by
  induction xs generalizing n h with
  | nil => exact hx
  | cons y ys ih =>
    have htake : (zeros n).take y.2 = zeros (min y.2 n) := List.take_replicate ..
    have hdrop : (zeros n).drop y.2 = zeros (n - y.2) := List.drop_replicate ..
    rw [bulkPut, htake, hdrop]
    refine ih _ (Hbm.sWrite_side hside _ _) ?_
    rw [Hbm.sWrite_mem hside, Mem.get_write]
    split
    · exact zeros_getD _ _
    · exact hx

/-- Zeros written through the pieces of a range stand at every address of it. -/
theorem bulkPut_zeros (s : State) (p : PartId) (fuel v n : Nat) {h : Hbm} (hside : h.side = [])
    (hfuel : v % 65536 + n ≤ 65536 * fuel) {k : Nat} (hlow : v ≤ k) (hhigh : k < v + n) :
    Mem.get (bulkPut (s.bulkAddr p) (pieces fuel v n) (zeros n) h).mem (s.bulkAddr p k) = 0 := by
  induction fuel generalizing v n h with
  | zero => omega
  | succ fuel ih =>
    have hn : n ≠ 0 := by omega
    have hm : Nat.min n (65536 - v % 65536) = min n (65536 - v % 65536) := rfl
    rw [pieces, if_neg hn, hm]
    generalize hlen : min n (65536 - v % 65536) = len
    have htake : (zeros n).take len = zeros len := by
      rw [zeros, List.take_replicate, zeros, Nat.min_eq_left (by omega)]
    have hdrop : (zeros n).drop len = zeros (n - len) := List.drop_replicate ..
    dsimp only
    rw [bulkPut, htake, hdrop]
    dsimp only
    by_cases hk : k < v + len
    · refine bulkPut_zero_stays _ _ _ (Hbm.sWrite_side hside _ _) ?_
      have haddr : s.bulkAddr p k = s.bulkAddr p v + (k - v) := by
        have hunit : k / 65536 = v / 65536 := by omega
        simp only [State.bulkAddr, hunit]
        omega
      rw [Hbm.sWrite_mem hside, Mem.get_write, haddr]
      split
      · exact zeros_getD _ _
      · next hout => exact absurd ⟨by omega, by simp [zeros]; omega⟩ hout
    · exact ih (v + len) (n - len) (Hbm.sWrite_side hside _ _) (by omega) (by omega) (by omega)

theorem State.withPosted_hbm (s : State) (b : Vector Part 8 × Vector HPort 4 × List Qp × List Out) :
    (s.withPosted b).hbm = s.hbm := rfl

/-- A cleared flag reads 0 (R412). -/
theorem State.clearFlags_flag {s : State} {p : PartId} (hon : s.enabled p = true) (hside : s.hbm.side = []) {k : Nat}
    (hk : k < (s.planRec p).slots) : Mem.get (s.clearFlags p).hbm.mem (s.bulkAddr p k) = 0 := by
  obtain ⟨b, hb⟩ := s.postPartBad_shape p 0 (zeros (s.planRec p).slots).length
  have hlen : (zeros (s.planRec p).slots).length = (s.planRec p).slots := List.length_replicate ..
  have hflags : (s.clearFlags p).hbm
      = bulkPut (s.bulkAddr p) (piecesOf 0 (s.planRec p).slots) (zeros (s.planRec p).slots) s.hbm := by
    rw [State.clearFlags, if_pos hon, State.bulkStore, hb, State.bulkWrite, hlen]
    rfl
  rw [hflags]
  exact bulkPut_zeros s p _ 0 _ hside (by omega) (Nat.zero_le k) (by omega)

/-- A slot whose flag reads 0 is not the module's (R294). -/
theorem State.slotOwned_of_flag {s : State} {p : PartId} (hmem : Mem.wf s.hbm.mem = true)
    (hflags : ∀ k < (s.planRec p).slots, Mem.get s.hbm.mem (s.bulkAddr p k) = 0) (k : Nat) : s.slotOwned p k = false := by
  have hpieces : piecesOf k 1 = [(k, 1)] := by
    have hone : Nat.min 1 (65536 - k % 65536) = 1 := Nat.min_eq_left (by omega)
    simp [piecesOf, pieces, hone]
  by_cases hk : k < (s.planRec p).slots
  · have hread : s.bulkRead p k 1 = Mem.read s.hbm.mem (s.bulkAddr p k) 1 := by simp [State.bulkRead, hpieces]
    have hflag : (s.bulkRead p k 1).getD 0 0 = 0 := by
      rw [hread, Mem.read_getD hmem _ 1 0 Nat.one_pos, Nat.add_zero]
      exact hflags k hk
    have hnot : s.bulkRead p k 1 ≠ [1] := fun hbad => by
      rw [hbad] at hflag
      exact absurd hflag (by decide)
    rw [State.slotOwned, beq_eq_false_iff_ne.mpr hnot, Bool.and_false]
  · simp [State.slotOwned, hk]

/-- The end of one generator's run (R278). -/
def Hbm.endRun (h : Hbm) (g : Nat × Gen) : Hbm :=
  match g.2.run with
  | some r => if g.2.status = 1 then h.clearRun r g.1 else h
  | none => h

theorem Hbm.endGens_mem (h : Hbm) : h.endGens.mem = (h.gens.foldl Hbm.endRun h).mem := rfl

theorem Hbm.endRun_zero {h : Hbm} {x : Nat} (g : Nat × Gen) (hx : Mem.get h.mem x = 0) : Mem.get (h.endRun g).mem x = 0 := by
  have hclear (r : GenRun) (c : Nat) : Mem.get (h.clearRun r c).mem x = 0 := by
    rw [Hbm.clearRun]
    split
    · exact hx
    · exact (Mem.get_filter h.mem (fun a => !r.covers c a) x).trans (by rw [hx, ite_self])
  fun_cases Hbm.endRun h g
  · exact hclear _ _
  · exact hx
  · exact hx

/-- Where 0 stands, the end of the generators leaves 0 (R278). -/
theorem Hbm.endGens_zero {h : Hbm} {x : Nat} (hx : Mem.get h.mem x = 0) : Mem.get h.endGens.mem x = 0 := by
  have hfold (gs : List (Nat × Gen)) (h : Hbm) (hx : Mem.get h.mem x = 0) : Mem.get (gs.foldl Hbm.endRun h).mem x = 0 := by
    induction gs generalizing h with
    | nil => exact hx
    | cons g gs ih => exact ih _ (Hbm.endRun_zero g hx)
  rw [Hbm.endGens_mem]
  exact hfold h.gens h hx

/-- Where no generator runs, their end leaves HBM (R278). -/
theorem Hbm.endGens_mem_idle {h : Hbm} (hidle : h.gens.any (fun g => g.2.status == 1) = false) : h.endGens.mem = h.mem := by
  have hstop (h : Hbm) (g : Nat × Gen) (hg : g.2.status ≠ 1) : h.endRun g = h := by
    fun_cases Hbm.endRun h g
    · contradiction
    · rfl
    · rfl
  have hfold (gs : List (Nat × Gen)) (hgs : ∀ g ∈ gs, g.2.status ≠ 1) : gs.foldl Hbm.endRun h = h := by
    induction gs with
    | nil => rfl
    | cons g gs ih =>
      rw [List.foldl_cons, hstop h g (hgs g List.mem_cons_self)]
      exact ih fun g' hg' => hgs g' (List.mem_cons_of_mem _ hg')
  rw [Hbm.endGens_mem, hfold h.gens (by simpa using hidle)]

/-! ## What ends: mailboxes, jobs, generators (R412, R415) -/

/-- A fold of operations that each reach a goal and keep those reached before reaches them all. -/
theorem State.Subsides.foldl_reaches {α : Type} {f : State → α → State} {P : α → State → Prop}
    (hf : ∀ s x, State.Subsides s (f s x)) (hreach : ∀ s x, P x (f s x))
    (hkeep : ∀ s t x, State.Subsides s t → P x s → P x t) (xs : List α) (s : State) : ∀ x ∈ xs, P x (xs.foldl f s) := by
  induction xs generalizing s with
  | nil => exact fun x hx => absurd hx List.not_mem_nil
  | cons y ys ih =>
    intro x hx
    rcases List.mem_cons.mp hx with rfl | hx
    · exact hkeep _ _ x (State.Subsides.foldl hf ys _) (hreach s x)
    · exact ih _ x hx

section
variable (s : State) (t : Nat)

theorem State.answer_frees (c : Cmd) (r : Result) : ((s.answer c t r).box c.p c.m).owned = false :=
  congrArg Box.owned (State.returnBox_box c.p c.m)

theorem State.endBox_subsides (p : PartId) (m : BoxId) : s.Subsides (s.endBox p m t) := by
  fun_cases State.endBox s p m t
  · exact (s.dropStaged_subsides _).trans (State.answer_subsides _ _ t _)
  · exact s.answer_subsides _ t _
  · exact .refl s

theorem State.endBox_frees (p : PartId) (m : BoxId) : ((s.endBox p m t).box p m).owned = false := by
  fun_cases State.endBox s p m t
  · next c hc =>
    obtain ⟨rfl, rfl⟩ := State.cmdAt_box hc
    exact State.answer_frees _ t c _
  · exact State.answer_frees s t (s.named (s.flipped p m)) _
  · next hfree => exact Bool.eq_false_of_not_eq_true hfree

theorem State.endBoxes_subsides (p : PartId) : s.Subsides (s.endBoxes p t) :=
  .foldl (fun s m => s.endBox_subsides t p m) _ s

theorem State.endBoxes_frees (p : PartId) (m : BoxId) : ((s.endBoxes p t).box p m).owned = false := by
  have hall : ∀ m : BoxId, m ∈ allBoxes := by decide
  exact State.Subsides.foldl_reaches (P := fun m s => (s.box p m).owned = false) (fun s m => s.endBox_subsides t p m)
    (fun s m => s.endBox_frees t p m) (fun _ _ m hsub h => hsub.boxes p m h) allBoxes s m (hall m)

theorem State.failAll_subsides (js : List Job) : s.Subsides (js.foldl (fun s j => s.failReceives j.handle t) s) :=
  .foldl (f := fun s (j : Job) => s.failReceives j.handle t) (fun s j => s.failReceives_subsides j.handle t) js s

theorem State.closeAll_subsides (js : List Job) : s.Subsides (js.foldl (fun s j => s.closeNow j.handle t) s) :=
  .foldl (f := fun s (j : Job) => s.closeNow j.handle t) (fun s j => s.closeNow_subsides j.handle t) js s

theorem State.closeNow_gone (h : Nat) : ∀ j ∈ (s.closeNow h t).jobs, j.handle ≠ h := by
  rw [State.closeNow]
  exact State.freeJob_gone _ h t

/-- Closed jobs are gone (R354). -/
theorem State.closeAll_gone (js : List Job) : ∀ i ∈ js, ∀ j ∈ (js.foldl (fun s j => s.closeNow j.handle t) s).jobs,
    j.handle ≠ i.handle := by
  refine State.Subsides.foldl_reaches (f := fun s (j : Job) => s.closeNow j.handle t)
    (P := fun (i : Job) s => ∀ j ∈ s.jobs, j.handle ≠ i.handle) (fun s j => s.closeNow_subsides j.handle t)
    (fun s j => s.closeNow_gone t j.handle) (fun s u i hsub hgone j hj => ?_) js s
  obtain ⟨k, hk, -, hhandle⟩ := hsub.jobs j hj
  exact hhandle ▸ hgone k hk

/-- A job left after some were closed was there before, and was none of them (R354). -/
theorem State.closeAll_left (js : List Job) {j : Job} (hj : j ∈ (js.foldl (fun s j => s.closeNow j.handle t) s).jobs) :
    ∃ i ∈ s.jobs, i.part = j.part ∧ i ∉ js := by
  obtain ⟨i, hi, hpart, hhandle⟩ := (s.closeAll_subsides t js).jobs j hj
  exact ⟨i, hi, hpart, fun hmem => s.closeAll_gone t js i hmem j hj hhandle.symm⟩

theorem State.clearFlags_subsides (p : PartId) : s.Subsides (s.clearFlags p) := by
  rw [State.clearFlags]
  split
  · exact s.bulkStore_subsides p 0 _
  · exact .refl s

theorem State.dropSnaps_subsides : s.Subsides s.dropSnaps := .mapParts s (fun _ => rfl) (fun _ => rfl)

/-- The state in which no generator is under way. -/
def State.untested (s : State) : State := if s.generating then s.testMode false else s

theorem State.anyReset_eq : s.anyReset
    = { s.untested.dropSnaps with hbm := { s.untested.hbm.endGens with scrub := [] } } := rfl

theorem State.untested_shape : ∃ cs, s.untested = { s with cells := cs } := by
  rw [State.untested]
  split
  · exact ⟨_, rfl⟩
  · exact ⟨s.cells, rfl⟩

theorem State.anyReset_subsides : s.Subsides s.anyReset := by
  obtain ⟨cs, hcs⟩ := s.untested_shape
  have hdrop := s.dropSnaps_subsides
  rw [State.anyReset_eq, hcs]
  exact {
    standing := rfl
    jobs := fun j hj => ⟨j, hj, rfl, rfl⟩
    boxes := hdrop.boxes
    memory := fun h => ⟨Hbm.endGens_wf h.1, (hdrop.memory h).2⟩
    side := fun h => Hbm.endGens_side h }

theorem State.anyReset_hbm : s.anyReset.hbm = { s.hbm.endGens with scrub := [] } := by
  obtain ⟨cs, hcs⟩ := s.untested_shape
  rw [State.anyReset_eq, hcs]

theorem State.anyReset_mem : s.anyReset.hbm.mem = s.hbm.endGens.mem := by rw [State.anyReset_hbm]

theorem State.anyReset_parts : s.anyReset.parts = s.dropSnaps.parts := by
  obtain ⟨cs, hcs⟩ := s.untested_shape
  rw [State.anyReset_eq, hcs]
  rfl

theorem State.anyReset_events (p : PartId) : s.anyReset.parts[p.val].events = s.parts[p.val].events := by
  have hpart : s.dropSnaps.parts[p.val] = { s.parts[p.val] with snapSel := none, snap := none } := Vector.getElem_map ..
  simp only [s.anyReset_parts, hpart]

theorem State.anyReset_cells (hquiet : s.generating = false) : s.anyReset.cells = s.cells := by
  rw [State.anyReset_eq, State.untested, hquiet]
  rfl

theorem State.anyReset_jobs : s.anyReset.jobs = s.jobs := by
  obtain ⟨cs, hcs⟩ := s.untested_shape
  rw [State.anyReset_eq, hcs]
  rfl

end

end Sys2Proof.Machine
end

section
/-! What the resets leave and clear, and the statement on them (R412-R414). -/
namespace Sys2Proof.Machine

/-! ## PARTITION_RESET (R412) -/

section
variable (s : State) (p : PartId) (t : Nat)

/-- The jobs of a partition. -/
def State.jobsIn (s : State) (p : PartId) : List Job := s.jobs.filter (fun j => j.part == p)

/-- What a partition's reset ends first: the receives of its jobs, its commands, then its jobs (R412). -/
def State.partEnded (s : State) (p : PartId) (t : Nat) : State :=
  let failed := (s.jobsIn p).foldl (fun s j => s.failReceives j.handle t) s
  let ended := failed.endBoxes p t
  (ended.jobsIn p).foldl (fun s j => s.closeNow j.handle t) ended

/-- A partition whose queue pairs start over and whose event queue is empty (R412). -/
def State.partCleared (s : State) (p : PartId) : State :=
  ({ s with net := { s.net with qps := updIf (fun q => q.part == p) Qp.restart s.net.qps } } : State).updPart p Part.emptyEvents

theorem State.partReset_eq : s.partReset p t = (((s.partEnded p t).clearFlags p).partCleared p).anyReset := by
  unfold State.partReset
  extract_lets failed ended closed cleared restarted
  have hclosed : s.partEnded p t = closed := rfl
  rw [hclosed]
  clear_value closed
  rfl

theorem State.partEnded_subsides : s.Subsides (s.partEnded p t) :=
  ((s.failAll_subsides t _).trans (State.endBoxes_subsides _ t p)).trans (State.closeAll_subsides _ t _)

theorem State.partEnded_boxes (m : BoxId) : ((s.partEnded p t).box p m).owned = false :=
  (State.closeAll_subsides _ t _).boxes p m (State.endBoxes_frees _ t p m)

theorem State.partEnded_jobs : ∀ j ∈ (s.partEnded p t).jobs, j.part ≠ p := by
  intro j hj hpart
  obtain ⟨i, hi, hsame, hleft⟩ := State.closeAll_left _ t _ hj
  exact hleft (List.mem_filter.mpr ⟨hi, beq_iff_eq.mpr (hsame.trans hpart)⟩)

theorem State.partCleared_subsides : s.Subsides (s.partCleared p) := by
  refine .trans ?_ (.updPart _ p (fun _ _ h => h) (fun _ h => h))
  exact .of_eq rfl rfl rfl rfl

theorem State.partCleared_hbm : (s.partCleared p).hbm = s.hbm := rfl

theorem State.partCleared_events : (s.partCleared p).parts[p.val].events = [] := by
  simp [State.partCleared, State.updPart, Part.emptyEvents]

theorem State.partReset_subsides : s.Subsides (s.partReset p t) := by
  rw [State.partReset_eq]
  exact (((s.partEnded_subsides p t).trans (State.clearFlags_subsides _ p)).trans (State.partCleared_subsides _ p)).trans
    (State.anyReset_subsides _)

/-- What comes after the jobs have ended takes no mailbox and brings no job (R412). -/
theorem State.partReset_after : (s.partEnded p t).Subsides (s.partReset p t) := by
  rw [State.partReset_eq]
  exact ((State.clearFlags_subsides _ p).trans (State.partCleared_subsides _ p)).trans (State.anyReset_subsides _)

theorem State.partReset_jobs : ∀ j ∈ (s.partReset p t).jobs, j.part ≠ p := by
  intro j hj hpart
  obtain ⟨i, hi, hsame, -⟩ := (s.partReset_after p t).jobs j hj
  exact s.partEnded_jobs p t i hi (hsame.trans hpart)

theorem State.partReset_events : (s.partReset p t).parts[p.val].events = [] := by
  rw [State.partReset_eq, State.anyReset_events]
  exact State.partCleared_events _ p

theorem State.planRec_congr {s u : State} (hplan : u.plan = s.plan) (p : PartId) : u.planRec p = s.planRec p := by
  rw [State.planRec, State.planRec, hplan]

theorem State.bulkAddr_congr {s u : State} (hplan : u.plan = s.plan) (p : PartId) (v : Nat) :
    u.bulkAddr p v = s.bulkAddr p v := by
  rw [State.bulkAddr, State.bulkAddr, State.bulkBase, State.bulkBase, hplan]

variable {s p}

/-- Every bulk flag of the partition reads 0 after its reset (R412). -/
theorem State.partReset_slots (hmemory : s.memoryWf) (hside : s.hbm.side = []) (hon : s.enabled p = true) (k : Nat) :
    (s.partReset p t).slotOwned p k = false := by
  have hended := s.partEnded_subsides p t
  have hplan : (s.partReset p t).plan = (s.partEnded p t).plan := (s.partReset_after p t).plan
  have henabled : (s.partEnded p t).enabled p = true := by
    rw [State.enabled, State.planRec_congr hended.plan]
    exact hon
  have hmem : (s.partReset p t).hbm.mem = ((s.partEnded p t).clearFlags p).hbm.endGens.mem := by
    rw [State.partReset_eq, State.anyReset_mem, State.partCleared_hbm]
  refine State.slotOwned_of_flag ((s.partReset_subsides p t).memory hmemory).1 (fun v hv => ?_) k
  rw [State.planRec_congr hplan] at hv
  rw [State.bulkAddr_congr hplan, hmem]
  exact Hbm.endGens_zero (State.clearFlags_flag henabled (hended.side hside) hv)

end

/-! ## CELL_RESET (R413) -/

section
variable {s : State} {n : CellId} {t : Nat}

/-- A reset cell is cleared, whatever it served (R413). -/
theorem State.reloadCell_clears (s : State) (n : CellId) (t : Nat) :
    ∃ f : Cell → Cell, s.reloadCell n t = s.updCell n f ∧ ∀ c, (f c).groups = [] := by
  fun_cases State.reloadCell s n t
  · refine ⟨_, rfl, fun c => ?_⟩
    dsimp only
    split <;> rfl
  · exact ⟨_, rfl, fun _ => rfl⟩

theorem State.updCell_this (f : Cell → Cell) : (s.updCell n f).cells[n.val] = f s.cells[n.val] := Vector.getElem_set_self ..

theorem State.updCell_that (f : Cell → Cell) {m : CellId} (hm : m ≠ n) : (s.updCell n f).cells[m.val] = s.cells[m.val] :=
  Vector.getElem_set_ne n.isLt m.isLt fun h => hm (Fin.ext h.symm)

/-- The state in which a cell stands IDLE, its trap times kept (R361, R413). -/
def State.idled (s : State) (n : CellId) (t : Nat) : State := s.updCell n (fun c => { Cell.idle t c with traps := c.traps })

theorem State.cellReset_free (hjob : s.cells[n.val].job = none) : s.cellReset n t = (s.idled n t).anyReset := by
  have hreload : s.reloadCell n t = s.idled n t := by
    simp only [State.reloadCell, Fin.getElem_fin, hjob, State.idled]
  simp only [State.cellReset, Fin.getElem_fin, hjob, hreload]

/-- A kill that is not the third counted one leaves the step to be run again, and every other rank is told (R148). -/
theorem State.killStep_again {h cause : Nat} {j : Job} {x : Step} (hj : s.job h = some j) (hx : j.step = some x)
    (hlive : x.phase ≠ .killed) (hkills : x.kills + 1 ≠ 3) :
    s.killStep h cause true = (s.killing h x cause).control h j.others 2 j.rank cause x.number.toNat 0 := by
  have hagain : ¬ (causeCounts cause = true ∧ x.kills + 1 = 3) := fun ⟨_, hthird⟩ => hkills hthird
  simp only [State.killStep, hj, hx, if_neg hlive, if_neg hagain, if_true]
  rfl

theorem State.abandonRepl_none {h : Nat} {j : Job} (hj : s.job h = some j) (hpending : j.layout.pending = none) :
    s.abandonRepl h t = s := by
  simp only [State.abandonRepl, hj, hpending]

/-- A cell of a job whose step may run again: the step is killed with cause 9, the cell cleared (R369, R413). -/
theorem State.cellReset_step {h : Nat} {j : Job} {x : Step} (hcell : s.cells[n.val].job = some h) (hj : s.job h = some j)
    (hx : j.step = some x) (hlive : x.phase ≠ .killed) (hkills : x.kills + 1 ≠ 3) (hpending : j.layout.pending = none) :
    s.cellReset n t
      = (((s.killing h x 9).control h j.others 2 j.rank 9 x.number.toNat 0).reloadCell n t).anyReset
    ∧ ((s.killing h x 9).control h j.others 2 j.rank 9 x.number.toNat 0).job h
      = some { j.unstage with step := some (x.killed 9 true) } := by
  have hkilled : (s.killing h x 9).job h = some { j.unstage with step := some (x.killed 9 true) } :=
    State.job_updJob_same (fun _ hi => hi) hj
  have hafter : ((s.killing h x 9).control h j.others 2 j.rank 9 x.number.toNat 0).job h
      = some { j.unstage with step := some (x.killed 9 true) } :=
    (State.job_congr (State.control_jobs _ _ _ _ _ _ _ _) h).trans hkilled
  refine ⟨?_, hafter⟩
  simp only [State.cellReset, Fin.getElem_fin, hcell, State.killStep_again hj hx hlive hkills]
  rw [State.abandonRepl_none hafter hpending]

end

/-! ## WARM_RESET (R414) -/

section
variable (s : State) (t : Nat)

theorem State.endEverything_eq : s.endEverything t =
    let failed := s.jobs.foldl (fun s j => s.failReceives j.handle t) s
    let ended := allParts.foldl (fun s p => if s.enabled p then s.endBoxes p t else s) failed
    ended.jobs.foldl (fun s j => s.closeNow j.handle t) ended := rfl

theorem State.endAllBoxes_subsides :
    s.Subsides (allParts.foldl (fun s p => if s.enabled p then s.endBoxes p t else s) s) := by
  refine .foldl (fun s p => ?_) allParts s
  split
  · exact s.endBoxes_subsides t p
  · exact .refl s

theorem State.endEverything_subsides : s.Subsides (s.endEverything t) := by
  rw [State.endEverything_eq]
  exact ((s.failAll_subsides t _).trans (State.endAllBoxes_subsides _ t)).trans (State.closeAll_subsides _ t _)

theorem State.endEverything_jobs : (s.endEverything t).jobs = [] := by
  rw [State.endEverything_eq]
  refine List.eq_nil_iff_forall_not_mem.mpr fun j hj => ?_
  obtain ⟨i, hi, -, hleft⟩ := State.closeAll_left _ t _ hj
  exact hleft hi

theorem State.emptied_after : (s.endEverything t).Subsides (s.emptied t) :=
  (State.Subsides.foldl (fun s p => s.clearFlags_subsides p) allParts _).trans (State.anyReset_subsides _)

theorem State.emptied_subsides : s.Subsides (s.emptied t) := (s.endEverything_subsides t).trans (s.emptied_after t)

theorem State.emptied_jobs : (s.emptied t).jobs = [] := by
  refine List.eq_nil_iff_forall_not_mem.mpr fun j hj => ?_
  obtain ⟨i, hi, -⟩ := (s.emptied_after t).jobs j hj
  rw [s.endEverything_jobs t] at hi
  exact List.not_mem_nil hi

theorem State.restarted_flash : (s.restarted t).flash = s.flash := rfl

theorem State.restarted_events (p : PartId) : (s.restarted t).parts[p.val].events = [] := by
  have hpart : (s.restarted t).parts[p.val] = { s.parts[p.val].emptyEvents with evLost := 0 } := Vector.getElem_map ..
  rw [hpart]
  rfl

variable {s}

/-- A warm reset whose current image verifies runs it (R414). -/
theorem State.warmReset_runs {sigs : Sigs} {x : Image} (hcurrent : s.flash.current = some x) (hstands : x.stands false = true)
    (hsigs : sigsOk sigs = true) : s.warmReset sigs t = ((s.emptied t).restarted t).runs x := by
  have hflash : (s.emptied t).flash = s.flash := (s.emptied_subsides t).flash
  rw [State.warmReset_eq, State.restarted_flash, hflash, hcurrent]
  exact if_pos ⟨hsigs, hstands⟩

end

/-! ## The statement -/

section
variable {s : State} {r : PowReq} {t : Nat}

/-- One partition's reset, as it is asked for (R412). -/
theorem exec_partitionReset_clears {p : PartId} (hmemory : s.memoryWf) (hside : s.hbm.side = []) (htime : s.tb.time = t)
    (hready : s.ready = true) (hgo : s.power.go = false) (hreserved : r.reservedNonzero = false) (hkey : r.key = 0x5254)
    (hpart : r.partition = p.val) (hon : s.enabled p = true) (hdue : r.atTime ≤ t) :
    ∃ u, exec (.partitionReset r t) s = .next u ∧ (∀ j ∈ u.jobs, j.part ≠ p) ∧ u.parts[p.val].events = []
      ∧ (∀ m : BoxId, (u.box p m).owned = false) ∧ (∀ k, u.slotOwned p k = false) ∧ u.power.result = 2
      ∧ u.power.pending = none ∧ u.plan = s.plan ∧ u.graphs = s.graphs := by
  have hexec := exec_partitionReset hready hgo hreserved hkey htime hdue hpart hon
  have hjobs := (s.asking 5 r (.part p.val)).partReset_jobs p t
  have hevents := (s.asking 5 r (.part p.val)).partReset_events p t
  have hboxes (m : BoxId) := ((s.asking 5 r (.part p.val)).partReset_after p t).boxes p m
    ((s.asking 5 r (.part p.val)).partEnded_boxes p t m)
  have hslots := State.partReset_slots (s := s.asking 5 r (.part p.val)) t hmemory hside hon
  have hplan := ((s.asking 5 r (.part p.val)).partReset_subsides p t).plan
  have hgraphs := ((s.asking 5 r (.part p.val)).partReset_subsides p t).graphs
  generalize (s.asking 5 r (.part p.val)).partReset p t = u at *
  exact ⟨_, hexec, hjobs, hevents, hboxes, hslots, rfl, rfl, hplan, hgraphs⟩

/-- The reset of a cell that serves no job (R413). -/
theorem exec_cellReset_free {n : CellId} (htime : s.tb.time = t) (hready : s.ready = true) (hgo : s.power.go = false)
    (hreserved : r.reservedNonzero = false) (hkey : r.key = 0x5254) (hcell : r.cell = n.val) (hdue : r.atTime ≤ t)
    (hfenced : n.val ∉ s.fenced) (hcalm : s.power.state ≠ .calm) (hjob : s.cells[n.val].job = none)
    (hquiet : s.generating = false) :
    ∃ u, exec (.cellReset r t) s = .next u
      ∧ u.cells[n.val] = { Cell.reset with base := .idle, stateTime := t, traps := s.cells[n.val].traps }
      ∧ (∀ m : CellId, m ≠ n → u.cells[m.val] = s.cells[m.val]) ∧ u.hbm.mem = s.hbm.mem ∧ u.jobs = s.jobs
      ∧ u.power.result = 2 := by
  have hexec := exec_cellReset hready hgo hreserved hkey htime hdue hcell hfenced hcalm
  rw [State.cellReset_free (s := s.asking 6 r (.cell n.val)) hjob] at hexec
  have hcells := ((s.asking 6 r (.cell n.val)).idled n t).anyReset_cells hquiet
  have hmem := ((s.asking 6 r (.cell n.val)).idled n t).anyReset_mem
  have hjobs := ((s.asking 6 r (.cell n.val)).idled n t).anyReset_jobs
  have hthis : ((s.asking 6 r (.cell n.val)).idled n t).cells[n.val]
      = { Cell.reset with base := .idle, stateTime := t, traps := s.cells[n.val].traps } := State.updCell_this _
  have hthat (m : CellId) (hm : m ≠ n) : ((s.asking 6 r (.cell n.val)).idled n t).cells[m.val] = s.cells[m.val] :=
    State.updCell_that _ hm
  have hidle : s.hbm.endGens.mem = s.hbm.mem := Hbm.endGens_mem_idle hquiet
  rw [← hcells] at hthis
  simp only [← hcells] at hthat
  generalize ((s.asking 6 r (.cell n.val)).idled n t).anyReset = u at *
  exact ⟨_, hexec, hthis, hthat, hmem.trans hidle, hjobs, rfl⟩

/-- The reset of a cell whose job has a step to run again (R369, R413). -/
theorem exec_cellReset_step {h : Nat} {n : CellId} {j : Job} {x : Step} (htime : s.tb.time = t) (hready : s.ready = true)
    (hgo : s.power.go = false) (hreserved : r.reservedNonzero = false) (hkey : r.key = 0x5254) (hcell : r.cell = n.val)
    (hdue : r.atTime ≤ t) (hfenced : n.val ∉ s.fenced) (hcalm : s.power.state ≠ .calm) (hjob : s.cells[n.val].job = some h)
    (hj : s.job h = some j) (hx : j.step = some x) (hlive : x.phase ≠ .killed) (hkills : x.kills < 2)
    (hpending : j.layout.pending = none) (hquiet : s.generating = false) :
    ∃ u j' y, exec (.cellReset r t) s = .next u ∧ u.job h = some j' ∧ j'.step = some y ∧ y.phase = .killed ∧ y.cause = 9
      ∧ y.kills = x.kills + 1 ∧ u.cells[n.val].groups = [] ∧ u.hbm.mem = s.hbm.mem ∧ u.power.result = 2 := by
  have hexec := exec_cellReset hready hgo hreserved hkey htime hdue hcell hfenced hcalm
  have hkills : x.kills + 1 ≠ 3 := by omega
  obtain ⟨hreset, hkilled⟩ :=
    State.cellReset_step (s := s.asking 6 r (.cell n.val)) (t := t) hjob hj hx hlive hkills hpending
  have hhbm : (((s.asking 6 r (.cell n.val)).killing h x 9).control h j.others 2 j.rank 9 x.number.toNat 0).hbm = s.hbm :=
    State.control_hbm _ _ _ _ _ _ _ _
  rw [hreset] at hexec
  generalize ((s.asking 6 r (.cell n.val)).killing h x 9).control h j.others 2 j.rank 9 x.number.toNat 0 = k at *
  obtain ⟨f, hload, hgroups⟩ := k.reloadCell_clears n t
  rw [hload] at hexec
  have hstill : (k.updCell n f).generating = false := by
    rw [State.generating, show (k.updCell n f).hbm = s.hbm from hhbm]
    exact hquiet
  have hcells := State.anyReset_cells (k.updCell n f) hstill
  have hjobs : (k.updCell n f).anyReset.job h = _ := (State.job_congr (State.anyReset_jobs _) h).trans hkilled
  have hmem : (k.updCell n f).anyReset.hbm.mem = s.hbm.mem := by
    rw [State.anyReset_mem, show (k.updCell n f).hbm = s.hbm from hhbm]
    exact Hbm.endGens_mem_idle hquiet
  have hclear : (k.updCell n f).anyReset.cells[n.val].groups = [] := by
    simp only [hcells, State.updCell_this, hgroups]
  generalize (k.updCell n f).anyReset = u at *
  exact ⟨_, _, _, hexec, hjobs, rfl, rfl, rfl, rfl, hclear, hmem, rfl⟩

/-- A warm reset whose current image verifies (R414). -/
theorem exec_warmReset_runs {sigs : Sigs} {x : Image} (htime : s.tb.time = t) (hready : s.ready = true)
    (hgo : s.power.go = false) (hpending : s.power.pending = none) (hreserved : r.reservedNonzero = false)
    (hkey : r.key = 0x5254) (hdue : r.atTime ≤ t) (hcurrent : s.flash.current = some x) (hstands : x.stands false = true)
    (hsigs : sigsOk sigs = true) :
    ∃ u, exec (.warmReset r t sigs) s = .next u ∧ u.jobs = [] ∧ u.active = none ∧ u.ready = true
      ∧ u.fw.running = some x ∧ u.flash.failedBoots = 0 ∧ u.power.state = .active ∧ u.power.result = 2
      ∧ u.hbm.selfRefresh = false ∧ u.graphs = s.graphs ∧ u.blocks = s.blocks ∧ u.tb = s.tb ∧ u.coord = s.coord
      ∧ u.plan = s.plan ∧ u.counters = ModCounters.reset ∧ (∀ p : PartId, u.parts[p.val].events = []) := by
  have hexec := exec_warmReset hready hgo hreserved hkey htime hdue hpending sigs
  rw [State.warmReset_runs (s := s.asking 4 r .warm) t hcurrent hstands hsigs] at hexec
  have hsub := (s.asking 4 r .warm).emptied_subsides t
  have hjobs := (s.asking 4 r .warm).emptied_jobs t
  have hup : ((s.asking 4 r .warm).emptied t).ready = true := by
    rw [State.ready, hsub.board]
    exact hready
  generalize (s.asking 4 r .warm).emptied t = k at *
  exact ⟨_, hexec, hjobs, rfl, hup, rfl, rfl, rfl, rfl, rfl, hsub.graphs, hsub.blocks, hsub.tb, hsub.coord, hsub.plan, rfl,
    k.restarted_events t⟩

end

/-- Settles O50: the resets of a partition, of a cell and of the module. -/
theorem resetsClear : Obligations.ResetsClear := by
  unfold Obligations.ResetsClear
  refine ⟨?_, ?_, ?_, ?_⟩
  · intro s r t p hmemory hside htime hready hgo hreserved hkey hpart hon hdue
    exact exec_partitionReset_clears hmemory hside htime hready hgo hreserved hkey hpart hon hdue
  · intro s r t n htime hready hgo hreserved hkey hcell hdue hfenced hcalm hjob hquiet
    exact exec_cellReset_free htime hready hgo hreserved hkey hcell hdue hfenced hcalm hjob hquiet
  · intro s r t h n j x htime hready hgo hreserved hkey hcell hdue hfenced hcalm hjob hj hx hlive hkills hpending hquiet
    exact exec_cellReset_step htime hready hgo hreserved hkey hcell hdue hfenced hcalm hjob hj hx hlive hkills hpending hquiet
  · intro s r t sigs x htime hready hgo hpending hreserved hkey hdue hcurrent hstands hsigs
    exact exec_warmReset_runs htime hready hgo hpending hreserved hkey hdue hcurrent hstands hsigs

end Sys2Proof.Machine
end
